-- ==== Sys2Proof/Word.lean ====
section
/-!
DEFINITION. The word types of the N1 and their plainest arithmetic (00_scope.md R11; 01_instant_state.md Table 1.1).
-/
namespace Sys2Proof

/-- One byte. -/
abbrev Byte := BitVec 8

/-- A g register, a mask register, an address (64 bits). -/
abbrev Word := BitVec 64

/-- A v register, a queue entry, a latch row (64 bytes; byte lane i holds bits [8i+7:8i]). -/
abbrev Row := BitVec 512

/-- An instruction word (R77). -/
abbrev InstrWord := BitVec 32

/-- The bytes of a value, lowest address first (little-endian, R11). -/
def bytesOf (n : Nat) (x : Nat) : List Byte :=
  (List.range n).map (fun i => BitVec.ofNat 8 (x >>> (8 * i)))

/-- The value of little-endian bytes (R11). -/
def natOfBytes : List Byte → Nat
  | [] => 0
  | b :: bs => b.toNat + 256 * natOfBytes bs

/-- A signed integer of `w` bits read from a natural number. -/
def signedOf (w : Nat) (x : Nat) : Int := (BitVec.ofNat w x).toInt

end Sys2Proof
end

