-- ==== Sys2Proof/Machine/Float.lean ====
section
/-!
DEFINITION. The fixed floating-point formats and the arithmetic of one operation (02_numbers.md, R45 to R55, R65).

A value is held exactly, as a sign, a natural mantissa and an integer exponent; every operation forms the exact result
and `roundFixed` rounds it once.  Bit patterns are natural numbers below 2^width.
-/
namespace Sys2Proof.Machine

/-- The rounding modes of Table 2.2. -/
inductive Rm where
  | rne | rtz | rup | rdn | rna
deriving DecidableEq, Repr

/-- FPMODE.RM (Table 1.4); the codes above 0b100 are never held (R35). -/
def Rm.ofBits (x : BitVec 3) : Rm :=
  match x.toNat with
  | 1 => .rtz
  | 2 => .rup
  | 3 => .rdn
  | 4 => .rna
  | _ => .rne

/-- The sticky flags in the order of FPMODE[12:8]: NV, DZ, OF, UF, NX (Table 1.4). -/
abbrev FpFlags := BitVec 5

def flNone : FpFlags := 0
def flNV : FpFlags := 0b10000
def flDZ : FpFlags := 0b01000
def flOF : FpFlags := 0b00100
def flUF : FpFlags := 0b00010
def flNX : FpFlags := 0b00001

/-- A flag when a condition holds. -/
def flIf (c : Bool) (f : FpFlags) : FpFlags := if c then f else flNone

/-- The exact value of an encoding (R46): a finite value is (-1)^neg x m x 2^e, and m = 0 is a zero of its sign. -/
inductive FVal where
  | nan (signalling : Bool)
  | inf (neg : Bool)
  | fin (neg : Bool) (m : Nat) (e : Int)
deriving DecidableEq, Repr

/-- The fixed formats (Table 2.1), in the order of the two-bit format codes (R81). -/
inductive FFmt where
  | bf16 | fp16 | fp32 | fp64
deriving DecidableEq, Repr

namespace FFmt

/-- The format that a two-bit code names (R81, Table 3.8). -/
def ofCode (x : BitVec 2) : FFmt :=
  match x.toNat with
  | 0 => .bf16
  | 1 => .fp16
  | 2 => .fp32
  | _ => .fp64

def width : FFmt → Nat
  | .bf16 => 16 | .fp16 => 16 | .fp32 => 32 | .fp64 => 64

/-- Mantissa bits M (Table 2.1). -/
def man : FFmt → Nat
  | .bf16 => 7 | .fp16 => 10 | .fp32 => 23 | .fp64 => 52

/-- Exponent bits (Table 2.1). -/
def exp (f : FFmt) : Nat := f.width - 1 - f.man

/-- The all-ones exponent field. -/
def eMask (f : FFmt) : Nat := 2 ^ f.exp - 1

/-- Bias (Table 2.1). -/
def bias (f : FFmt) : Nat := 2 ^ (f.exp - 1) - 1

/-- Emin (Table 2.1). -/
def emin (f : FFmt) : Int := 1 - (f.bias : Int)

/-- The encoding of +Inf. -/
def infBits (f : FFmt) : Nat := f.eMask <<< f.man

/-- The canonical NaN (Table 2.1). -/
def nanBits (f : FFmt) : Nat := f.infBits + 2 ^ (f.man - 1)

/-- The sign bit of a format, at its place. -/
def signBit (f : FFmt) (neg : Bool) : Nat := if neg then 2 ^ (f.width - 1) else 0

end FFmt

/-- R46: the value of an encoding. -/
def unpack (f : FFmt) (x : Nat) : FVal :=
  let neg := (x >>> (f.width - 1)) % 2 == 1
  let e := (x >>> f.man) % 2 ^ f.exp
  let m := x % 2 ^ f.man
  if e == f.eMask then
    if m == 0 then .inf neg else .nan (m < 2 ^ (f.man - 1))
  else if e == 0 then .fin neg m (f.emin - (f.man : Int))
  else .fin neg (2 ^ f.man + m) (f.emin - (f.man : Int) + (e : Int) - 1)

/-- m / 2^sh rounded to an integer under the mode (Table 2.2); `neg` is the sign of the value.  A tie under RNE goes to the even integer; in
a narrow format without mantissa bits, whose encodings have no "lowest mantissa bit", that integer in the normal range is the larger
magnitude (DESIGN CHOICE, log entry 71). -/
def roundShift (rm : Rm) (neg : Bool) (m sh : Nat) : Nat :=
  let q := m >>> sh
  let r := m % 2 ^ sh
  if r == 0 then q
  else
    let h := 2 ^ (sh - 1)
    let up : Bool :=
      match rm with
      | .rne => h < r || (r == h && q % 2 == 1)
      | .rna => h ≤ r
      | .rtz => false
      | .rup => !neg
      | .rdn => neg
    if up then q + 1 else q

/-- m x 2^e rounded to a multiple of 2^q, in units of 2^q. -/
def roundAt (rm : Rm) (neg : Bool) (m : Nat) (e q : Int) : Nat :=
  if q ≤ e then m <<< (e - q).toNat else roundShift rm neg m (q - e).toNat

/-- True when m x 2^e is n x 2^q. -/
def sameMag (m : Nat) (e : Int) (n : Nat) (q : Int) : Bool :=
  if q ≤ e then m <<< (e - q).toNat == n else n <<< (q - e).toNat == m

/-- What rounding a magnitude gives: the encoding without its sign, and what R48, R49 and Table 2.4 ask. -/
structure RoundMag where
  enc : Nat
  overflow : Bool
  tiny : Bool
  inexact : Bool
deriving DecidableEq, Repr

/-- Rounds the magnitude m x 2^e to `man` mantissa bits, with subnormals below 2^emin; `maxEnc` is the encoding of the
largest finite value.  Overflow and tininess are judged with an unbounded exponent, after rounding (R48, R49); a value below
2^emin that rounds up to it overflows no format. -/
def roundMag (man : Nat) (emin : Int) (maxEnc : Nat) (rm : Rm) (neg : Bool) (m : Nat) (e : Int) : RoundMag :=
  if m == 0 then ⟨0, false, false, false⟩
  else
    let top : Int := (Nat.log2 m : Int) + e
    let uq : Int := top - (man : Int)
    let u := roundAt rm neg m e uq
    let sub : Int := emin - (man : Int)
    let tiny : Bool := (Nat.log2 u : Int) + uq < emin
    let exceeds : Bool := !tiny && sub ≤ uq && maxEnc < ((uq - sub).toNat <<< man) + u
    let q := if uq < sub then sub else uq
    let n := roundAt rm neg m e q
    ⟨((q - sub).toNat <<< man) + n, exceeds, tiny, !(sameMag m e n q)⟩

/-- Table 2.3: true when an overflow of this sign goes to infinity. -/
def overflowToInf (rm : Rm) (neg : Bool) : Bool :=
  match rm with
  | .rne => true
  | .rna => true
  | .rtz => false
  | .rup => !neg
  | .rdn => neg

/-- The result of one operation: a bit pattern and the flags it sets. -/
structure FOut where
  bits : Nat
  fl : FpFlags
deriving DecidableEq, Repr

/-- The canonical NaN of a format, with NV or without (R51). -/
def outNan (f : FFmt) (nv : Bool) : FOut := ⟨f.nanBits, flIf nv flNV⟩

/-- An infinity. -/
def outInf (f : FFmt) (neg : Bool) (fl : FpFlags := flNone) : FOut := ⟨f.signBit neg + f.infBits, fl⟩

/-- A zero of a sign. -/
def outZero (f : FFmt) (neg : Bool) : FOut := ⟨f.signBit neg, flNone⟩

/-- Rounds an exact finite value once into a fixed format (R47 to R49). -/
def roundFixed (f : FFmt) (rm : Rm) (neg : Bool) (m : Nat) (e : Int) : FOut :=
  let r := roundMag f.man f.emin (f.infBits - 1) rm neg m e
  if r.overflow then
    ⟨f.signBit neg + (if overflowToInf rm neg then f.infBits else f.infBits - 1), flOF ||| flNX⟩
  else ⟨f.signBit neg + r.enc, flIf (r.tiny && r.inexact) flUF ||| flIf r.inexact flNX⟩

/-- A value as an element of a fixed format; a NaN becomes the canonical NaN (R51, R65). -/
def packFixed (f : FFmt) (rm : Rm) : FVal → FOut
  | .nan s => outNan f s
  | .inf n => outInf f n
  | .fin n m e => roundFixed f rm n m e

namespace FVal

def isNan : FVal → Bool
  | .nan _ => true
  | _ => false

def isSnan : FVal → Bool
  | .nan s => s
  | _ => false

def isZero : FVal → Bool
  | .fin _ m _ => m == 0
  | _ => false

def isInf : FVal → Bool
  | .inf _ => true
  | _ => false

/-- The sign, false for a NaN. -/
def neg : FVal → Bool
  | .nan _ => false
  | .inf n => n
  | .fin n _ _ => n

/-- The value with the other sign. -/
def flip : FVal → FVal
  | .nan s => .nan s
  | .inf n => .inf (!n)
  | .fin n m e => .fin (!n) m e

/-- The value times 2^k. -/
def scale (k : Int) : FVal → FVal
  | .fin n m e => .fin n m (e + k)
  | v => v

end FVal

/-- A signed magnitude. -/
def signedMag (neg : Bool) (m : Nat) : Int := if neg then -(m : Int) else (m : Int)

/-- The exact sum of two finite values, as an integer and an exponent. -/
def addExact (n1 : Bool) (m1 : Nat) (e1 : Int) (n2 : Bool) (m2 : Nat) (e2 : Int) : Int × Int :=
  let e := if e1 ≤ e2 then e1 else e2
  (signedMag n1 (m1 <<< (e1 - e).toNat) + signedMag n2 (m2 <<< (e2 - e).toNat), e)

/-- The exact sum of two values, or NaN for Inf - Inf; a zero sum has the sign of R50. -/
def sumVal (rm : Rm) : FVal → FVal → FVal
  | .nan s, _ => .nan s
  | _, .nan s => .nan s
  | .inf a, .inf b => if a == b then .inf a else .nan true
  | .inf a, _ => .inf a
  | _, .inf b => .inf b
  | .fin n1 m1 e1, .fin n2 m2 e2 =>
    let s := addExact n1 m1 e1 n2 m2 e2
    if s.1 == 0 then .fin (if n1 == n2 then n1 else rm == .rdn) 0 0
    else .fin (s.1 < 0) s.1.natAbs s.2

/-- The exact product of two values, or NaN for 0 x Inf. -/
def mulVal : FVal → FVal → FVal
  | .nan s, _ => .nan s
  | _, .nan s => .nan s
  | .inf a, .inf b => .inf (a != b)
  | .inf a, .fin n m _ => if m == 0 then .nan true else .inf (a != n)
  | .fin n m _, .inf b => if m == 0 then .nan true else .inf (n != b)
  | .fin n1 m1 e1, .fin n2 m2 e2 => .fin (n1 != n2) (m1 * m2) (e1 + e2)

/-- R51: NaN operands first; a signalling one sets NV. -/
def nanOf (f : FFmt) (vs : List FVal) : Option FOut :=
  if vs.any FVal.isNan then some (outNan f (vs.any FVal.isSnan)) else none

/-- FADD. -/
def fAdd (f : FFmt) (rm : Rm) (x y : Nat) : FOut :=
  let a := unpack f x
  let b := unpack f y
  match nanOf f [a, b] with
  | some r => r
  | none => packFixed f rm (sumVal rm a b)

/-- FSUB: the sum with the other operand's sign changed. -/
def fSub (f : FFmt) (rm : Rm) (x y : Nat) : FOut :=
  let a := unpack f x
  let b := unpack f y
  match nanOf f [a, b] with
  | some r => r
  | none => packFixed f rm (sumVal rm a b.flip)

/-- FMUL. -/
def fMul (f : FFmt) (rm : Rm) (x y : Nat) : FOut :=
  let a := unpack f x
  let b := unpack f y
  match nanOf f [a, b] with
  | some r => r
  | none => packFixed f rm (mulVal a b)

/-- FMA: x times y plus z, rounded once; 0 x Inf sets NV whatever the addend (R51). -/
def fFma (f : FFmt) (rm : Rm) (x y z : Nat) : FOut :=
  let a := unpack f x
  let b := unpack f y
  let c := unpack f z
  if a.isNan || b.isNan then outNan f (a.isSnan || b.isSnan || c.isSnan)
  else
    match mulVal a b with
    | .nan _ => outNan f true
    | p => if c.isNan then outNan f c.isSnan else packFixed f rm (sumVal rm p c)

/-- The exact quotient of two finite non-zero magnitudes to `prec` bits, with a sticky bit below them. -/
def divSticky (m1 m2 prec : Nat) : Nat × Nat :=
  let sh := prec + Nat.log2 m2 + 1
  let n := m1 <<< sh
  (2 * (n / m2) + (if n % m2 == 0 then 0 else 1), sh + 1)

/-- FDIV, correctly rounded. -/
def fDiv (f : FFmt) (rm : Rm) (x y : Nat) : FOut :=
  let a := unpack f x
  let b := unpack f y
  match nanOf f [a, b] with
  | some r => r
  | none =>
    match a, b with
    | .inf _, .inf _ => outNan f true
    | .inf n, w => outInf f (n != w.neg)
    | w, .inf n => outZero f (n != w.neg)
    | .fin n1 m1 e1, .fin n2 m2 e2 =>
      if m2 == 0 then
        if m1 == 0 then outNan f true else outInf f (n1 != n2) flDZ
      else if m1 == 0 then outZero f (n1 != n2)
      else
        let q := divSticky m1 m2 (f.man + 4)
        roundFixed f rm (n1 != n2) q.1 (e1 - e2 - (q.2 : Int))
    | _, _ => outNan f true

/-- The integer square root by bits, high bit first; `fuel` is one more than the bit's place. -/
def isqrtLoop (n : Nat) : Nat → Nat → Nat
  | 0, r => r
  | k + 1, r =>
    let t := r + 2 ^ k
    isqrtLoop n k (if t * t ≤ n then t else r)

/-- The integer part of the square root. -/
def isqrt (n : Nat) : Nat := isqrtLoop n (Nat.log2 n / 2 + 1) 0

/-- The square root of m x 2^e to `prec` bits and more, with a sticky bit: (mantissa, exponent). -/
def sqrtSticky (m : Nat) (e : Int) (prec : Nat) : Nat × Int :=
  let sh : Nat := 2 * prec + (if (e - 2 * (prec : Int)) % 2 == 0 then 0 else 1)
  let n := m <<< sh
  let r := isqrt n
  (2 * r + (if r * r == n then 0 else 1), (e - (sh : Int)) / 2 - 1)

/-- FSQRT, correctly rounded; the root of -0 is -0. -/
def fSqrt (f : FFmt) (rm : Rm) (x : Nat) : FOut :=
  match unpack f x with
  | .nan s => outNan f s
  | .inf n => if n then outNan f true else outInf f false
  | .fin n m e =>
    if m == 0 then outZero f n
    else if n then outNan f true
    else
      let r := sqrtSticky m e (f.man + 4)
      roundFixed f rm false r.1 r.2

/-- The order of two values that are not NaN; `zeroOrder` puts -0 below +0 (R52). -/
def lessVal (zeroOrder : Bool) (a b : FVal) : Bool :=
  match a, b with
  | .inf n, .inf k => n && !k
  | .inf n, _ => n
  | _, .inf n => !n
  | .fin n1 m1 e1, .fin n2 m2 e2 =>
    if m1 == 0 && m2 == 0 then zeroOrder && n1 && !n2
    else (addExact n1 m1 e1 (!n2) m2 e2).1 < 0
  | _, _ => false

/-- Equality of two values that are not NaN: +0 equals -0 (R50). -/
def eqVal (a b : FVal) : Bool := !(lessVal false a b) && !(lessVal false b a)

/-- FMIN and FMAX (R52): `wantMax` selects. -/
def fMinMax (wantMax : Bool) (f : FFmt) (x y : Nat) : FOut :=
  let a := unpack f x
  let b := unpack f y
  let fl := flIf (a.isSnan || b.isSnan) flNV
  if a.isNan && b.isNan then ⟨f.nanBits, fl⟩
  else if a.isNan then ⟨y, fl⟩
  else if b.isNan then ⟨x, fl⟩
  else if lessVal true a b == wantMax then ⟨y, fl⟩ else ⟨x, fl⟩

/-- The comparisons of FCMP and VFCMP (R53), by the code of Table 4.8: eq, lt, le, unordered, ne. -/
def fCmp (f : FFmt) (c : Nat) (x y : Nat) : Bool × FpFlags :=
  let a := unpack f x
  let b := unpack f y
  let un := a.isNan || b.isNan
  let sn := a.isSnan || b.isSnan
  match c with
  | 0 => (!un && eqVal a b, flIf sn flNV)
  | 1 => (!un && lessVal false a b, flIf un flNV)
  | 2 => (!un && !(lessVal false b a), flIf un flNV)
  | 3 => (un, flIf sn flNV)
  | _ => (un || !(eqVal a b), flIf sn flNV)

/-- The number of a value's class (R55). -/
def classNo (f : FFmt) (x : Nat) : Nat :=
  match unpack f x with
  | .nan true => 8
  | .nan false => 9
  | .inf true => 0
  | .inf false => 7
  | .fin n m _ =>
    let e := (x >>> f.man) % 2 ^ f.exp
    if m == 0 then (if n then 3 else 4)
    else if e == 0 then (if n then 2 else 5)
    else (if n then 1 else 6)

/-- FCLASS (R55): a mask with the one bit of the class. -/
def fClass (f : FFmt) (x : Nat) : Nat := 2 ^ classNo f x

/-- A value converted between fixed formats (R65). -/
def fCvt (dst src : FFmt) (rm : Rm) (x : Nat) : FOut := packFixed dst rm (unpack src x)

/-- The ends of an integer format of `w` bits. -/
def intLo (w : Nat) (signed : Bool) : Int := if signed then -(2 ^ (w - 1) : Int) else 0
def intHi (w : Nat) (signed : Bool) : Int := if signed then 2 ^ (w - 1) - 1 else 2 ^ w - 1

/-- A finite value rounded to an integer under the mode, and whether that is inexact. -/
def roundToInt (rm : Rm) (neg : Bool) (m : Nat) (e : Int) : Int × Bool :=
  let n := roundAt rm neg m e 0
  (signedMag neg n, !(sameMag m e n 0))

/-- A value as an integer of `w` bits (R65): NaN gives 0, out of range the nearest end, each with NV. -/
def valToInt (w : Nat) (signed : Bool) (rm : Rm) : FVal → Int × FpFlags
  | .nan _ => (0, flNV)
  | .inf n => (if n then intLo w signed else intHi w signed, flNV)
  | .fin n m e =>
    let r := roundToInt rm n m e
    if r.1 < intLo w signed then (intLo w signed, flNV)
    else if intHi w signed < r.1 then (intHi w signed, flNV)
    else (r.1, flIf r.2 flNX)

/-- The bit pattern of `w` bits of an integer. -/
def intBits (w : Nat) (x : Int) : Nat := (x % (2 ^ w : Int)).toNat

/-- Float to integer of `w` bits, as a bit pattern of `w` bits. -/
def fToI (f : FFmt) (w : Nat) (signed : Bool) (rm : Rm) (x : Nat) : FOut :=
  let r := valToInt w signed rm (unpack f x)
  ⟨intBits w r.1, r.2⟩

/-- The exact value of an integer. -/
def intVal (x : Int) : FVal := .fin (x < 0) x.natAbs 0

/-- Integer to float (R65). -/
def iToF (f : FFmt) (rm : Rm) (x : Int) : FOut := packFixed f rm (intVal x)

end Sys2Proof.Machine
end

