-- ==== Sys2Proof/Machine/Math.lean ====
section
/-!
DEFINITION. The transcendental functions of VMATH at MATHREV 1 (02_numbers.md, R73 to R75).

R74 makes every result the exact value rounded once by RNE.  Each function is enclosed between two multiples of a power of
two; when rounding at both ends agrees, that is the result, and otherwise the enclosure is made finer.  Arguments at which
the exact value is a dyadic number are answered exactly, so no value ever lies on a rounding boundary.
-/
namespace Sys2Proof.Machine

/-- The functions of Table 5.8, in the order of their codes. -/
inductive MathFn where
  | exp2 | log2 | exp | log | sin | cos | tanh | sigm | erf | rcp | rsqrt
deriving DecidableEq, Repr

/-- An enclosure: the value lies strictly between lo x 2^ex and hi x 2^ex. -/
structure Encl where
  lo : Int
  hi : Int
  ex : Int
deriving DecidableEq, Repr

/-- An enclosure from a fixed-point approximation whose error is below 2^(guard - 1) units. -/
def Encl.around (x : Int) (p : Nat) : Encl :=
  let g := 32
  ⟨(x >>> g) - 2, (x >>> g) + 2, (g : Int) - (p : Int)⟩

/-- The fixed-point number at scale 2^-p of a signed dyadic, rounded down. -/
def toFix (neg : Bool) (m : Nat) (e : Int) (p : Nat) : Int :=
  let k := e + (p : Int)
  signedMag neg (if 0 ≤ k then m <<< k.toNat else m >>> (-k).toNat)

/-- Product at scale 2^-p. -/
def mulFix (p : Nat) (x y : Int) : Int := (x * y) >>> p

/-- Quotient at scale 2^-p. -/
def divFix (p : Nat) (x y : Int) : Int := (x <<< p) / y

/-- The sum of the atanh series of 1/n, times 2^p: sum of 1 / ((2k+1) n^(2k+1)); `alt` gives the arctangent. -/
def atanhInvLoop (alt : Bool) (nn : Nat) : Nat → Nat → Nat → Int → Int
  | 0, _, _, acc => acc
  | fuel + 1, k, t, acc =>
    if t == 0 then acc
    else
      let term : Int := ((t / (2 * k + 1) : Nat) : Int)
      atanhInvLoop alt nn fuel (k + 1) (t / nn) (if alt && k % 2 == 1 then acc - term else acc + term)

/-- atanh(1/n) or atan(1/n) at scale 2^-p. -/
def atanhInv (alt : Bool) (n p : Nat) : Int := atanhInvLoop alt (n * n) (p + 1) 0 (2 ^ p / n) 0

/-- ln 2 = 2 atanh(1/3) at scale 2^-p. -/
def fixLn2 (p : Nat) : Int := 2 * atanhInv false 3 p

/-- pi = 16 atan(1/5) - 4 atan(1/239) at scale 2^-p. -/
def fixPi (p : Nat) : Int := 16 * atanhInv true 5 p - 4 * atanhInv true 239 p

/-- The Taylor series of e^r for |r| below 1, at scale 2^-p. -/
def expLoop (p : Nat) (r : Int) : Nat → Nat → Int → Int → Int
  | 0, _, _, acc => acc
  | fuel + 1, k, t, acc =>
    if t == 0 || t == -1 then acc
    else
      let t' := mulFix p t r / ((k : Int) + 1)
      expLoop p r fuel (k + 1) t' (acc + t')

/-- e^x for a fixed-point x, as a mantissa at scale 2^-p near 1 and a power of two. -/
def fixExp (p : Nat) (x : Int) : Int × Int :=
  let l := fixLn2 p
  let k := x / l
  (expLoop p (x - k * l) (p + 8) 0 (2 ^ p) (2 ^ p), k)

/-- The sine or cosine series at scale 2^-p: the first term t at index k, then -t r^2 / ((k+1)(k+2)). -/
def trigLoop (p : Nat) (r2 : Int) : Nat → Nat → Int → Int → Int
  | 0, _, _, acc => acc
  | fuel + 1, k, t, acc =>
    if t == 0 || t == -1 then acc
    else
      let t' := -(mulFix p t r2) / (((k + 1) * (k + 2) : Nat) : Int)
      trigLoop p r2 fuel (k + 2) t' (acc + t')

/-- The atanh series of a fixed-point z below 1/2. -/
def atanhLoop (p : Nat) (z2 : Int) : Nat → Nat → Int → Int → Int
  | 0, _, _, acc => acc
  | fuel + 1, k, t, acc =>
    if t == 0 || t == -1 then acc
    else atanhLoop p z2 fuel (k + 1) (mulFix p t z2) (acc + t / (((2 * k + 1 : Nat) : Int)))

/-- ln of a positive dyadic at scale 2^-p: k ln 2 + 2 atanh((y - 1) / (y + 1)), y between 3/4 and 3/2. -/
def fixLn (p : Nat) (m : Nat) (e : Int) : Int :=
  let b : Int := (Nat.log2 m : Int)
  let up : Bool := 3 * 2 ^ (Nat.log2 m) ≤ 2 * m
  let k : Int := e + b + (if up then 1 else 0)
  let y := toFix false m (-b - (if up then 1 else 0)) p
  let z := divFix p (y - 2 ^ p) (y + 2 ^ p)
  k * fixLn2 p + 2 * atanhLoop p (mulFix p z z) (p + 8) 0 z 0

/-- sqrt(pi) at scale 2^-p. -/
def fixSqrtPi (p : Nat) : Int := ((isqrt ((fixPi p).toNat <<< p) : Nat) : Int)

/-- The positive series of erf: sum of 2^n x^(2n+1) / (1 3 5 ... (2n+1)). -/
def erfLoop (p : Nat) (x2 : Int) : Nat → Nat → Int → Int → Int
  | 0, _, _, acc => acc
  | fuel + 1, k, t, acc =>
    if t == 0 then acc
    else
      let t' := 2 * mulFix p t x2 / ((2 * k + 3 : Nat) : Int)
      erfLoop p x2 fuel (k + 1) t' (acc + t')

/-- An enclosure just below one. -/
def enclBelowOne : Encl := ⟨2 ^ 80 - 1, 2 ^ 80, -80⟩

/-- The enclosure of f at a finite argument m x 2^e that is not a special case, with about p good bits. -/
def enclose (fn : MathFn) (neg : Bool) (m : Nat) (e : Int) (p : Nat) : Encl :=
  let top : Int := (Nat.log2 m : Int) + e
  let q : Nat := p + 64
  match fn with
  | .exp2 =>
    if 12 < top then (if neg then ⟨1, 2, -8192⟩ else ⟨1, 2, 8192⟩)
    else
      let x := toFix neg m e q
      let k := x >>> q
      let r := expLoop q (mulFix q (x - (k <<< q)) (fixLn2 q)) (q + 8) 0 (2 ^ q) (2 ^ q)
      let c := Encl.around r q
      { c with ex := c.ex + k }
  | .exp =>
    if 12 < top then (if neg then ⟨1, 2, -8192⟩ else ⟨1, 2, 8192⟩)
    else
      let r := fixExp q (toFix neg m e q)
      let c := Encl.around r.1 q
      { c with ex := c.ex + r.2 }
  | .log => Encl.around (fixLn q m e) q
  | .log2 => Encl.around (divFix q (fixLn q m e) (fixLn2 q)) q
  | .sin | .cos =>
    let w : Nat := q + 64 + top.toNat
    let x := toFix neg m e w
    let half := fixPi w / 2
    let k := x / half
    let r := x - k * half
    let r2 := mulFix w r r
    let s := trigLoop w r2 (w + 8) 1 r r
    let c := trigLoop w r2 (w + 8) 0 (2 ^ w) (2 ^ w)
    let j := (k + (if fn == .cos then 1 else 0)) % 4
    let v := if j == 0 then s else if j == 1 then c else if j == 2 then -s else -c
    let d := Encl.around (v >>> (w - q)) q
    d
  | .tanh =>
    if 8 < top then (if neg then ⟨-(2 ^ 80), -(2 ^ 80) + 1, -80⟩ else enclBelowOne)
    else
      let r := fixExp q (2 * toFix false m e q)
      let ee := if 0 ≤ r.2 then r.1 <<< r.2.toNat else r.1 >>> (-r.2).toNat
      let v := divFix q (ee - 2 ^ q) (ee + 2 ^ q)
      Encl.around (if neg then -v else v) q
  | .sigm =>
    if 12 < top then (if neg then ⟨1, 2, -8192⟩ else enclBelowOne)
    else
      let r := fixExp q (toFix true m e q)
      -- r.1 x 2^r.2 is e^-|x|; the exponent is not above zero
      let d := 2 ^ q + (r.1 >>> (-r.2).toNat)
      if neg then
        let c := Encl.around (divFix q r.1 d) q
        { c with ex := c.ex + r.2 }
      else Encl.around (divFix q (2 ^ q) d) q
  | .erf =>
    if 3 < top then (if neg then ⟨-(2 ^ 80), -(2 ^ 80) + 1, -80⟩ else enclBelowOne)
    else
      let w : Nat := q + 512
      let x := toFix false m e w
      let s := erfLoop w (mulFix w x x) (w + 2048) 0 x x
      let r := fixExp w (-(mulFix w x x))
      let ex := r.1 >>> (-r.2).toNat
      let v := divFix w (2 * mulFix w s ex) (fixSqrtPi w)
      Encl.around ((if neg then -v else v) >>> (w - q)) q
  | .rcp | .rsqrt => ⟨0, 0, 0⟩

/-- Rounds a dyadic that lies strictly inside a gap of the destination's grid: the last bit of `x` is sticky. -/
def roundInside (f : FFmt) (x : Int) (ex : Int) : FOut := roundFixed f .rne (x < 0) x.natAbs ex

/-- Refines the enclosure until both of its ends round alike. -/
def mathLoop (f : FFmt) (fn : MathFn) (neg : Bool) (m : Nat) (e : Int) : Nat → Nat → FOut
  | 0, p =>
    let c := enclose fn neg m e p
    roundInside f (c.lo + c.hi) (c.ex - 1)
  | fuel + 1, p =>
    let c := enclose fn neg m e p
    let a := roundInside f (2 * c.lo + 1) (c.ex - 1)
    let b := roundInside f (2 * c.hi - 1) (c.ex - 1)
    if a == b && (decide (c.lo < 0) == decide (c.hi ≤ 0)) then a else mathLoop f fn neg m e fuel (2 * p)

/-- R75: VMATH sets NX only together with OF or UF. -/
def mathFlags (r : FOut) : FOut :=
  if r.fl &&& (flOF ||| flUF) == flNone then { r with fl := r.fl &&& ~~~flNX } else r

/-- One, negative or not. -/
def outOne (f : FFmt) (neg : Bool) : FOut := ⟨f.signBit neg + (f.bias <<< f.man), flNone⟩

/-- The integer a dyadic is, when it is one and not large. -/
def smallInt (neg : Bool) (m : Nat) (e : Int) : Option Int :=
  if 0 ≤ e then (if (Nat.log2 m : Int) + e < 16 then some (signedMag neg (m <<< e.toNat)) else none)
  else if m % 2 ^ (-e).toNat == 0 then some (signedMag neg (m >>> (-e).toNat)) else none

/-- True when m x 2^e is a power of two. -/
def isPow2 (m : Nat) : Bool := m == 2 ^ Nat.log2 m

/-- The bits at which the refinement starts: enough for the smallest results of a tiny argument. -/
def mathStart (f : FFmt) (m : Nat) (e : Int) : Nat :=
  let top : Int := (Nat.log2 m : Int) + e
  2 * f.man + 40 + (-top).toNat

/-- VMATH of a finite non-zero argument (R74, R75). -/
def mathFin (f : FFmt) (fn : MathFn) (neg : Bool) (m : Nat) (e : Int) : FOut :=
  let go := mathFlags (mathLoop f fn neg m e 6 (mathStart f m e))
  match fn with
  | .exp2 =>
    match smallInt neg m e with
    | some k => mathFlags (roundFixed f .rne false 1 k)
    | none => go
  | .log2 =>
    if neg then outNan f true
    else if isPow2 m then
      let k : Int := (Nat.log2 m : Int) + e
      mathFlags (roundFixed f .rne (k < 0) k.natAbs 0)
    else go
  | .log =>
    if neg then outNan f true
    else if isPow2 m && (Nat.log2 m : Int) + e == 0 then outZero f false else go
  | .rcp =>
    let q := divSticky 1 m (f.man + 4)
    mathFlags (roundFixed f .rne neg q.1 (-e - (q.2 : Int)))
  | .rsqrt =>
    if neg then outNan f true
    else
      -- 1 / sqrt(m 2^e), with e made even: sqrt(2^(2k) / m) and a sticky bit
      let odd : Bool := e % 2 != 0
      let m' := if odd then 2 * m else m
      let e' : Int := if odd then e - 1 else e
      let k : Nat := 2 * (f.man + 8) + Nat.log2 m'
      let n := 2 ^ (2 * k) / m'
      let r := isqrt n
      let exact := r * r * m' == 2 ^ (2 * k)
      mathFlags (roundFixed f .rne false (2 * r + (if exact then 0 else 1)) (-(k : Int) - e' / 2 - 1))
  | _ => go

/-- VMATH (R73 to R75), on one element's bits. -/
def mathOp (f : FFmt) (fn : MathFn) (x : Nat) : FOut :=
  match unpack f x with
  | .nan s => outNan f s
  | .inf n =>
    match fn with
    | .exp2 | .exp => if n then outZero f false else outInf f false
    | .log2 | .log => if n then outNan f true else outInf f false
    | .sin | .cos => outNan f true
    | .tanh | .erf => outOne f n
    | .sigm => if n then outZero f false else outOne f false
    | .rcp => outZero f n
    | .rsqrt => if n then outNan f true else outZero f false
  | .fin n m e =>
    if m == 0 then
      match fn with
      | .exp2 | .exp | .cos => outOne f false
      | .log2 | .log => outInf f true flDZ
      | .sin | .tanh | .erf => outZero f n
      | .sigm => ⟨(f.bias - 1) <<< f.man, flNone⟩
      | .rcp => outInf f n flDZ
      | .rsqrt => outInf f n flDZ
    else mathFin f fn n m e

end Sys2Proof.Machine
end

