-- ==== Sys2Proof/Machine/Narrow.lean ====
section
/-!
DEFINITION. Narrow formats, block scales and conversions between every kind of format (02_numbers.md, R56 to R65), and
the arithmetic of the matrix unit on single elements (R66 to R71, R488).
-/
namespace Sys2Proof.Machine

/-- The fields of a format descriptor (Table 2.5). -/
structure NarrowFmt where
  sat : Bool
  sub : Bool
  pol : Nat
  bias : Nat
  e : Nat
  s : Bool
  w : Nat
deriving DecidableEq, Repr

namespace NarrowFmt

/-- Table 2.5. -/
def ofBits (x : BitVec 32) : NarrowFmt :=
  ⟨x.getLsbD 19, x.getLsbD 18, (x.extractLsb' 16 2).toNat, (x.extractLsb' 8 8).toNat, (x.extractLsb' 5 3).toNat,
   x.getLsbD 4, (x.extractLsb' 0 4).toNat⟩

/-- The sign's width. -/
def sBits (d : NarrowFmt) : Nat := if d.s then 1 else 0

/-- M (R57). -/
def m (d : NarrowFmt) : Nat := d.w - d.sBits - d.e

/-- The all-ones exponent field. -/
def eMask (d : NarrowFmt) : Nat := 2 ^ d.e - 1

/-- The exponent of the least normal value (R60). -/
def emin (d : NarrowFmt) : Int := 1 - (d.bias : Int)

/-- The encoding, without its sign, of the largest finite value (Table 2.6). -/
def maxEnc (d : NarrowFmt) : Nat :=
  match d.pol with
  | 1 => (d.eMask <<< d.m) - 1
  | 2 => 2 ^ (d.e + d.m) - 2
  | _ => 2 ^ (d.e + d.m) - 1

/-- The canonical NaN, where the format has one (Table 2.6). -/
def nanBits (d : NarrowFmt) : Option Nat :=
  if d.e == 0 then none
  else
    match d.pol with
    | 1 => some ((d.eMask <<< d.m) + 2 ^ (d.m - 1))
    | 2 => some (2 ^ (d.e + d.m) - 1)
    | _ => none

/-- The sign bit at its place. -/
def signBit (d : NarrowFmt) (neg : Bool) : Nat := if neg && d.s then 2 ^ (d.w - 1) else 0

end NarrowFmt

/-- R57: the valid values of a descriptor. -/
def fdValid (x : BitVec 32) : Bool :=
  let d := NarrowFmt.ofBits x
  4 ≤ d.w && d.w ≤ 8 && d.e ≤ 6 && d.sBits + d.e ≤ d.w && d.pol != 3 && x.extractLsb' 20 12 == 0 &&
  (d.e != 0 || (d.bias == 0 && d.pol == 0 && !d.sub)) &&
  (d.pol != 1 || (2 ≤ d.e && 1 ≤ d.m)) &&
  (d.pol != 2 || 1 ≤ d.e)

/-- R59, R60: the value of an element.  Table 2.6 does not say that a NaN of a narrow format can be signalling: every one is read as quiet
and raises no NV (DESIGN CHOICE, log entry 71). -/
def narrowVal (d : NarrowFmt) (x : Nat) : FVal :=
  let x := x % 2 ^ d.w
  if d.e == 0 then
    intVal (if d.s then signedOf d.w x else (x : Int))
  else
    let neg := d.s && (x >>> (d.w - 1)) % 2 == 1
    let e := (x >>> d.m) % 2 ^ d.e
    let f := x % 2 ^ d.m
    if d.pol == 1 && e == d.eMask then
      if f == 0 then .inf neg else .nan false
    else if d.pol == 2 && e == d.eMask && f == 2 ^ d.m - 1 then .nan false
    else if e == 0 then .fin neg (if d.sub then f else 0) (d.emin - (d.m : Int))
    else .fin neg (2 ^ d.m + f) (d.emin - (d.m : Int) + (e : Int) - 1)

/-- R61 step 3, after the sign test of step 2. -/
def roundNarrowInt (d : NarrowFmt) (rm : Rm) : FVal → FOut
  | .nan _ => ⟨0, flNV⟩
  | .inf n => ⟨intBits d.w (if n then intLo d.w d.s else intHi d.w d.s), flNV⟩
  | .fin n m e =>
    let r := roundToInt rm n m e
    if intLo d.w d.s ≤ r.1 && r.1 ≤ intHi d.w d.s then ⟨intBits d.w r.1, flIf r.2 flNX⟩
    else if d.sat then ⟨intBits d.w (if r.1 < intLo d.w d.s then intLo d.w d.s else intHi d.w d.s), flNV⟩
    else ⟨intBits d.w r.1, flNV⟩

/-- R61 step 5. -/
def roundNarrowFin (d : NarrowFmt) (rm : Rm) (neg : Bool) (m : Nat) (e : Int) : FOut :=
  let r := roundMag d.m d.emin d.maxEnc rm neg m e
  if r.overflow then
    if d.sat || d.pol == 0 then ⟨d.signBit neg + d.maxEnc, flOF ||| flNX⟩
    else if d.pol == 1 then
      ⟨d.signBit neg + (if overflowToInf rm neg then d.eMask <<< d.m else d.maxEnc), flOF ||| flNX⟩
    else ⟨(d.nanBits).getD 0, flOF ||| flNX⟩
  else if !d.sub && r.enc != 0 && r.enc < 2 ^ d.m then ⟨d.signBit neg, flUF ||| flNX⟩
  else ⟨d.signBit neg + r.enc, flIf (r.tiny && r.inexact) flUF ||| flIf r.inexact flNX⟩

/-- R61: round_to into a narrow format. -/
def roundNarrow (d : NarrowFmt) (rm : Rm) (x : FVal) : FOut :=
  match x with
  | .nan s =>
    match d.nanBits with
    | some b => ⟨b, flIf s flNV⟩
    | none => ⟨0, flNV⟩
  | _ =>
    if !d.s && x.neg then ⟨0, flIf (!x.isZero) flNV⟩
    else if d.e == 0 then roundNarrowInt d rm x
    else
      match x with
      | .inf n =>
        if d.sat || d.pol == 0 then ⟨d.signBit n + d.maxEnc, flOF ||| flNX⟩
        else if d.pol == 1 then ⟨d.signBit n + (d.eMask <<< d.m), flNone⟩
        else ⟨(d.nanBits).getD 0, flNV⟩
      | .fin n m e => roundNarrowFin d rm n m e
      | .nan _ => ⟨0, flNV⟩

/-- R58: how many elements a 64-byte row holds. -/
def NarrowFmt.perRow (d : NarrowFmt) : Nat := if d.w == 4 then 128 else 64

/-- R58: element j of the bytes that a number holds. -/
def NarrowFmt.elem (d : NarrowFmt) (row : Nat) (j : Nat) : Nat :=
  if d.w == 4 then (row >>> (4 * j)) % 16 else (row >>> (8 * j)) % 2 ^ d.w

/-- R58: the bits between the places of two neighbouring elements. -/
def NarrowFmt.stride (d : NarrowFmt) : Nat := if d.w == 4 then 4 else 8

/-- floor(log2) of the largest finite value (R64). -/
def NarrowFmt.log2Max (d : NarrowFmt) : Int :=
  if d.e == 0 then (d.w : Int) - 1
  else
    match narrowVal d d.maxEnc with
    | .fin _ m e => (Nat.log2 m : Int) + e
    | _ => 0

/-- R62: a value times a block scale code; code 255 makes it NaN. -/
def scaleBlock (c : Nat) (v : FVal) : FVal := if c == 255 then .nan false else v.scale ((c : Int) - 127)

/-- floor(log2) of a finite non-zero magnitude. -/
def FVal.log2 : FVal → Int
  | .fin _ m e => (Nat.log2 m : Int) + e
  | _ => 0

/-- R64: the block scale code chosen from a block's values. -/
def chooseScale (d : NarrowFmt) (xs : List FVal) : Nat :=
  if xs.any (fun x => x.isNan || x.isInf) then 255
  else
    let nz := xs.filter (fun x => !x.isZero)
    match nz with
    | [] => 127
    | x :: rest =>
      let top := rest.foldl (fun a y => if a < y.log2 then y.log2 else a) x.log2
      let c := top - d.log2Max + 127
      if c < 0 then 0 else if 254 < c then 254 else c.toNat

/-! ### Formats of the matrix unit (07_matrix_spans_work.md, Table 7.5) -/

/-- One K-step's contribution to one accumulator element, in floating-point MAC mode (R66, R67): the operand pairs as exact
values, the scale exponent, and the accumulator word. -/
def macStep (pairs : List (FVal × FVal)) (nanScale : Bool) (e : Int) (s : Nat) : Nat :=
  let sv := unpack .fp32 s
  let anyNan := nanScale || sv.isNan || pairs.any (fun p => p.1.isNan || p.2.isNan)
  let prods := pairs.map (fun p => (mulVal p.1 p.2).scale e)
  if anyNan || prods.any FVal.isNan then FFmt.fp32.nanBits
  else
    let infs := (sv :: prods).filter FVal.isInf
    match infs with
    | i :: rest =>
      if rest.all (fun x => x.neg == i.neg) then (outInf .fp32 i.neg).bits else FFmt.fp32.nanBits
    | [] =>
      let sum := prods.foldl (fun a p =>
        match a, p with
        | (x, ex), .fin n m ep => addExact (decide (x < 0)) x.natAbs ex n m ep
        | a, _ => a) ((0 : Int), (0 : Int))
      match sv with
      | .fin n m es =>
        let t := addExact (decide (sum.1 < 0)) sum.1.natAbs sum.2 n m es
        if t.1 == 0 then
          (if n && m == 0 && prods.all (fun p => p.isZero && p.neg) then FFmt.fp32.signBit true else 0)
        else (roundFixed .fp32 .rne (t.1 < 0) t.1.natAbs t.2).bits
      | _ => FFmt.fp32.nanBits

/-- An integer K-step (R68): modulo 2^32. -/
def macStepInt (pairs : List (Int × Int)) (s : Nat) : Nat :=
  intBits 32 ((s : Int) + pairs.foldl (fun a p => a + p.1 * p.2) 0)

/-- The operations of the recurrence mode (Table 2.9). -/
inductive RecOp where
  | add | mul | min | max | and | or | xor | sadd | smul
deriving DecidableEq, Repr

/-- A value limited to int32. -/
def clampI32 (x : Int) : Nat := intBits 32 (if x < intLo 32 true then intLo 32 true else if intHi 32 true < x then intHi 32 true else x)

/-- Table 2.9, int32 domain, on 32-bit patterns. -/
def recInt (op : RecOp) (x y : Nat) : Nat :=
  let a := signedOf 32 x
  let b := signedOf 32 y
  match op with
  | .add => (x + y) % 2 ^ 32
  | .mul => (x * y) % 2 ^ 32
  | .min => if b < a then y else x
  | .max => if a < b then y else x
  | .and => x &&& y
  | .or => x ||| y
  | .xor => x ^^^ y
  | .sadd => clampI32 (a + b)
  | .smul => clampI32 (a * b)

/-- MIN and MAX of the fp32 domain: NaN if either operand is NaN. -/
def recMinMax (wantMax : Bool) (x y : Nat) : Nat :=
  if (unpack .fp32 x).isNan || (unpack .fp32 y).isNan then FFmt.fp32.nanBits else (fMinMax wantMax .fp32 x y).bits

/-- Table 2.9, fp32 domain. -/
def recFp (op : RecOp) (x y : Nat) : Nat :=
  match op with
  | .add => (fAdd .fp32 .rne x y).bits
  | .sadd => (fAdd .fp32 .rne x y).bits
  | .mul => (fMul .fp32 .rne x y).bits
  | .smul => (fMul .fp32 .rne x y).bits
  | .min => recMinMax false x y
  | .max => recMinMax true x y
  | .and => x &&& y
  | .or => x ||| y
  | .xor => x ^^^ y

end Sys2Proof.Machine
end

