-- ==== Sys2Proof/Config.lean ====
section
/-!
DEFINITION. What an implementation fixes and the free values: constants without a body, so that no proof can see what
they are.  A claim holds whatever they are.
-/
namespace Sys2Proof.Config

/-- A value the specification leaves open; the argument is the state's counter of free values (log entry 6). -/
opaque freeWord : Nat → BitVec 64

/-- AES-256-GCM (R365): the ciphertext and the tag of a plaintext, from key, IV and associated data. -/
opaque gcmEncrypt : BitVec 256 → BitVec 96 → List (BitVec 8) → List (BitVec 8) → List (BitVec 8) × BitVec 128

/-- AES-256-GCM: the plaintext of a ciphertext, when the tag is good. -/
opaque gcmDecrypt : BitVec 256 → BitVec 96 → List (BitVec 8) → List (BitVec 8) → BitVec 128 → Option (List (BitVec 8))

/-- SHAKE256 with an output of so many bytes (R465). -/
opaque shake256 : Nat → List (BitVec 8) → List (BitVec 8)

/-- Ed448 verification: key, message digest, signature (R465). -/
opaque ed448Verify : List (BitVec 8) → List (BitVec 8) → List (BitVec 8) → Bool

/-- The module's identity signature over a digest (R466). -/
opaque identitySign : List (BitVec 8) → List (BitVec 8)

/-- The 16-byte module serial (R466). -/
opaque serial : List (BitVec 8)

/-- The images that a module holds from manufacture, with their headers (R465, R466), by kind: 0 the device boot image, 1 the plate
firmware, 2 and 3 the firmware of hubs A and B. -/
opaque factoryImage : Nat → List (BitVec 8)

/-- What kind of image a staged one is, modulo 3: a device boot image, plate firmware, or firmware of the hub that it came in by (R465; log
entry 73). -/
opaque imageKind : List (BitVec 8) → Nat

/-- The vendor root digest and the least security version fused in the hubs (R465). -/
opaque vendorRoot : List (BitVec 8)
opaque minVersion : Nat

/-- What the resident trap code charges for its own instructions on a cause, how many they are before its ERET, and where a unit's notify word lies in its job's runtime
page (R412, Table 17.1; log entry 68). -/
opaque trapCoins : BitVec 16 → Nat
opaque trapInstrs : BitVec 16 → BitVec 64
opaque runtimeWord : BitVec 24 → BitVec 24 → BitVec 64

/-- The words of the system code by address, installed from 0x6000 of every core at boot (R443 step 4). -/
opaque systemCode : Nat → BitVec 32

/-- Activity of a core of another joined module: its own capacity map is not in this module (log entry 8). -/
opaque remoteActive : BitVec 8 → BitVec 18 → Bool

/-- The numbers of the cores at the positions of the octet of a core of another module, none where the position is not active, and the
physical coordinates of such a position (log entry 8). -/
opaque remoteOctet : BitVec 8 → BitVec 18 → Nat → Option (BitVec 18)
opaque remotePlace : BitVec 8 → BitVec 18 → Nat → BitVec 18

/-- N of another module, and the number of its root core (R345, R358; log entry 8). -/
opaque remoteCores : BitVec 8 → Nat
opaque remoteRoot : BitVec 8 → BitVec 18

/-- A free frame of a core of another module, where a clearing core puts a page (R354 step 2; log entry 8); the last argument is the
state's counter of free values. -/
opaque remoteFrame : BitVec 26 → Nat → Option (BitVec 8)

/-- Whether the vault map of a core of another module has no room for one more entry (R349; log entry 8); the last argument is the state's
counter of free values. -/
opaque remoteFull : BitVec 26 → Nat → Bool

/-- 64 bytes at a job's global address, as the page's home in another module has them in a cycle (R312, R341; log entry 8). -/
opaque remoteBlock : BitVec 26 → BitVec 24 → BitVec 64 → BitVec 64 → Nat

/-- The key index of a page whose entry another module's clearing core holds, in a cycle (R365, R479; log entry 8). -/
opaque remoteKey : BitVec 8 → BitVec 24 → BitVec 33 → BitVec 64 → Option (BitVec 6)

/-- Whether a launch has ended on its distributor's module in a cycle; none when that module has no such launch of the job (log entry 8). -/
opaque remoteEnded : BitVec 8 → BitVec 32 → BitVec 64 → Option Bool

/-- Completed rounds of a reduction on its engine's module in a cycle, and whether it has failed; none when that module has no such
reduction (log entry 8). -/
opaque remoteRounds : BitVec 8 → BitVec 24 → BitVec 10 → BitVec 64 → Option (Nat × Bool)

/-- The home of a page, as the clearing core on another module answers in a cycle; none when the page is not mapped (log entries 8, 10). -/
opaque remoteHome : BitVec 8 → BitVec 24 → BitVec 33 → BitVec 64 → Option (BitVec 26)

/-- Hops beyond a link, on another module, to one of its cores (log entry 8). -/
opaque remoteHops : BitVec 8 → BitVec 18 → Nat

/-- The coins of an in-field test of a core (R394, R395), whose amount the specification does not state (log entry 23). -/
opaque testCoins : Nat

/-- What the .handler directives of a kernel image's job have the multicast of the image write beside it (R274, R280): words of the
user handler region, with their offset in it, and handler table entries with their entry points (log entry 38). -/
opaque imageHandlers : List (BitVec 8) → List (Nat × List (BitVec 8)) × List (Nat × BitVec 15)

/-- The kernel image of a launch that another module's distributor holds (log entry 8). -/
opaque remoteImage : BitVec 32 → List (BitVec 8)

/-- A message between two cores stands behind another on a link of the mesh when that one stands still: source and destination of the one
that stands still, then of the other (R249; log entry 70). -/
opaque behind : Nat → Nat → Nat → Nat → Bool

/-- What the boot test finds in the vaults at a boot, by the number of boots since manufacture: a core, a bank, its failing rows and its
faulty lane groups (R420; log entry 69). -/
opaque bootFound : Nat → List (Nat × Nat × List (BitVec 8) × List (Fin 9))

/-- Routers that fail their boot test at a boot, by the number of boots since manufacture: the core index at each one's place (R422; log
entry 69). -/
opaque bootRouters : Nat → List Nat

/-- What a core's router makes wrong of the coordinates that discovery assigns to it at a boot: zero for a sound one (R446; log entry 69). -/
opaque flitError : Nat → Nat → BitVec 10

/-- The module's ordering code: LX-N1-250, or else LX-N1-236 (Table 0.1). -/
opaque ordered250 : Bool

/-- The least counts that the ordering code guarantees: active cores and working matrix units (Table 0.1, R424). -/
def orderedCores : Nat := if ordered250 then 250000 else 236000
def orderedMtx : Nat := if ordered250 then 31250 else 29000

/-- How the device runtime and the hubs' firmware lay out what the specification leaves to them: the header of a
management reply body after its 8-byte header (log entry 9). -/
opaque mgmtBody : Nat → List (BitVec 8) → List (BitVec 8)

/-- The bytes of a boot image in the layout of R465: version, key, signature, body. -/
opaque imageParts : List (BitVec 8) → Option (Nat × List (BitVec 8) × List (BitVec 8) × List (BitVec 8))

end Sys2Proof.Config
end

