-- ==== Sys2Proof/Syntax.lean ====
section
/-!
DEFINITION. The syntax of the N1: one constructor for every row of spec/opcode_table.json.

The first part is the Griex instruction set (rows with a 32-bit encoding, 03_encoding.md); each constructor's
arguments are the row's fields, raw, in the order of the table.  The second part is the machine steps of the table
that have no word of their own (a message landing, a tick of the mint, a hub command ...).  Their arguments say where
the step happens (a core index, a slot, a bank, a hub) and what the outside world brings with it.
-/
namespace Sys2Proof

/-- The two hubs of a module (21_interfaces.md, R469). -/
inductive Hub where
  | a
  | b
deriving DecidableEq, Repr

/-- The instructions and machine steps of the N1.  A core index is the core's place in plate order:
1 024 x plate + 32 x plate-local y + plate-local x, plates in row-major order (R313, R443 step 6). -/
inductive Instr where
  /-- ADD (R102). Writes g[d] with the sum of g[a] and g[b] modulo 2^64. -/
  | add (d : BitVec 5) (a : BitVec 5) (b : BitVec 5)
  /-- SUB (R102). Writes g[d] with g[a] minus g[b] modulo 2^64. -/
  | sub (d : BitVec 5) (a : BitVec 5) (b : BitVec 5)
  /-- AND (R102). Writes g[d] with the bitwise AND of g[a] and g[b]. -/
  | and (d : BitVec 5) (a : BitVec 5) (b : BitVec 5)
  /-- OR (R102). Writes g[d] with the bitwise OR of g[a] and g[b]. -/
  | or (d : BitVec 5) (a : BitVec 5) (b : BitVec 5)
  /-- XOR (R102). Writes g[d] with the bitwise XOR of g[a] and g[b]. -/
  | xor (d : BitVec 5) (a : BitVec 5) (b : BitVec 5)
  /-- ANDN (R102). Writes g[d] with g[a] AND NOT g[b]. -/
  | andn (d : BitVec 5) (a : BitVec 5) (b : BitVec 5)
  /-- SLL (R102). Shifts g[a] left by g[b][5:0] into g[d]. -/
  | sll (d : BitVec 5) (a : BitVec 5) (b : BitVec 5)
  /-- SRL (R102). Shifts g[a] right logically by g[b][5:0] into g[d]. -/
  | srl (d : BitVec 5) (a : BitVec 5) (b : BitVec 5)
  /-- SRA (R102). Shifts g[a] right arithmetically by g[b][5:0] into g[d]. -/
  | sra (d : BitVec 5) (a : BitVec 5) (b : BitVec 5)
  /-- ROTR (R102). Rotates g[a] right by g[b][5:0] into g[d]. -/
  | rotr (d : BitVec 5) (a : BitVec 5) (b : BitVec 5)
  /-- SLT (R102). Writes 1 to g[d] when g[a] is below g[b] as signed, else 0. -/
  | slt (d : BitVec 5) (a : BitVec 5) (b : BitVec 5)
  /-- SLTU (R102). Writes 1 to g[d] when g[a] is below g[b] as unsigned, else 0. -/
  | sltu (d : BitVec 5) (a : BitVec 5) (b : BitVec 5)
  /-- MIN (R102). Writes the signed smaller of g[a] and g[b] to g[d]. -/
  | min (d : BitVec 5) (a : BitVec 5) (b : BitVec 5)
  /-- MAX (R102). Writes the signed greater of g[a] and g[b] to g[d]. -/
  | max (d : BitVec 5) (a : BitVec 5) (b : BitVec 5)
  /-- MINU (R102). Writes the unsigned smaller of g[a] and g[b] to g[d]. -/
  | minu (d : BitVec 5) (a : BitVec 5) (b : BitVec 5)
  /-- MAXU (R102). Writes the unsigned greater of g[a] and g[b] to g[d]. -/
  | maxu (d : BitVec 5) (a : BitVec 5) (b : BitVec 5)
  /-- MUL (R102). Writes the low 64 bits of g[a] times g[b] to g[d]. -/
  | mul (d : BitVec 5) (a : BitVec 5) (b : BitVec 5)
  /-- MULH (R102). Writes the high 64 bits of the signed 128-bit product to g[d]. -/
  | mulh (d : BitVec 5) (a : BitVec 5) (b : BitVec 5)
  /-- MULHU (R102). Writes the high 64 bits of the unsigned 128-bit product to g[d]. -/
  | mulhu (d : BitVec 5) (a : BitVec 5) (b : BitVec 5)
  /-- DIV (R104). Writes the signed quotient toward zero to g[d], with the limit cases of Table 4.4. -/
  | div (d : BitVec 5) (a : BitVec 5) (b : BitVec 5)
  /-- DIVU (R104). Writes the unsigned quotient to g[d], all ones for a zero divisor. -/
  | divu (d : BitVec 5) (a : BitVec 5) (b : BitVec 5)
  /-- REM (R104). Writes the signed remainder with the sign of g[a] to g[d]. -/
  | rem (d : BitVec 5) (a : BitVec 5) (b : BitVec 5)
  /-- REMU (R104). Writes the unsigned remainder to g[d]. -/
  | remu (d : BitVec 5) (a : BitVec 5) (b : BitVec 5)
  /-- CLZ (R102). Writes the count of leading zero bits of g[a] to g[d]. -/
  | clz (d : BitVec 5) (a : BitVec 5)
  /-- CTZ (R102). Writes the count of trailing zero bits of g[a] to g[d]. -/
  | ctz (d : BitVec 5) (a : BitVec 5)
  /-- POPC (R102). Writes the number of one bits of g[a] to g[d]. -/
  | popc (d : BitVec 5) (a : BitVec 5)
  /-- BSWAP (R102). Writes g[a] with its bytes reversed to g[d]. -/
  | bswap (d : BitVec 5) (a : BitVec 5)
  /-- SEL (R102). Selects bits of g[a] where old g[d] is 1 and of g[b] elsewhere. -/
  | sel (d : BitVec 5) (a : BitVec 5) (b : BitVec 5)
  /-- SHADD (R102). Writes g[a] shifted left by 1 to 4 plus g[b] to g[d]. -/
  | shadd (d : BitVec 5) (a : BitVec 5) (b : BitVec 5) (s : BitVec 2)
  /-- EXTU (R103). Extracts a zero-extended bit field of g[a] into g[d]. -/
  | extu (d : BitVec 5) (a : BitVec 5) (b : BitVec 5)
  /-- EXTS (R103). Extracts a sign-extended bit field of g[a] into g[d]. -/
  | exts (d : BitVec 5) (a : BitVec 5) (b : BitVec 5)
  /-- INSF (R103). Replaces a bit field of g[d] with the low bits of g[a]. -/
  | insf (d : BitVec 5) (a : BitVec 5) (b : BitVec 5)
  /-- ADDI (R105). Writes g[a] plus the sign-extended immediate to g[d]. -/
  | addi (d : BitVec 5) (a : BitVec 5) (i : BitVec 16)
  /-- ANDI (R105). Writes g[a] AND the zero-extended immediate to g[d]. -/
  | andi (d : BitVec 5) (a : BitVec 5) (i : BitVec 16)
  /-- ORI (R105). Writes g[a] OR the zero-extended immediate to g[d]. -/
  | ori (d : BitVec 5) (a : BitVec 5) (i : BitVec 16)
  /-- XORI (R105). Writes g[a] XOR the zero-extended immediate to g[d]. -/
  | xori (d : BitVec 5) (a : BitVec 5) (i : BitVec 16)
  /-- SLTI (R105). Writes 1 when g[a] is below the sign-extended immediate as signed. -/
  | slti (d : BitVec 5) (a : BitVec 5) (i : BitVec 16)
  /-- SLTIU (R105). Writes 1 when g[a] is below the sign-extended immediate as unsigned. -/
  | sltiu (d : BitVec 5) (a : BitVec 5) (i : BitVec 16)
  /-- SLLI (R105). Shifts g[a] left by an immediate amount into g[d]. -/
  | slli (d : BitVec 5) (a : BitVec 5) (s : BitVec 6)
  /-- SRLI (R105). Shifts g[a] right logically by an immediate amount into g[d]. -/
  | srli (d : BitVec 5) (a : BitVec 5) (s : BitVec 6)
  /-- SRAI (R105). Shifts g[a] right arithmetically by an immediate amount into g[d]. -/
  | srai (d : BitVec 5) (a : BitVec 5) (s : BitVec 6)
  /-- ROTRI (R105). Rotates g[a] right by an immediate amount into g[d]. -/
  | rotri (d : BitVec 5) (a : BitVec 5) (s : BitVec 6)
  /-- LIH (R105). Replaces halfword h of g[d] with the immediate. -/
  | lih (d : BitVec 5) (h : BitVec 2) (i : BitVec 16)
  /-- ADPC (R105). Writes the instruction's own PC plus a word offset to g[d]. -/
  | adpc (d : BitVec 5) (i : BitVec 16)
  /-- FADD (R106). Adds two scalar floats in the selected precision, rounded once. -/
  | fadd (d : BitVec 5) (a : BitVec 5) (b : BitVec 5) (p : BitVec 2)
  /-- FSUB (R106). Subtracts two scalar floats, rounded once. -/
  | fsub (d : BitVec 5) (a : BitVec 5) (b : BitVec 5) (p : BitVec 2)
  /-- FMUL (R106). Multiplies two scalar floats, rounded once. -/
  | fmul (d : BitVec 5) (a : BitVec 5) (b : BitVec 5) (p : BitVec 2)
  /-- FMA (R106). Computes g[a] times g[b] plus old g[d], rounded once. -/
  | fma (d : BitVec 5) (a : BitVec 5) (b : BitVec 5) (p : BitVec 2)
  /-- FDIV (R106). Divides two scalar floats, correctly rounded, using the shared divider. -/
  | fdiv (d : BitVec 5) (a : BitVec 5) (b : BitVec 5) (p : BitVec 2)
  /-- FSQRT (R106). Takes the correctly rounded square root of g[a]. -/
  | fsqrt (d : BitVec 5) (a : BitVec 5) (p : BitVec 2)
  /-- FMIN (R52). Writes the smaller of two floats with -0 below +0 and NaN rules of R52. -/
  | fmin (d : BitVec 5) (a : BitVec 5) (b : BitVec 5) (p : BitVec 2)
  /-- FMAX (R52). Writes the greater of two floats with the NaN rules of R52. -/
  | fmax (d : BitVec 5) (a : BitVec 5) (b : BitVec 5) (p : BitVec 2)
  /-- FCMP (R53). Writes 1 when the selected relation holds between two floats. -/
  | fcmp (d : BitVec 5) (a : BitVec 5) (b : BitVec 5) (p : BitVec 2) (c : BitVec 3)
  /-- FCVT (R106). Converts g[a] from the source format to format p by Table 2.8. -/
  | fcvt (d : BitVec 5) (a : BitVec 5) (p : BitVec 2) (s : BitVec 2)
  /-- FCLASS (R55). Writes the one-hot class mask of g[a]. -/
  | fclass (d : BitVec 5) (a : BitVec 5) (p : BitVec 2)
  /-- FTOI (R106). Converts a float to an integer of the selected width under FPMODE.RM. -/
  | ftoi (d : BitVec 5) (a : BitVec 5) (p : BitVec 2) (w : BitVec 2) (u : BitVec 1)
  /-- ITOF (R106). Converts an integer of the selected width to a float. -/
  | itof (d : BitVec 5) (a : BitVec 5) (p : BitVec 2) (w : BitVec 2) (u : BitVec 1)
  /-- LD (R159). Loads 1 to 8 bytes from a local or homed-here address into g[d], migrating under AUTOMIG. -/
  | ld (d : BitVec 5) (a : BitVec 5) (s : BitVec 4) (o : BitVec 12)
  /-- ST (R159). Stores the low bytes of g[d] at a local or homed-here address. -/
  | st (d : BitVec 5) (a : BitVec 5) (s : BitVec 4) (o : BitVec 12)
  /-- AMO_ADD (R160). Atomically adds g[b] at g[a] and returns the old value. -/
  | amoAdd (d : BitVec 5) (a : BitVec 5) (b : BitVec 5) (o : BitVec 2) (z : BitVec 1)
  /-- AMO_AND (R160). Atomically ANDs g[b] into the word at g[a]. -/
  | amoAnd (d : BitVec 5) (a : BitVec 5) (b : BitVec 5) (o : BitVec 2) (z : BitVec 1)
  /-- AMO_OR (R160). Atomically ORs g[b] into the word at g[a]. -/
  | amoOr (d : BitVec 5) (a : BitVec 5) (b : BitVec 5) (o : BitVec 2) (z : BitVec 1)
  /-- AMO_XOR (R160). Atomically XORs g[b] into the word at g[a]. -/
  | amoXor (d : BitVec 5) (a : BitVec 5) (b : BitVec 5) (o : BitVec 2) (z : BitVec 1)
  /-- AMO_MIN (R160). Atomically keeps the signed minimum at g[a]. -/
  | amoMin (d : BitVec 5) (a : BitVec 5) (b : BitVec 5) (o : BitVec 2) (z : BitVec 1)
  /-- AMO_MAX (R160). Atomically keeps the signed maximum at g[a]. -/
  | amoMax (d : BitVec 5) (a : BitVec 5) (b : BitVec 5) (o : BitVec 2) (z : BitVec 1)
  /-- AMO_MINU (R160). Atomically keeps the unsigned minimum at g[a]. -/
  | amoMinu (d : BitVec 5) (a : BitVec 5) (b : BitVec 5) (o : BitVec 2) (z : BitVec 1)
  /-- AMO_MAXU (R160). Atomically keeps the unsigned maximum at g[a]. -/
  | amoMaxu (d : BitVec 5) (a : BitVec 5) (b : BitVec 5) (o : BitVec 2) (z : BitVec 1)
  /-- AMO_SWAP (R160). Atomically swaps g[b] with the word at g[a]. -/
  | amoSwap (d : BitVec 5) (a : BitVec 5) (b : BitVec 5) (o : BitVec 2) (z : BitVec 1)
  /-- AMO_CAS (R160). Atomically stores g[b] at g[a] when the old value equals g[d]. -/
  | amoCas (d : BitVec 5) (a : BitVec 5) (b : BitVec 5) (o : BitVec 2) (z : BitVec 1)
  /-- BEQ (R108). Branches when g[a] equals g[b]. -/
  | beq (a : BitVec 5) (b : BitVec 5) (o : BitVec 13)
  /-- BNE (R108). Branches when g[a] differs from g[b]. -/
  | bne (a : BitVec 5) (b : BitVec 5) (o : BitVec 13)
  /-- BLT (R108). Branches when g[a] is below g[b] as signed. -/
  | blt (a : BitVec 5) (b : BitVec 5) (o : BitVec 13)
  /-- BGE (R108). Branches when g[a] is at least g[b] as signed. -/
  | bge (a : BitVec 5) (b : BitVec 5) (o : BitVec 13)
  /-- BLTU (R108). Branches when g[a] is below g[b] as unsigned. -/
  | bltu (a : BitVec 5) (b : BitVec 5) (o : BitVec 13)
  /-- BGEU (R108). Branches when g[a] is at least g[b] as unsigned. -/
  | bgeu (a : BitVec 5) (b : BitVec 5) (o : BitVec 13)
  /-- BBS (R108). Branches when bit g[b][5:0] of g[a] is 1. -/
  | bbs (a : BitVec 5) (b : BitVec 5) (o : BitVec 13)
  /-- BBC (R108). Branches when bit g[b][5:0] of g[a] is 0. -/
  | bbc (a : BitVec 5) (b : BitVec 5) (o : BitVec 13)
  /-- JAL (R109). Jumps by a word offset and writes the link to g[d]. -/
  | jal (d : BitVec 5) (o : BitVec 21)
  /-- JALR (R109). Jumps to g[a] plus a word offset and writes the link, trapping MISALIGN first. -/
  | jalr (d : BitVec 5) (a : BitVec 5) (i : BitVec 16)
  /-- RPT (R111). Replays its frame of n words with staggered register fields, keeping progress in the count register. -/
  | rpt (c : BitVec 5) (n : BitVec 4) (d : BitVec 2) (a : BitVec 2) (b : BitVec 2)
  /-- NEST (R115). Loads a nest descriptor in counter mode and starts a claim. -/
  | nest (a : BitVec 5)
  /-- NEXT (R117). Delivers one iteration into k0-k3 and g[a], popping or claiming a chunk as needed. -/
  | next (a : BitVec 5)
  /-- NESTQ (R115). Loads a nest descriptor in queue mode with an inbound queue as chunk source. -/
  | nestq (a : BitVec 5) (b : BitVec 5)
  /-- TRAP (R119). Raises TRAPI with the code in TRAPVAL. -/
  | trap (c : BitVec 10)
  /-- BRK (R119). Raises BREAK, or stops the slot when breakpoint capture is on. -/
  | brk (c : BitVec 10)
  /-- CRR (R124). Reads a control register by index into g[d]. -/
  | crr (d : BitVec 5) (i : BitVec 10)
  /-- CRW (R124). Writes a control register by index from g[a], field by field. -/
  | crw (a : BitVec 5) (i : BitVec 10)
  /-- PMAP (R126). Sends a page-entry operation to the clearing core and joins the open batch. -/
  | pmap (d : BitVec 5) (a : BitVec 5) (b : BitVec 5)
  /-- FDSET (R196). Writes a valid narrow format descriptor into fd[N]. -/
  | fdset (n : BitVec 3) (a : BitVec 5)
  /-- MCFG (R197). Queues a new matrix configuration block for later MTX commands. -/
  | mcfg (a : BitVec 5)
  /-- MPROG (R199). Queues a new recurrence microprogram for later MTX commands. -/
  | mprog (a : BitVec 5)
  /-- VADD (R137). Adds integer lanes under a merging mask. -/
  | vadd (d : BitVec 5) (a : BitVec 5) (b : BitVec 5) (m : BitVec 3) (q : BitVec 2) (e : BitVec 2)
  /-- VSUB (R137). Subtracts integer lanes. -/
  | vsub (d : BitVec 5) (a : BitVec 5) (b : BitVec 5) (m : BitVec 3) (q : BitVec 2) (e : BitVec 2)
  /-- VMUL (R137). Multiplies integer lanes, keeping the low bits. -/
  | vmul (d : BitVec 5) (a : BitVec 5) (b : BitVec 5) (m : BitVec 3) (q : BitVec 2) (e : BitVec 2)
  /-- VMULH (R137). Multiplies signed integer lanes, keeping the high bits. -/
  | vmulh (d : BitVec 5) (a : BitVec 5) (b : BitVec 5) (m : BitVec 3) (q : BitVec 2) (e : BitVec 2)
  /-- VMIN (R137). Takes the signed minimum of lanes. -/
  | vmin (d : BitVec 5) (a : BitVec 5) (b : BitVec 5) (m : BitVec 3) (q : BitVec 2) (e : BitVec 2)
  /-- VMAX (R137). Takes the signed maximum of lanes. -/
  | vmax (d : BitVec 5) (a : BitVec 5) (b : BitVec 5) (m : BitVec 3) (q : BitVec 2) (e : BitVec 2)
  /-- VMINU (R137). Takes the unsigned minimum of lanes. -/
  | vminu (d : BitVec 5) (a : BitVec 5) (b : BitVec 5) (m : BitVec 3) (q : BitVec 2) (e : BitVec 2)
  /-- VMAXU (R137). Takes the unsigned maximum of lanes. -/
  | vmaxu (d : BitVec 5) (a : BitVec 5) (b : BitVec 5) (m : BitVec 3) (q : BitVec 2) (e : BitVec 2)
  /-- VAND (R137). Bitwise AND of lanes. -/
  | vand (d : BitVec 5) (a : BitVec 5) (b : BitVec 5) (m : BitVec 3) (q : BitVec 2) (e : BitVec 2)
  /-- VOR (R137). Bitwise OR of lanes. -/
  | vor (d : BitVec 5) (a : BitVec 5) (b : BitVec 5) (m : BitVec 3) (q : BitVec 2) (e : BitVec 2)
  /-- VXOR (R137). Bitwise XOR of lanes. -/
  | vxor (d : BitVec 5) (a : BitVec 5) (b : BitVec 5) (m : BitVec 3) (q : BitVec 2) (e : BitVec 2)
  /-- VSLL (R137). Shifts lanes left by b modulo the lane width. -/
  | vsll (d : BitVec 5) (a : BitVec 5) (b : BitVec 5) (m : BitVec 3) (q : BitVec 2) (e : BitVec 2)
  /-- VSRL (R137). Shifts lanes right logically. -/
  | vsrl (d : BitVec 5) (a : BitVec 5) (b : BitVec 5) (m : BitVec 3) (q : BitVec 2) (e : BitVec 2)
  /-- VSRA (R137). Shifts lanes right arithmetically. -/
  | vsra (d : BitVec 5) (a : BitVec 5) (b : BitVec 5) (m : BitVec 3) (q : BitVec 2) (e : BitVec 2)
  /-- VABSD (R137). Writes the absolute difference of signed lanes. -/
  | vabsd (d : BitVec 5) (a : BitVec 5) (b : BitVec 5) (m : BitVec 3) (q : BitVec 2) (e : BitVec 2)
  /-- VADDS (R137). Adds signed lanes with saturation. -/
  | vadds (d : BitVec 5) (a : BitVec 5) (b : BitVec 5) (m : BitVec 3) (q : BitVec 2) (e : BitVec 2)
  /-- VFADD (R138). Adds floating-point lanes, rounded once. -/
  | vfadd (d : BitVec 5) (a : BitVec 5) (b : BitVec 5) (m : BitVec 3) (q : BitVec 2) (e : BitVec 2)
  /-- VFSUB (R138). Subtracts floating-point lanes. -/
  | vfsub (d : BitVec 5) (a : BitVec 5) (b : BitVec 5) (m : BitVec 3) (q : BitVec 2) (e : BitVec 2)
  /-- VFMUL (R138). Multiplies floating-point lanes. -/
  | vfmul (d : BitVec 5) (a : BitVec 5) (b : BitVec 5) (m : BitVec 3) (q : BitVec 2) (e : BitVec 2)
  /-- VFMA (R138). Computes a times b plus old d per lane, rounded once. -/
  | vfma (d : BitVec 5) (a : BitVec 5) (b : BitVec 5) (m : BitVec 3) (q : BitVec 2) (e : BitVec 2)
  /-- VFMS (R138). Computes a times b minus old d per lane, rounded once. -/
  | vfms (d : BitVec 5) (a : BitVec 5) (b : BitVec 5) (m : BitVec 3) (q : BitVec 2) (e : BitVec 2)
  /-- VFDIV (R138). Divides floating-point lanes, correctly rounded. -/
  | vfdiv (d : BitVec 5) (a : BitVec 5) (b : BitVec 5) (m : BitVec 3) (q : BitVec 2) (e : BitVec 2)
  /-- VFSQRT (R138). Takes the correctly rounded square root per lane. -/
  | vfsqrt (d : BitVec 5) (a : BitVec 5) (m : BitVec 3) (q : BitVec 2) (e : BitVec 2)
  /-- VFMIN (R52). Takes the floating-point minimum per lane. -/
  | vfmin (d : BitVec 5) (a : BitVec 5) (b : BitVec 5) (m : BitVec 3) (q : BitVec 2) (e : BitVec 2)
  /-- VFMAX (R52). Takes the floating-point maximum per lane. -/
  | vfmax (d : BitVec 5) (a : BitVec 5) (b : BitVec 5) (m : BitVec 3) (q : BitVec 2) (e : BitVec 2)
  /-- VFABS (R138). Clears the sign bit of each lane. -/
  | vfabs (d : BitVec 5) (a : BitVec 5) (m : BitVec 3) (q : BitVec 2) (e : BitVec 2)
  /-- VFNEG (R138). Inverts the sign bit of each lane. -/
  | vfneg (d : BitVec 5) (a : BitVec 5) (m : BitVec 3) (q : BitVec 2) (e : BitVec 2)
  /-- VCVTF (R139). Converts floating-point lanes between formats. -/
  | vcvtf (d : BitVec 5) (a : BitVec 5) (s : BitVec 2) (m : BitVec 3) (q : BitVec 2) (e : BitVec 2)
  /-- VFTOI (R139). Converts floating-point lanes to integers. -/
  | vftoi (d : BitVec 5) (a : BitVec 5) (u : BitVec 1) (w : BitVec 2) (m : BitVec 3) (q : BitVec 2) (e : BitVec 2)
  /-- VITOF (R139). Converts integer lanes to floating point. -/
  | vitof (d : BitVec 5) (a : BitVec 5) (u : BitVec 1) (w : BitVec 2) (m : BitVec 3) (q : BitVec 2) (e : BitVec 2)
  /-- VNARROW (R140). Converts lanes into a narrow format without scale. -/
  | vnarrow (d : BitVec 5) (a : BitVec 5) (n : BitVec 3) (m : BitVec 3) (q : BitVec 2) (e : BitVec 2)
  /-- VWIDEN (R141). Widens narrow elements times the block scale into a float format. -/
  | vwiden (d : BitVec 5) (a : BitVec 5) (n : BitVec 3) (m : BitVec 3) (q : BitVec 2) (e : BitVec 2)
  /-- VSCALE (R142). Packs a register group into one narrow row under a given block scale. -/
  | vscale (d : BitVec 5) (a : BitVec 5) (n : BitVec 3) (e : BitVec 2)
  /-- VQBLK (R142). Chooses a block scale from a register group and packs one narrow row. -/
  | vqblk (d : BitVec 5) (a : BitVec 5) (n : BitVec 3) (e : BitVec 2)
  /-- VBCAST (R143). Broadcasts the low bits of g[a] to every active element. -/
  | vbcast (d : BitVec 5) (a : BitVec 5) (m : BitVec 3) (e : BitVec 2)
  /-- VEXT (R143). Extracts element g[b] of a vector into g[d]. -/
  | vext (d : BitVec 5) (a : BitVec 5) (b : BitVec 5) (q : BitVec 2) (e : BitVec 2)
  /-- VINS (R143). Inserts g[a] into element g[b] of v[d]. -/
  | vins (d : BitVec 5) (a : BitVec 5) (b : BitVec 5) (e : BitVec 2)
  /-- VPERM (R143). Permutes elements of va by the indices in vb. -/
  | vperm (d : BitVec 5) (a : BitVec 5) (b : BitVec 5) (m : BitVec 3) (q : BitVec 2) (e : BitVec 2)
  /-- VSLIDEU (R143). Slides elements up by g[b], filling with zero. -/
  | vslideu (d : BitVec 5) (a : BitVec 5) (b : BitVec 5) (m : BitVec 3) (q : BitVec 2) (e : BitVec 2)
  /-- VSLIDED (R143). Slides elements down by g[b], filling with zero. -/
  | vslided (d : BitVec 5) (a : BitVec 5) (b : BitVec 5) (m : BitVec 3) (q : BitVec 2) (e : BitVec 2)
  /-- VZIP (R143). Interleaves the low halves of two vectors. -/
  | vzip (d : BitVec 5) (a : BitVec 5) (b : BitVec 5) (m : BitVec 3) (q : BitVec 2) (e : BitVec 2)
  /-- VUNZIP (R143). Gathers the even elements of two vectors. -/
  | vunzip (d : BitVec 5) (a : BitVec 5) (b : BitVec 5) (m : BitVec 3) (q : BitVec 2) (e : BitVec 2)
  /-- VMERGE (R143). Selects each element from va or vb by the selector mask. -/
  | vmerge (d : BitVec 5) (a : BitVec 5) (b : BitVec 5) (m : BitVec 3) (q : BitVec 2) (e : BitVec 2)
  /-- MPOPC (R143). Counts the elements selected by a mask into g[d]. -/
  | mpopc (d : BitVec 5) (m : BitVec 3) (e : BitVec 2)
  /-- MFIRST (R143). Writes the index of the first selected element, or n. -/
  | mfirst (d : BitVec 5) (m : BitVec 3) (e : BitVec 2)
  /-- MSET (R143). Writes g[a] into mask register m[d]. -/
  | mset (d : BitVec 3) (a : BitVec 5)
  /-- VRSUM (R72). Sums the active lanes by the fixed binary tree. -/
  | vrsum (d : BitVec 5) (a : BitVec 5) (m : BitVec 3) (q : BitVec 2) (e : BitVec 2)
  /-- VRMAX (R144). Reduces active lanes to their maximum by the tree. -/
  | vrmax (d : BitVec 5) (a : BitVec 5) (m : BitVec 3) (q : BitVec 2) (e : BitVec 2)
  /-- VRMIN (R144). Reduces active lanes to their minimum by the tree. -/
  | vrmin (d : BitVec 5) (a : BitVec 5) (m : BitVec 3) (q : BitVec 2) (e : BitVec 2)
  /-- VRSUMI (R144). Sums sign-extended integer lanes modulo 2^64. -/
  | vrsumi (d : BitVec 5) (a : BitVec 5) (m : BitVec 3) (q : BitVec 2) (e : BitVec 2)
  /-- VSCAN (R145). Forms the inclusive left-to-right prefix sum of active lanes. -/
  | vscan (d : BitVec 5) (a : BitVec 5) (m : BitVec 3) (q : BitVec 2) (e : BitVec 2)
  /-- VEXP2 (R146). Computes 2^x per lane. -/
  | vexp2 (d : BitVec 5) (a : BitVec 5) (m : BitVec 3) (q : BitVec 2) (e : BitVec 2)
  /-- VLOG2 (R146). Computes log2 x per lane. -/
  | vlog2 (d : BitVec 5) (a : BitVec 5) (m : BitVec 3) (q : BitVec 2) (e : BitVec 2)
  /-- VEXP (R146). Computes e^x per lane. -/
  | vexp (d : BitVec 5) (a : BitVec 5) (m : BitVec 3) (q : BitVec 2) (e : BitVec 2)
  /-- VLOG (R146). Computes ln x per lane. -/
  | vlog (d : BitVec 5) (a : BitVec 5) (m : BitVec 3) (q : BitVec 2) (e : BitVec 2)
  /-- VSIN (R146). Computes sin x per lane. -/
  | vsin (d : BitVec 5) (a : BitVec 5) (m : BitVec 3) (q : BitVec 2) (e : BitVec 2)
  /-- VCOS (R146). Computes cos x per lane. -/
  | vcos (d : BitVec 5) (a : BitVec 5) (m : BitVec 3) (q : BitVec 2) (e : BitVec 2)
  /-- VTANH (R146). Computes tanh x per lane. -/
  | vtanh (d : BitVec 5) (a : BitVec 5) (m : BitVec 3) (q : BitVec 2) (e : BitVec 2)
  /-- VSIGM (R146). Computes the logistic sigmoid per lane. -/
  | vsigm (d : BitVec 5) (a : BitVec 5) (m : BitVec 3) (q : BitVec 2) (e : BitVec 2)
  /-- VERF (R146). Computes erf x per lane. -/
  | verf (d : BitVec 5) (a : BitVec 5) (m : BitVec 3) (q : BitVec 2) (e : BitVec 2)
  /-- VRCP (R146). Computes the correctly rounded reciprocal per lane. -/
  | vrcp (d : BitVec 5) (a : BitVec 5) (m : BitVec 3) (q : BitVec 2) (e : BitVec 2)
  /-- VRSQRT (R146). Computes the reciprocal square root per lane. -/
  | vrsqrt (d : BitVec 5) (a : BitVec 5) (m : BitVec 3) (q : BitVec 2) (e : BitVec 2)
  /-- VCMPEQ (R147). Writes mask bits where integer lanes are equal. -/
  | vcmpeq (d : BitVec 3) (a : BitVec 5) (b : BitVec 5) (m : BitVec 3) (q : BitVec 2) (e : BitVec 2)
  /-- VCMPNE (R147). Writes mask bits where integer lanes differ. -/
  | vcmpne (d : BitVec 3) (a : BitVec 5) (b : BitVec 5) (m : BitVec 3) (q : BitVec 2) (e : BitVec 2)
  /-- VCMPLT (R147). Writes mask bits where a is below b as signed. -/
  | vcmplt (d : BitVec 3) (a : BitVec 5) (b : BitVec 5) (m : BitVec 3) (q : BitVec 2) (e : BitVec 2)
  /-- VCMPLE (R147). Writes mask bits where a is at most b as signed. -/
  | vcmple (d : BitVec 3) (a : BitVec 5) (b : BitVec 5) (m : BitVec 3) (q : BitVec 2) (e : BitVec 2)
  /-- VCMPLTU (R147). Writes mask bits where a is below b as unsigned. -/
  | vcmpltu (d : BitVec 3) (a : BitVec 5) (b : BitVec 5) (m : BitVec 3) (q : BitVec 2) (e : BitVec 2)
  /-- VCMPLEU (R147). Writes mask bits where a is at most b as unsigned. -/
  | vcmpleu (d : BitVec 3) (a : BitVec 5) (b : BitVec 5) (m : BitVec 3) (q : BitVec 2) (e : BitVec 2)
  /-- VFCMPEQ (R147). Writes mask bits where float lanes are equal, quietly. -/
  | vfcmpeq (d : BitVec 3) (a : BitVec 5) (b : BitVec 5) (m : BitVec 3) (q : BitVec 2) (e : BitVec 2)
  /-- VFCMPLT (R147). Writes mask bits where float a is below b, signalling. -/
  | vfcmplt (d : BitVec 3) (a : BitVec 5) (b : BitVec 5) (m : BitVec 3) (q : BitVec 2) (e : BitVec 2)
  /-- VFCMPLE (R147). Writes mask bits where float a is at most b, signalling. -/
  | vfcmple (d : BitVec 3) (a : BitVec 5) (b : BitVec 5) (m : BitVec 3) (q : BitVec 2) (e : BitVec 2)
  /-- VFCMPUN (R147). Writes mask bits where either float lane is NaN. -/
  | vfcmpun (d : BitVec 3) (a : BitVec 5) (b : BitVec 5) (m : BitVec 3) (q : BitVec 2) (e : BitVec 2)
  /-- MAND (R148). Writes the AND of two mask registers. -/
  | mand (d : BitVec 3) (a : BitVec 3) (b : BitVec 3)
  /-- MOR (R148). Writes the OR of two mask registers. -/
  | mor (d : BitVec 3) (a : BitVec 3) (b : BitVec 3)
  /-- MXOR (R148). Writes the XOR of two mask registers. -/
  | mxor (d : BitVec 3) (a : BitVec 3) (b : BitVec 3)
  /-- MNOT (R148). Writes the complement of a mask register. -/
  | mnot (d : BitVec 3) (a : BitVec 3)
  /-- LDV (R162). Loads a contiguous vector all-or-nothing under a merging mask. -/
  | ldv (d : BitVec 5) (a : BitVec 5) (m : BitVec 3) (e : BitVec 2)
  /-- STV (R162). Stores the active elements of a vector contiguously. -/
  | stv (d : BitVec 5) (a : BitVec 5) (m : BitVec 3) (e : BitVec 2)
  /-- LDVS (R162). Loads a vector with a signed stride. -/
  | ldvs (d : BitVec 5) (a : BitVec 5) (b : BitVec 5) (m : BitVec 3) (e : BitVec 2)
  /-- STVS (R162). Stores a vector with a signed stride. -/
  | stvs (d : BitVec 5) (a : BitVec 5) (b : BitVec 5) (m : BitVec 3) (e : BitVec 2)
  /-- LDVX (R162). Gathers a vector by signed element offsets. -/
  | ldvx (d : BitVec 5) (a : BitVec 5) (b : BitVec 5) (m : BitVec 3) (e : BitVec 2)
  /-- STVX (R162). Scatters a vector by signed element offsets. -/
  | stvx (d : BitVec 5) (a : BitVec 5) (b : BitVec 5) (m : BitVec 3) (e : BitVec 2)
  /-- LDVB (R161). Loads one element and broadcasts it to every element. -/
  | ldvb (d : BitVec 5) (a : BitVec 5) (e : BitVec 2)
  /-- VXCH (R150). Exchanges v[d] with a row of a lent vector bank in one atomic step. -/
  | vxch (d : BitVec 5) (n : BitVec 6) (r : BitVec 3)
  /-- LWIN (R151). Writes LWINMASK into g[d]. -/
  | lwin (d : BitVec 5)
  /-- ACT (R163). Opens the vault row holding g[a] in its bank. -/
  | act (a : BitVec 5)
  /-- PRE (R163). Closes the open row of the bank holding g[a]. -/
  | pre (a : BitVec 5)
  /-- TLD (R165). Starts streaming vault rows into the local address space, with progress in its registers. -/
  | tld (d : BitVec 5) (a : BitVec 5) (b : BitVec 5)
  /-- TLDL (R165). Starts streaming vault rows into the B latch in command order. -/
  | tldl (d : BitVec 5) (a : BitVec 5) (b : BitVec 5)
  /-- TST (R165). Starts streaming local rows into the vault. -/
  | tst (d : BitVec 5) (a : BitVec 5) (b : BitVec 5)
  /-- TCPY (R172). Starts an asynchronous copy of g[b] bytes, optionally crediting a barrier. -/
  | tcpy (d : BitVec 5) (a : BitVec 5) (b : BitVec 5) (c : BitVec 1) (n : BitVec 4)
  /-- TCPYM (R173). Starts an asynchronous multicast copy into tills of the octet. -/
  | tcpym (d : BitVec 5) (a : BitVec 5) (b : BitVec 5) (c : BitVec 1) (n : BitVec 4)
  /-- TFPR (R175). Starts a CRC-64 fingerprint of a range, with the result deferred. -/
  | tfpr (d : BitVec 5) (a : BitVec 5) (b : BitVec 5)
  /-- RLD (R176). Sends a remote load, marking g[d] until the reply. -/
  | rld (d : BitVec 5) (a : BitVec 5) (o : BitVec 2) (s : BitVec 2)
  /-- RSTR (R176). Sends a remote store of the low bytes of g[d]. -/
  | rstr (d : BitVec 5) (a : BitVec 5) (o : BitVec 2) (s : BitVec 2)
  /-- VRLD (R176). Sends a remote 64-byte load, marking v[d]. -/
  | vrld (d : BitVec 5) (a : BitVec 5) (o : BitVec 2)
  /-- VRST (R176). Sends a remote 64-byte store of v[d]. -/
  | vrst (d : BitVec 5) (a : BitVec 5) (o : BitVec 2)
  /-- RFA_ADD (R178). Sends a remote fetch-and-add to the home. -/
  | rfaAdd (d : BitVec 5) (a : BitVec 5) (b : BitVec 5) (o : BitVec 2) (z : BitVec 1)
  /-- RFA_AND (R178). Sends a remote fetch-and-AND. -/
  | rfaAnd (d : BitVec 5) (a : BitVec 5) (b : BitVec 5) (o : BitVec 2) (z : BitVec 1)
  /-- RFA_OR (R178). Sends a remote fetch-and-OR. -/
  | rfaOr (d : BitVec 5) (a : BitVec 5) (b : BitVec 5) (o : BitVec 2) (z : BitVec 1)
  /-- RFA_XOR (R178). Sends a remote fetch-and-XOR. -/
  | rfaXor (d : BitVec 5) (a : BitVec 5) (b : BitVec 5) (o : BitVec 2) (z : BitVec 1)
  /-- RFA_MIN (R178). Sends a remote fetch-and-signed-minimum. -/
  | rfaMin (d : BitVec 5) (a : BitVec 5) (b : BitVec 5) (o : BitVec 2) (z : BitVec 1)
  /-- RFA_MAX (R178). Sends a remote fetch-and-signed-maximum. -/
  | rfaMax (d : BitVec 5) (a : BitVec 5) (b : BitVec 5) (o : BitVec 2) (z : BitVec 1)
  /-- RFA_MINU (R178). Sends a remote fetch-and-unsigned-minimum. -/
  | rfaMinu (d : BitVec 5) (a : BitVec 5) (b : BitVec 5) (o : BitVec 2) (z : BitVec 1)
  /-- RFA_MAXU (R178). Sends a remote fetch-and-unsigned-maximum. -/
  | rfaMaxu (d : BitVec 5) (a : BitVec 5) (b : BitVec 5) (o : BitVec 2) (z : BitVec 1)
  /-- RFA_SWAP (R178). Sends a remote swap. -/
  | rfaSwap (d : BitVec 5) (a : BitVec 5) (b : BitVec 5) (o : BitVec 2) (z : BitVec 1)
  /-- RCAS (R178). Sends a remote compare-and-swap. -/
  | rcas (d : BitVec 5) (a : BitVec 5) (b : BitVec 5) (o : BitVec 2) (z : BitVec 1)
  /-- LRW (R179). Asks for the reservation of a doubleword, parking the slot until granted. -/
  | lrw (d : BitVec 5) (a : BitVec 5) (z : BitVec 1)
  /-- SCH (R179). Writes under the reservation and releases it to the next waiter. -/
  | sch (a : BitVec 5) (b : BitVec 5) (z : BitVec 1)
  /-- SEND (R180). Sends a message of up to 8 flits to a handler of a core's teller. -/
  | send (d : BitVec 5) (a : BitVec 5) (b : BitVec 5) (h : BitVec 6)
  /-- SENDM (R180). Sends the same message to selected positions of an octet. -/
  | sendm (d : BitVec 5) (a : BitVec 5) (b : BitVec 5) (h : BitVec 6)
  /-- QPUSH (R182). Sends v[d] as one entry on a bound outbound channel. -/
  | qpush (d : BitVec 5) (c : BitVec 3)
  /-- QPOP (R182). Removes the head entry of an inbound queue into v[d] and returns a credit. -/
  | qpop (d : BitVec 5) (q : BitVec 3)
  /-- QPEEK (R182). Copies the head entry of an inbound queue into v[d]. -/
  | qpeek (d : BitVec 5) (q : BitVec 3)
  /-- QBIND (R181). Binds an outbound channel to a core's queue with 16 credits. -/
  | qbind (a : BitVec 5) (b : BitVec 5) (c : BitVec 3)
  /-- MIG (R183). Migrates the context to the home of g[a]. -/
  | mig (a : BitVec 5)
  /-- HOME (R184). Writes the currently known home of a page into g[d]. -/
  | home (d : BitVec 5) (a : BitVec 5)
  /-- FENCE (R185). Orders earlier accesses within a scope as acquire, release or both. -/
  | fence (k : BitVec 2) (s : BitVec 3)
  /-- BINIT (R187). Sets a barrier's expected arrivals, bytes and mirror mask. -/
  | binit (d : BitVec 5) (a : BitVec 5) (b : BitVec 5) (n : BitVec 4)
  /-- ARRIVE (R188). Counts one arrival at a local or remote barrier after a release. -/
  | arrive (a : BitVec 5) (n : BitVec 4)
  /-- ARRDROP (R188). Counts one arrival at a local barrier and lowers its next expectation. -/
  | arrdrop (n : BitVec 4)
  /-- BWAIT (R190). Waits until the barrier's phase moves past the slot's ticket. -/
  | bwait (n : BitVec 4)
  /-- BTEST (R190). Reads a barrier's phase and missing arrivals and takes a ticket. -/
  | btest (d : BitVec 5) (n : BitVec 4)
  /-- AWAIT (R169). Closes the open batch and waits for all but the n newest batches. -/
  | await (n : BitVec 3)
  /-- MMA (R202). Queues a matrix multiply-accumulate command of n K-steps on the MTX. -/
  | mma (c : BitVec 2) (a : BitVec 5) (b : BitVec 5) (k : BitVec 5) (s : BitVec 2) (p : BitVec 1) (t : BitVec 1) (m : BitVec 2)
  /-- MZERO (R207). Queues a command writing IDENT into an accumulator. -/
  | mzero (n : BitVec 2)
  /-- MST (R208). Queues a command storing an accumulator in the output format. -/
  | mst (n : BitVec 2) (a : BitVec 5)
  /-- MLDC (R209). Queues a command loading all four accumulators from the till. -/
  | mldc (a : BitVec 5)
  /-- SPTAG (R211). Sends a tag change, create or drop of a sequence to its home. -/
  | sptag (a : BitVec 5) (b : BitVec 5)
  /-- SPAPP (R211). Sends an append of tentative positions, with the first position deferred. -/
  | spapp (d : BitVec 5) (a : BitVec 5) (b : BitVec 5)
  /-- SPCOM (R211). Sends a commit of the lowest tentative positions. -/
  | spcom (a : BitVec 5) (b : BitVec 5)
  /-- SPREJ (R211). Sends a release of the highest tentative positions. -/
  | sprej (a : BitVec 5) (b : BitVec 5)
  /-- SPRET_HOLE (R378). Sends a retirement of matching spans leaving holes. -/
  | spretHole (d : BitVec 5) (a : BitVec 5) (b : BitVec 5)
  /-- SPRET_CLOSE (R378). Sends a retirement of matching spans that also pulls nextpos back. -/
  | spretClose (d : BitVec 5) (a : BitVec 5) (b : BitVec 5)
  /-- SPQRY (R380). Sends a query descriptor and query to the sequence home for fan-out. -/
  | spqry (d : BitVec 5) (a : BitVec 5) (b : BitVec 5)
  /-- SPLOC (R211). Asks for the span header address of a position at a layer. -/
  | sploc (d : BitVec 5) (a : BitVec 5) (b : BitVec 5)
  /-- SPLEN (R211). Asks for nextpos, CL and TL of a sequence. -/
  | splen (d : BitVec 5) (a : BitVec 5)
  /-- LAUNCH (R214). Sends a launch descriptor to the distributor as a release at .sys. -/
  | launch (d : BitVec 5) (a : BitVec 5)
  /-- LWAIT (R215). Waits until a launch completes or is cancelled, then acquires at .sys. -/
  | lwait (a : BitVec 5)
  /-- LCANCEL (R216). Asks the distributor to cancel a launch, graph, phase or job. -/
  | lcancel (a : BitVec 5) (l : BitVec 3)
  /-- LSTAT (R217). Asks for the state of a launch, deferred into g[d]. -/
  | lstat (d : BitVec 5) (a : BitVec 5)
  /-- TREG (R218). Asks the distributor to register a tensor's lifetime. -/
  | treg (d : BitVec 5) (a : BitVec 5)
  /-- PURSE (R220). Asks for a sampled energy quantity. -/
  | purse (d : BitVec 5) (a : BitVec 5)
  /-- SUBS (R221). Asks to enter a threshold subscription for the job. -/
  | subs (d : BitVec 5) (a : BitVec 5)
  /-- UNSUBS (R222). Asks to remove a subscription of the job. -/
  | unsubs (a : BitVec 5)
  /-- CRINIT (R224). Asks to create a collective reduction from a descriptor. -/
  | crinit (d : BitVec 5) (a : BitVec 5)
  /-- CRADD (R225). Sends a contribution for one slot of a reduction round. -/
  | cradd (a : BitVec 5) (b : BitVec 5)
  /-- CRWAIT (R227). Waits until a reduction round has completed, then acquires at .sys. -/
  | crwait (a : BitVec 5)
  /-- ILLEGAL_WORD (R86). Issuing a word that is not an instruction traps ILLOP with subcode 0x00 and changes nothing else. -/
  | illegalWord (w : BitVec 32)
  /-- MIGO (R183). Migrates the context back to its origin core. -/
  | migo
  /-- ABATCH (R167). Closes the open batch. -/
  | abatch
  /-- ERET (R120). Returns from trap code: restores MODE from PMODE and PC from TRAPPC. -/
  | eret
  /-- YIELD (R122). Makes the slot not ready until the issue ring passes it once. -/
  | yield
  /-- EXIT (R123). Ends the unit after its operations and MTX commands complete, or ends a handler activation. -/
  | exit
  /-- REGISTER_WRITE (R12). A write to a register without a row of its own sets its fields by their access codes. -/
  | registerWrite (h : Hub) (off : Nat) (v : BitVec 64)
  /-- MESSAGE_LANDING (R278). A message for a teller lands in a free landing buffer, or waits in the router. -/
  | messageLanding (c : Nat)
  /-- HANDLER_ACTIVATION (R281). The teller starts the next landed message's handler with its registers set by Table 10.4. -/
  | handlerActivation (c : Nat)
  /-- REMOTE_LOAD_SERVE (R176). Handler 0 performs an RLD or VRLD at the home and replies. -/
  | remoteLoadServe (c : Nat)
  /-- REMOTE_STORE_SERVE (R176). Handler 1 performs an RSTR or VRST at the home and acknowledges. -/
  | remoteStoreServe (c : Nat)
  /-- ATOMIC_SERVE (R178). Handler 2 performs an RFA or RCAS as one step at the home. -/
  | atomicServe (c : Nat)
  /-- NEST_CLAIM (R116). Handler 2 claims a guided chunk from a nest counter and replies. -/
  | nestClaim (c : Nat)
  /-- LRW_SERVE (R179). Handler 3 grants or queues a reservation request. -/
  | lrwServe (c : Nat)
  /-- SCH_SERVE (R179). Handler 3 writes under a held reservation and hands it to the oldest waiter. -/
  | schServe (c : Nat)
  /-- TILE_SERVE (R172). Handler 4 serves the global side of a TCPY or TCPYM block. -/
  | tileServe (c : Nat)
  /-- FINGERPRINT_SERVE (R175). Handler 5 computes a TFPR over a global range at its home. -/
  | fingerprintServe (c : Nat)
  /-- SPAN_ENTRY_FORWARD (R210). A pool's entry core forwards a span instruction to the sequence home in arrival order. -/
  | spanEntryForward (c : Nat)
  /-- SPAN_HOME_PERFORM (R211). Handler 6 at the sequence home performs a span instruction as Table 7.8 states. -/
  | spanHomePerform (c : Nat)
  /-- SPAN_OPEN (R374). A span home takes a free slot and writes the header of a newly opened span. -/
  | spanOpen (c : Nat)
  /-- SPAN_COUNT_UPDATE (R374). A span home writes a span's new COUNT. -/
  | spanCountUpdate (c : Nat)
  /-- SPAN_RETIRE (R378). A span home frees the slot of a retired span. -/
  | spanRetire (c : Nat)
  /-- POOLMAKE (R370). Handler 6 checks a pool record, maps member ranges and empties every slot. -/
  | poolmake (c : Nat)
  /-- POOLSIZE (R385). Handler 6 changes a pool's member count, moving sequences and spans. -/
  | poolsize (c : Nat)
  /-- POOLFREE (R369). Handler 6 drops every sequence of the pool and unmaps its ranges. -/
  | poolfree (c : Nat)
  /-- PMAP_PERFORM (R126). Handler 7 at the clearing core performs a PMAP operation and replies with its status. -/
  | pmapPerform (c : Nat)
  /-- MAP (R366). Page services enter a page with a zeroed frame at its class home. -/
  | mapPage (c : Nat)
  /-- UNMAP (R366). Page services remove a page entry as PMAP UNMAP does. -/
  | unmapPage (c : Nat)
  /-- REHOME (R354). Page services start moving a page's frame to another core. -/
  | rehome (c : Nat)
  /-- REHOME_COPY (R354). One rehoming copy message of 8 blocks is written at the new home. -/
  | rehomeCopy (c : Nat)
  /-- REHOME_STUB (R354). When the copy ends, the new home maps the page and the old home installs a stub and forwards held requests. -/
  | rehomeStub (c : Nat)
  /-- REHOME_FREE (R354). On the shoot-down acknowledgement the old home frees its stub and frame. -/
  | rehomeFree (c : Nat)
  /-- COWBREAK (R364). Page services break a copy-on-write share of a page. -/
  | cowbreak (c : Nat)
  /-- COW_BREAK_DECIDE (R364). The frame's home answers a BREAK with KEEP or COPY and a new frame. -/
  | cowBreakDecide (c : Nat)
  /-- REQUEST_FORWARD (R352). A core that is not a page's home forwards a request by stub or clearing core. -/
  | requestForward (c : Nat)
  /-- SHOOTDOWN (R358). A core receives a shoot-down, invalidates its hint and passes it to its children. -/
  | shootdown (c : Nat)
  /-- SHOOTDOWN_ACK (R358). A core acknowledges to its parent once all children have acknowledged. -/
  | shootdownAck (c : Nat)
  /-- REMOTE_ARRIVE_SERVE (R188). Handler 8 counts a remote arrival at a barrier. -/
  | remoteArriveServe (c : Nat)
  /-- BARRIER_CARRIED_PHASE (R189). A phase whose carried counts already meet its expectations completes in the next cycle. -/
  | barrierCarriedPhase (c : Nat) (b : Fin 16)
  /-- PHASE_PUSH (R189). A pushed phase number is applied at a mirror barrier, releasing its waiters. -/
  | phasePush (c : Nat)
  /-- CODE_LOAD (R487). Handler 9 writes program words and a handler entry that become fetchable together. -/
  | codeLoad (c : Nat)
  /-- MIGRATION_DRAIN (R285). A migrating slot drains its marks, batches, claims and MTX work. -/
  | migrationDrain (c : Nat) (t : Fin 4)
  /-- MIGRATION_RESERVE (R289). Handler 10 at the destination answers with a slot and lease part or with PARK. -/
  | migrationReserve (c : Nat)
  /-- MIGRATION_TRANSFER (R285). Handler 10 receives one message of image or lease at the destination. -/
  | migrationTransfer (c : Nat)
  /-- MIGRATION_STUB (R287). The source installs a context stub when a stub entry is free, emptying the slot. -/
  | migrationStub (c : Nat) (t : Fin 4)
  /-- MIGRATION_RESUME (R285). The destination writes the lease, restores the image and resumes the unit. -/
  | migrationResume (c : Nat) (t : Fin 4)
  /-- PARKED_RESTORE (R290). An emptied slot is given to the oldest parked context it can take. -/
  | parkedRestore (c : Nat) (t : Fin 4)
  /-- REMOTE_REPLY (R27). A reply writes the marked destination, clears the mark and updates the route hint, or leaves a fault record. -/
  | remoteReply (c : Nat)
  /-- WRITE_ACK (R168). A home's acknowledgement completes an RSTR, VRST or SCH. -/
  | writeAck (c : Nat)
  /-- CLAIM_REPLY (R116). A claim reply sets the fetcher's current chunk or marks the nest exhausted. -/
  | claimReply (c : Nat)
  /-- LRW_GRANT (R179). A grant makes the parked slot the holder and writes its value. -/
  | lrwGrant (c : Nat)
  /-- DEFERRED_REPLY (R193). An engine's reply writes a deferred g[d] and completes the operation. -/
  | deferredReply (c : Nat)
  /-- COPY_BLOCK_LANDING (R174). A TCPY or TCPYM block lands in a till and credits the named barrier. -/
  | copyBlockLanding (c : Nat)
  /-- COPY_BLOCK_ACK (R174). A home's acknowledgement of a global block credits the barrier at the issuing core. -/
  | copyBlockAck (c : Nat)
  /-- QUEUE_ENTRY_LANDING (R247). An entry lands in free room of an inbound queue, or waits in the router. -/
  | queueEntryLanding (c : Nat)
  /-- QUEUE_CREDIT (R248). A returned credit raises a channel's free-entry count, or is forwarded or discarded. -/
  | queueCredit (c : Nat)
  /-- TILE_ROW_STEP (R242). A running tile instruction checks, charges and requests its next 64-byte row step. -/
  | tileRowStep (c : Nat) (t : Fin 4)
  /-- TILE_ROW_WRITTEN (R242). A row step's data are written and the progress registers advance. -/
  | tileRowWritten (c : Nat) (t : Fin 4)
  /-- BANK_ACT_PERFORM (R241). A bank performs a held explicit ACT or PRE when the tile hold ends. -/
  | bankActPerform (c : Nat) (z : Fin 32)
  /-- MTX_K_STEP (R203). A granted K-step charges, reads operands, pops or passes B rows and updates an accumulator. -/
  | mtxKStep (c : Nat)
  /-- MTX_MZERO_PERFORM (R207). The MTX writes IDENT into an accumulator. -/
  | mtxMzeroPerform (c : Nat)
  /-- MTX_MST_PERFORM (R208). The MTX writes an accumulator's 8 rows to the till under R69. -/
  | mtxMstPerform (c : Nat)
  /-- MTX_MLDC_PERFORM (R209). The MTX loads the four accumulators from the till. -/
  | mtxMldcPerform (c : Nat)
  /-- MTX_MCFG_PERFORM (R197). The MTX makes a configuration block current in command order. -/
  | mtxMcfgPerform (c : Nat)
  /-- MTX_MPROG_PERFORM (R199). The MTX makes a microprogram current in command order. -/
  | mtxMprogPerform (c : Nat)
  /-- BALLAST_K_STEP (R401). In an idle MTX cycle below the floor, the plate issues a ballast K-step. -/
  | ballastKStep (o : Nat)
  /-- UNIT_COMPLETION (R309). The root counts a unit's exit, completing its launch when DONE reaches the unit count. -/
  | unitCompletion
  /-- PREDECESSOR_RESOLUTION (R314). The root makes a launch eligible or failed once its last predecessor has ended. -/
  | predecessorResolution (l : Nat)
  /-- LAUNCH_ACCEPT (R312). The root checks a launch descriptor, copies image and data, and accepts or refuses. -/
  | launchAccept
  /-- CANCEL_PERFORM (R331). The root marks a scope cancelling and stops its launches and units. -/
  | cancelPerform
  /-- LSTAT_PERFORM (R217). The root answers an LSTAT with the launch state. -/
  | lstatPerform
  /-- TREG_PERFORM (R218). The root enters a tensor in the tensor-lifetime table or refuses it. -/
  | tregPerform
  /-- PURSE_PERFORM (R220). The distributor samples the selected quantity. -/
  | pursePerform
  /-- SUBS_PERFORM (R397). The distributor enters a subscription and writes its reference sample. -/
  | subsPerform
  /-- UNSUBS_PERFORM (R222). The distributor removes a subscription. -/
  | unsubsPerform
  /-- CRINIT_PERFORM (R224). The distributor creates a reduction or reports it exists. -/
  | crinitPerform
  /-- CRADD_COUNT (R225). The collective engine counts a contribution, waiting it to the next round if needed. -/
  | craddCount
  /-- UNIT_PLACE (R316). The distributor places a unit on a core that meets R316, with lease and grants. -/
  | unitPlace (l : Nat) (c : Nat) (t : Fin 4)
  /-- IMAGE_LOAD (R317). A plate slice's image multicast completes on a core, letting PLACING become RUN. -/
  | imageLoad (c : Nat)
  /-- GRANT_END (R298). A grant ends once its borrower holds no unit and its accesses are performed. -/
  | grantEnd (c : Nat)
  /-- PREEMPT_SAVE (R326). A unit is drained and its image and lease saved to the save set. -/
  | preemptSave (c : Nat) (t : Fin 4)
  /-- UNIT_RESTORE (R329). A saved unit is restored on a core that meets R316. -/
  | unitRestore (l : Nat) (u : Nat) (c : Nat) (t : Fin 4)
  /-- TENSOR_FIRST_USE (R368). At first-use placement the distributor maps or rehomes a tensor's pages. -/
  | tensorFirstUse (l : Nat)
  /-- TENSOR_LAST_USE (R368). When the last-use launch ends the distributor unmaps the tensor's pages. -/
  | tensorLastUse (l : Nat)
  /-- NOTIFY_WRITE (R397). A subscription's notify word is stored at its home, or the subscription is dropped. -/
  | notifyWrite
  /-- PRIORITY_AGING (R315). Every 10 ms a waiting launch's effective priority falls by one. -/
  | priorityAging (l : Nat)
  /-- MINT_TICK (R388). Every 700 cycles the mint credits purses, passes surpluses and clamps. -/
  | mintTick
  /-- HEAT_METER_WINDOW (R393). Every 10 ticks the heat meter restarts and releases held slots. -/
  | heatMeterWindow
  /-- BALLAST_INTERVAL (R404). At each interval end the plate sets its floor and the overspend is withheld. -/
  | ballastInterval (p : Fin 256) (current : Nat) (power : Nat)
  /-- BALLAST_STOP (R403). After 200 intervals of overspend ballast stops and a SLOPE event is raised. -/
  | ballastStop
  /-- CADENCE_PULSE (R453). In an armed tick every core latches its sample and the cadence record goes to the hubs. -/
  | cadencePulse
  /-- REFRESH (R244). A bank starts its scheduled 36-cycle refresh. -/
  | refresh (c : Nat) (z : Fin 32)
  /-- REFRESH_END (R244). A bank ends refresh and reopens the row that was open. -/
  | refreshEnd (c : Nat) (z : Fin 32)
  /-- SENSOR_CONVERSION (R437). A thermal sensor completes a reading that comes into force. -/
  | sensorConversion (layer : Fin 8) (row col : Fin 64) (reading : BitVec 16)
  /-- SENSOR_FAIL (R437). A sensor fails its self-check and reads 125 C until boot. -/
  | sensorFail (layer : Fin 8) (row col : Fin 64)
  /-- SCRUB_VAULT_STEP (R427). Every 10 ms handler 12 scrubs one vault row of a core. -/
  | scrubVaultStep (c : Nat)
  /-- SCRUB_TILL_LINE (R427). Each tick one till line is scrubbed. -/
  | scrubTillLine (c : Nat)
  /-- SCRUB_PSTORE_LINE (R427). Each tick one program store line is scrubbed. -/
  | scrubPstoreLine (c : Nat)
  /-- ROW_REPAIR (R431). A waiting row is repaired into a spare row when its bank is idle. -/
  | rowRepair (c : Nat) (z : Fin 32)
  /-- FRAME_WITHDRAW (R432). A row with no spare left withdraws its frame after moving its page. -/
  | frameWithdraw (c : Nat) (z : Fin 32)
  /-- LANE_STEER (R433). A faulty lane group is steered onto a spare. -/
  | laneSteer (c : Nat) (z : Fin 32) (g : Fin 9)
  /-- FRAME_EVACUATE (R435). Housekeeping moves one mapped frame off a retiring bank. -/
  | frameEvacuate (c : Nat) (z : Fin 32)
  /-- SPOKE_RETIRED (R436). A spoke whose frames are all empty is retired. -/
  | spokeRetired (c : Nat) (z : Fin 32)
  /-- PSTORE_LINE_REWRITE (R429). An uncorrectable program line is rewritten from the backup image before the fetch repeats. -/
  | pstoreLineRewrite (c : Nat) (line : Fin 512)
  /-- CORE_LOSS (R439). A core is lost in life; its units are cancelled and its number passes to a spare. -/
  | coreLoss (c : Nat) (planned : Bool)
  /-- IN_FIELD_TEST (R439). Handler 12 runs an in-field test request from the plate controller. -/
  | inFieldTest (c : Nat) (logicOk : Bool)
  /-- ROUTER_FAIL (R422). A router fails in life, stopping the mesh and reporting CORELOSS. -/
  | routerFail (x y : Fin 512)
  /-- CORR_REPORT (R442). Every 100 ms a core sends a CORR record of its corrections. -/
  | corrReport (c : Nat)
  /-- POWER_UP (R482). Power enters, vault rails settle and core rails rise, starting the boot. -/
  | powerUp
  /-- POWER_DOWN (R482). Power is removed with core rails falling first. -/
  | powerDown
  /-- BOOT_FIRMWARE (R465). Each hub ROM verifies the signed firmware and boot image. -/
  | bootFirmware
  /-- BOOT_PLATES (R443). Plate controllers take their firmware from a hub. -/
  | bootPlates
  /-- BOOT_COLUMNS (R420). Plate controllers test and harvest every column and install system code. -/
  | bootColumns (failed : List Nat) (mtxBad : List Nat)
  /-- DISCOVERY_WAVE (R446). In one lock-step wave cores at HOP w send discovery flits and new cores join the tree. -/
  | discoveryWave (p : Fin 256)
  /-- PLATE_BOOT (R448). The plate controller loads the boot kernel and places its unit at the seed. -/
  | plateBoot (p : Fin 256)
  /-- BOOT_IMAGE_INSTALL (R448). After the boot unit exits the staged image is code-loaded into every core. -/
  | bootImageInstall (p : Fin 256)
  /-- BOOT_TIMEOUT (R450). A boot unit not exited after 50 ms is stopped and discovery reruns. -/
  | bootTimeout (p : Fin 256)
  /-- BOOT_NUMBERING (R443). Logical numbers are assigned from plate bases and routers switch addressing. -/
  | bootNumbering
  /-- BOOT_RIM (R478). Rim links train and modules are numbered. -/
  | bootRim (far : List (Nat × Nat))
  /-- BOOT_RUNTIME (R443). The device runtime builds the capacity map and ports accept commands. -/
  | bootRuntime
  /-- CQTAIL (R335). A hub's write of CQTAIL makes new command entries available to the device. -/
  | cqtail (h : Hub) (v : BitVec 64)
  /-- RQHEAD (R337). A hub's write of RQHEAD frees reply room so command reading resumes. -/
  | rqhead (h : Hub) (v : BitVec 64)
  /-- SEMACQ (R336). Acquires a hardware semaphore when it is free. -/
  | semacq (h : Hub) (v : BitVec 64)
  /-- SEMREL (R336). Releases a semaphore held by this port, else sets SEMERR. -/
  | semrel (h : Hub) (v : BitVec 64)
  /-- SEMFREL (R336). Releases a semaphore whoever holds it. -/
  | semfrel (h : Hub) (v : BitVec 64)
  /-- HUB_LAUNCH (R312). Hub command that submits a launch descriptor. -/
  | hubLaunch (h : Hub)
  /-- HUB_CANCEL (R331). Hub command that cancels a launch, graph, phase or job. -/
  | hubCancel (h : Hub)
  /-- HUB_LSTAT (R338). Hub command that returns a launch's state. -/
  | hubLstat (h : Hub)
  /-- COUNTER (R308). Hub command that returns a completion counter. -/
  | counter (h : Hub)
  /-- PREEMPT (R324). Hub command that pre-empts a launch's units. -/
  | preempt (h : Hub)
  /-- JOBOPEN (R307). Hub command that opens a job with a priority floor. -/
  | jobopen (h : Hub)
  /-- JOBCLOSE (R338). Hub command that cancels a job and releases its resources. -/
  | jobclose (h : Hub)
  /-- DMAREAD (R472). Hub command that copies encrypted pages to hub DRAM with GCM tags. -/
  | dmaread (h : Hub)
  /-- DMAWRITE (R472). Hub command that decrypts and writes pages from hub DRAM. -/
  | dmawrite (h : Hub)
  /-- CAPSET (R473). Hub command that sets the power cap from the next tick. -/
  | capset (h : Hub)
  /-- HELLO (R475). Management message returning version, serial, revisions and module number. -/
  | hello (h : Hub)
  /-- MAPREAD (R423). Management message reading the capacity map. -/
  | mapread (h : Hub) (off len : Nat)
  /-- EVENTS (R442). Management message streaming event records and handler faults. -/
  | events (h : Hub)
  /-- CADENCE (R453). Management message arming the cadence pulse. -/
  | cadence (h : Hub) (period : Nat)
  /-- DBGREAD (R455). Management message reading debug module registers. -/
  | dbgread (h : Hub) (c : Nat) (off : Nat)
  /-- DBGWRITE (R455). Management message writing debug module registers without a row of their own. -/
  | dbgwrite (h : Hub) (c : Nat) (off : Nat) (v : BitVec 64)
  /-- DBG_HALT (R456). Setting or clearing a DBGCTL HALT bit stops or resumes a slot. -/
  | dbgHalt (c : Nat) (t : Fin 4) (on : Bool)
  /-- DBG_SSTEP (R456). A DBGCTL SSTEP bit makes a slot issue one step and stop. -/
  | dbgSstep (c : Nat) (t : Fin 4)
  /-- DBG_TSTOP (R455). DBGCTL TSTOP stops the teller after its current activation. -/
  | dbgTstop (c : Nat) (on : Bool)
  /-- DBGSTAT_CLEAR (R455). Writing ones to a slot's DBGSTAT reason clears it and resumes the slot. -/
  | dbgstatClear (c : Nat) (v : BitVec 64)
  /-- DBG_IMAGE_WRITE (R455). A write to a stopped slot's image area takes effect on resume. -/
  | dbgImageWrite (c : Nat) (off : Nat) (v : BitVec 64)
  /-- RECORD (R460). Management message setting recording and the full-log switch of a job. -/
  | record (h : Hub) (job : Nat) (on : Bool) (stall : Bool)
  /-- LOGDRAIN (R461). Management message reading log pages and advancing read offsets. -/
  | logdrain (h : Hub) (c : Nat) (newRead : Nat)
  /-- CHECKPOINT (R463). Management message writing a quiescent job's manifest to storage. -/
  | checkpoint (h : Hub) (job : Nat)
  /-- RESTART (R464). Management message reopening a checkpointed job. -/
  | restart (h : Hub) (manifest : Nat)
  /-- ATTEST (R466). Management message returning a signed attestation report. -/
  | attest (h : Hub) (nonce : BitVec 256) (job : Nat)
  /-- KEYLOAD (R467). Management message loading an AES-256 key into a slot. -/
  | keyload (h : Hub) (k : Fin 64) (key : BitVec 256)
  /-- KEYGRANT (R468). Management message granting a key slot to a job. -/
  | keygrant (h : Hub) (k : Fin 64) (job : Nat)
  /-- KEYCLEAR (R468). Management message emptying a key slot. -/
  | keyclear (h : Hub) (k : Fin 64)
  /-- RIMCONF (R478). Management message setting the module number and route table. -/
  | rimconf (h : Hub) (modno : BitVec 8) (routes : List (Nat × Nat)) (linkKey : Option (Fin 64))
  /-- FWUPDATE (R465). Management message staging a signed image for the next boot. -/
  | fwupdate (h : Hub) (image : List (BitVec 8))
  /-- RESET (R475). Management message booting the module again. -/
  | reset (h : Hub)
  /-- COOLANT (R475). Management message reading inlet, outlet and flow. -/
  | coolant (h : Hub)
  /-- COOLANT_FAULT (R483). Low flow or hot inlet sets the cap to 8 kW from the next tick. -/
  | coolantFault (flow inlet : Nat)
  /-- COOLANT_RECOVER (R483). After 1 s within limits the cap returns to the last CAPSET value. -/
  | coolantRecover (flow inlet : Nat)
  /-- RIM_FRAME (R477). A rim frame is received, acknowledged in order or discarded until resend. -/
  | rimFrame (l : Fin 16) (frame : List (BitVec 8))
  /-- RIM_LINK_DOWN (R480). A link not retrained within 10 ms is taken down and its messages fault. -/
  | rimLinkDown (l : Fin 16)
  /-- PCIE_LINK_TRAIN (R474). A hub's PCIe port trains in FLIT mode at 64 GT/s or refuses. -/
  | pcieLinkTrain (h : Hub) (flitMode : Bool) (rate : Nat)
  /-- HUB_RESET (R336). A hub resets; its semaphores stay held, its PCIe role is fixed again and the peer-present state changes. -/
  | hubReset (h : Hub) (rootPort : Bool)
  /-- RIM_LINK_RETRAIN (R480). A rim link that loses training retrains and resumes carrying frames within 10 ms. -/
  | rimLinkRetrain (l : Fin 16)
  /-- PAGE_ENTRY_REBUILD (R440). The rebuild of a lost clearing core's page entries on its spare core ends, and the requests held in the spare's router are served. -/
  | pageEntryRebuild (c : Nat)
  /-- COWBREAK_COPY_END (R364). The copy of a COPY answer ends; the page is mapped to its new frame, COW is cleared where the count is 1, and the held writes and requests proceed. -/
  | cowbreakCopyEnd (c : Nat)
deriving DecidableEq, Repr

end Sys2Proof
end

