-- ==== Sys2Proof/WellFormed.lean ====
section
/-!
DEFINITION. The restrictions on field values: R85 step 4, from the option columns of Tables 3.7 to 3.12 and R81 to R83.

The checks that depend on the machine's state (an RPT's frame, the registers a teller has) are not here: they are
made at issue.
-/
namespace Sys2Proof

/-- R81 and Table 5.2: qs 0b00, 0b01 and 0b10 are legal; the field that names a queue has bits [4:3] zero. -/
def qsBoth (q : BitVec 2) (a b : BitVec 5) : Bool :=
  match q.toNat with
  | 0 => true
  | 1 => a.toNat < 8
  | 2 => b.toNat < 8
  | _ => false

/-- R81 and Table 5.2: only qs 0b00 and 0b01 are legal. -/
def qsA (q : BitVec 2) (a : BitVec 5) : Bool :=
  match q.toNat with
  | 0 => true
  | 1 => a.toNat < 8
  | _ => false

/-- A core index of the module: 512 x 512 cores (Table 0.2). -/
def coreOk (c : Nat) : Bool := c < 262144

/-- The field restrictions of an instruction (R85 step 4), and the range of a machine step's core, bank or octet. -/
def Instr.wf : Instr → Bool
  | .add _ _ _ => true
  | .sub _ _ _ => true
  | .and _ _ _ => true
  | .or _ _ _ => true
  | .xor _ _ _ => true
  | .andn _ _ _ => true
  | .sll _ _ _ => true
  | .srl _ _ _ => true
  | .sra _ _ _ => true
  | .rotr _ _ _ => true
  | .slt _ _ _ => true
  | .sltu _ _ _ => true
  | .min _ _ _ => true
  | .max _ _ _ => true
  | .minu _ _ _ => true
  | .maxu _ _ _ => true
  | .mul _ _ _ => true
  | .mulh _ _ _ => true
  | .mulhu _ _ _ => true
  | .div _ _ _ => true
  | .divu _ _ _ => true
  | .rem _ _ _ => true
  | .remu _ _ _ => true
  | .clz _ _ => true
  | .ctz _ _ => true
  | .popc _ _ => true
  | .bswap _ _ => true
  | .sel _ _ _ => true
  | .shadd _ _ _ _ => true
  | .extu _ _ _ => true
  | .exts _ _ _ => true
  | .insf _ _ _ => true
  | .addi _ _ _ => true
  | .andi _ _ _ => true
  | .ori _ _ _ => true
  | .xori _ _ _ => true
  | .slti _ _ _ => true
  | .sltiu _ _ _ => true
  | .slli _ _ _ => true
  | .srli _ _ _ => true
  | .srai _ _ _ => true
  | .rotri _ _ _ => true
  | .lih _ _ _ => true
  | .adpc _ _ => true
  | .fadd _ _ _ _ => true
  | .fsub _ _ _ _ => true
  | .fmul _ _ _ _ => true
  | .fma _ _ _ _ => true
  | .fdiv _ _ _ _ => true
  | .fsqrt _ _ _ => true
  | .fmin _ _ _ _ => true
  | .fmax _ _ _ _ => true
  | .fcmp _ _ _ _ c => c.toNat ≤ 4
  | .fcvt _ _ p s => s ≠ p
  | .fclass _ _ _ => true
  | .ftoi _ _ _ _ _ => true
  | .itof _ _ _ _ _ => true
  | .ld _ _ s _ => s.toNat ≤ 6
  | .st _ _ s _ => s.toNat == 0 || s.toNat == 2 || s.toNat == 4 || s.toNat == 6
  | .amoAdd _ _ _ _ _ => true
  | .amoAnd _ _ _ _ _ => true
  | .amoOr _ _ _ _ _ => true
  | .amoXor _ _ _ _ _ => true
  | .amoMin _ _ _ _ _ => true
  | .amoMax _ _ _ _ _ => true
  | .amoMinu _ _ _ _ _ => true
  | .amoMaxu _ _ _ _ _ => true
  | .amoSwap _ _ _ _ _ => true
  | .amoCas _ _ _ _ _ => true
  | .beq _ _ _ => true
  | .bne _ _ _ => true
  | .blt _ _ _ => true
  | .bge _ _ _ => true
  | .bltu _ _ _ => true
  | .bgeu _ _ _ => true
  | .bbs _ _ _ => true
  | .bbc _ _ _ => true
  | .jal _ _ => true
  | .jalr _ _ _ => true
  | .rpt c _ _ _ _ => c ≠ 0
  | .nest _ => true
  | .next _ => true
  | .nestq _ _ => true
  | .trap _ => true
  | .eret => true
  | .brk _ => true
  | .yield => true
  | .exit => true
  | .crr _ _ => true
  | .crw _ _ => true
  | .pmap _ _ _ => true
  | .fdset _ _ => true
  | .mcfg _ => true
  | .mprog _ => true
  | .vadd _ a b _ q _ => qsBoth q a b
  | .vsub _ a b _ q _ => qsBoth q a b
  | .vmul _ a b _ q _ => qsBoth q a b
  | .vmulh _ a b _ q _ => qsBoth q a b
  | .vmin _ a b _ q _ => qsBoth q a b
  | .vmax _ a b _ q _ => qsBoth q a b
  | .vminu _ a b _ q _ => qsBoth q a b
  | .vmaxu _ a b _ q _ => qsBoth q a b
  | .vand _ a b _ q _ => qsBoth q a b
  | .vor _ a b _ q _ => qsBoth q a b
  | .vxor _ a b _ q _ => qsBoth q a b
  | .vsll _ a b _ q _ => qsBoth q a b
  | .vsrl _ a b _ q _ => qsBoth q a b
  | .vsra _ a b _ q _ => qsBoth q a b
  | .vabsd _ a b _ q _ => qsBoth q a b
  | .vadds _ a b _ q _ => qsBoth q a b
  | .vfadd _ a b _ q _ => qsBoth q a b
  | .vfsub _ a b _ q _ => qsBoth q a b
  | .vfmul _ a b _ q _ => qsBoth q a b
  | .vfma _ a b _ q _ => qsBoth q a b
  | .vfms _ a b _ q _ => qsBoth q a b
  | .vfdiv _ a b _ q _ => qsBoth q a b
  | .vfsqrt _ a _ q _ => qsA q a
  | .vfmin _ a b _ q _ => qsBoth q a b
  | .vfmax _ a b _ q _ => qsBoth q a b
  | .vfabs _ a _ q _ => qsA q a
  | .vfneg _ a _ q _ => qsA q a
  | .vcvtf _ a s _ q e => qsA q a && s ≠ e
  | .vftoi _ a _ _ _ q _ => qsA q a
  | .vitof _ a _ _ _ q _ => qsA q a
  | .vnarrow _ a _ _ q _ => qsA q a
  | .vwiden _ a _ _ q _ => qsA q a
  | .vscale _ _ _ _ => true
  | .vqblk _ _ _ _ => true
  | .vbcast _ _ _ _ => true
  | .vext _ a _ q _ => qsA q a
  | .vins _ _ _ _ => true
  | .vperm _ a b _ q _ => qsBoth q a b
  | .vslideu _ a _ _ q _ => qsA q a
  | .vslided _ a _ _ q _ => qsA q a
  | .vzip _ a b _ q _ => qsBoth q a b
  | .vunzip _ a b _ q _ => qsBoth q a b
  | .vmerge _ a b _ q _ => qsBoth q a b
  | .mpopc _ _ _ => true
  | .mfirst _ _ _ => true
  | .mset _ _ => true
  | .vrsum _ a _ q _ => qsA q a
  | .vrmax _ a _ q _ => qsA q a
  | .vrmin _ a _ q _ => qsA q a
  | .vrsumi _ a _ q _ => qsA q a
  | .vscan _ a _ q _ => qsA q a
  | .vexp2 _ a _ q _ => qsA q a
  | .vlog2 _ a _ q _ => qsA q a
  | .vexp _ a _ q _ => qsA q a
  | .vlog _ a _ q _ => qsA q a
  | .vsin _ a _ q _ => qsA q a
  | .vcos _ a _ q _ => qsA q a
  | .vtanh _ a _ q _ => qsA q a
  | .vsigm _ a _ q _ => qsA q a
  | .verf _ a _ q _ => qsA q a
  | .vrcp _ a _ q _ => qsA q a
  | .vrsqrt _ a _ q _ => qsA q a
  | .vcmpeq _ a b _ q _ => qsBoth q a b
  | .vcmpne _ a b _ q _ => qsBoth q a b
  | .vcmplt _ a b _ q _ => qsBoth q a b
  | .vcmple _ a b _ q _ => qsBoth q a b
  | .vcmpltu _ a b _ q _ => qsBoth q a b
  | .vcmpleu _ a b _ q _ => qsBoth q a b
  | .vfcmpeq _ a b _ q _ => qsBoth q a b
  | .vfcmplt _ a b _ q _ => qsBoth q a b
  | .vfcmple _ a b _ q _ => qsBoth q a b
  | .vfcmpun _ a b _ q _ => qsBoth q a b
  | .mand _ _ _ => true
  | .mor _ _ _ => true
  | .mxor _ _ _ => true
  | .mnot _ _ => true
  | .ldv _ _ _ _ => true
  | .stv _ _ _ _ => true
  | .ldvs _ _ _ _ _ => true
  | .stvs _ _ _ _ _ => true
  | .ldvx _ _ _ _ _ => true
  | .stvx _ _ _ _ _ => true
  | .ldvb _ _ _ => true
  | .vxch _ _ _ => true
  | .lwin _ => true
  | .act _ => true
  | .pre _ => true
  | .tld _ _ _ => true
  | .tldl _ _ _ => true
  | .tst _ _ _ => true
  | .tcpy _ _ _ c n => c == 1 || n == 0
  | .tcpym _ _ _ c n => c == 1 || n == 0
  | .tfpr _ _ _ => true
  | .rld _ _ o _ => o.toNat ≤ 1
  | .rstr _ _ o _ => o == 0 || o == 2
  | .vrld _ _ o => o.toNat ≤ 1
  | .vrst _ _ o => o == 0 || o == 2
  | .rfaAdd _ _ _ _ _ => true
  | .rfaAnd _ _ _ _ _ => true
  | .rfaOr _ _ _ _ _ => true
  | .rfaXor _ _ _ _ _ => true
  | .rfaMin _ _ _ _ _ => true
  | .rfaMax _ _ _ _ _ => true
  | .rfaMinu _ _ _ _ _ => true
  | .rfaMaxu _ _ _ _ _ => true
  | .rfaSwap _ _ _ _ _ => true
  | .rcas _ _ _ _ _ => true
  | .lrw _ _ _ => true
  | .sch _ _ _ => true
  | .send _ _ _ _ => true
  | .sendm _ _ _ _ => true
  | .qpush _ _ => true
  | .qpop _ _ => true
  | .qpeek _ _ => true
  | .qbind _ _ _ => true
  | .mig _ => true
  | .migo => true
  | .home _ _ => true
  | .fence k s => s.toNat ≤ 4 && k ≠ 0
  | .binit _ _ _ _ => true
  | .arrive _ _ => true
  | .arrdrop _ => true
  | .bwait _ => true
  | .btest _ _ => true
  | .abatch => true
  | .await _ => true
  | .mma _ a b _ s p t m => s.toNat ≤ 2 && (s ≠ 1 || b.toNat < 8) && (p == 0 || s == 1) && m.toNat ≤ 1 && (t == 0 || (m == 0 && a.toNat % 2 == 0 && b.toNat % 2 == 0))
  | .mzero _ => true
  | .mst _ _ => true
  | .mldc _ => true
  | .sptag _ _ => true
  | .spapp _ _ _ => true
  | .spcom _ _ => true
  | .sprej _ _ => true
  | .spretHole _ _ _ => true
  | .spretClose _ _ _ => true
  | .spqry _ _ _ => true
  | .sploc _ _ _ => true
  | .splen _ _ => true
  | .launch _ _ => true
  | .lwait _ => true
  | .lcancel _ l => l.toNat ≤ 3
  | .lstat _ _ => true
  | .treg _ _ => true
  | .purse _ _ => true
  | .subs _ _ => true
  | .unsubs _ => true
  | .crinit _ _ => true
  | .cradd _ _ => true
  | .crwait _ => true
  | .registerWrite _ _ _ => true
  | .messageLanding c => coreOk c
  | .handlerActivation c => coreOk c
  | .remoteLoadServe c => coreOk c
  | .remoteStoreServe c => coreOk c
  | .atomicServe c => coreOk c
  | .nestClaim c => coreOk c
  | .lrwServe c => coreOk c
  | .schServe c => coreOk c
  | .tileServe c => coreOk c
  | .fingerprintServe c => coreOk c
  | .spanEntryForward c => coreOk c
  | .spanHomePerform c => coreOk c
  | .spanOpen c => coreOk c
  | .spanCountUpdate c => coreOk c
  | .spanRetire c => coreOk c
  | .poolmake c => coreOk c
  | .poolsize c => coreOk c
  | .poolfree c => coreOk c
  | .pmapPerform c => coreOk c
  | .mapPage c => coreOk c
  | .unmapPage c => coreOk c
  | .rehome c => coreOk c
  | .rehomeCopy c => coreOk c
  | .rehomeStub c => coreOk c
  | .rehomeFree c => coreOk c
  | .cowbreak c => coreOk c
  | .cowBreakDecide c => coreOk c
  | .requestForward c => coreOk c
  | .shootdown c => coreOk c
  | .shootdownAck c => coreOk c
  | .remoteArriveServe c => coreOk c
  | .barrierCarriedPhase c _ => coreOk c
  | .phasePush c => coreOk c
  | .codeLoad c => coreOk c
  | .migrationDrain c _ => coreOk c
  | .migrationReserve c => coreOk c
  | .migrationTransfer c => coreOk c
  | .migrationStub c _ => coreOk c
  | .migrationResume c _ => coreOk c
  | .parkedRestore c _ => coreOk c
  | .remoteReply c => coreOk c
  | .writeAck c => coreOk c
  | .claimReply c => coreOk c
  | .lrwGrant c => coreOk c
  | .deferredReply c => coreOk c
  | .copyBlockLanding c => coreOk c
  | .copyBlockAck c => coreOk c
  | .queueEntryLanding c => coreOk c
  | .queueCredit c => coreOk c
  | .tileRowStep c _ => coreOk c
  | .tileRowWritten c _ => coreOk c
  | .bankActPerform c _ => coreOk c
  | .mtxKStep c => coreOk c
  | .mtxMzeroPerform c => coreOk c
  | .mtxMstPerform c => coreOk c
  | .mtxMldcPerform c => coreOk c
  | .mtxMcfgPerform c => coreOk c
  | .mtxMprogPerform c => coreOk c
  | .ballastKStep o => o < 32768
  | .unitCompletion => true
  | .predecessorResolution _ => true
  | .launchAccept => true
  | .cancelPerform => true
  | .lstatPerform => true
  | .tregPerform => true
  | .pursePerform => true
  | .subsPerform => true
  | .unsubsPerform => true
  | .crinitPerform => true
  | .craddCount => true
  | .unitPlace _ c _ => coreOk c
  | .imageLoad c => coreOk c
  | .grantEnd c => coreOk c
  | .preemptSave c _ => coreOk c
  | .unitRestore _ _ c _ => coreOk c
  | .tensorFirstUse _ => true
  | .tensorLastUse _ => true
  | .notifyWrite => true
  | .priorityAging _ => true
  | .mintTick => true
  | .heatMeterWindow => true
  | .ballastInterval _ _ _ => true
  | .ballastStop => true
  | .cadencePulse => true
  | .refresh c _ => coreOk c
  | .refreshEnd c _ => coreOk c
  | .sensorConversion _ _ _ _ => true
  | .sensorFail _ _ _ => true
  | .scrubVaultStep c => coreOk c
  | .scrubTillLine c => coreOk c
  | .scrubPstoreLine c => coreOk c
  | .rowRepair c _ => coreOk c
  | .frameWithdraw c _ => coreOk c
  | .laneSteer c _ _ => coreOk c
  | .frameEvacuate c _ => coreOk c
  | .spokeRetired c _ => coreOk c
  | .pstoreLineRewrite c _ => coreOk c
  | .coreLoss c _ => coreOk c
  | .inFieldTest c _ => coreOk c
  | .routerFail _ _ => true
  | .corrReport c => coreOk c
  | .powerUp => true
  | .powerDown => true
  | .bootFirmware => true
  | .bootPlates => true
  | .bootColumns _ _ => true
  | .discoveryWave _ => true
  | .plateBoot _ => true
  | .bootImageInstall _ => true
  | .bootTimeout _ => true
  | .bootNumbering => true
  | .bootRim _ => true
  | .bootRuntime => true
  | .cqtail _ _ => true
  | .rqhead _ _ => true
  | .semacq _ _ => true
  | .semrel _ _ => true
  | .semfrel _ _ => true
  | .hubLaunch _ => true
  | .hubCancel _ => true
  | .hubLstat _ => true
  | .counter _ => true
  | .preempt _ => true
  | .jobopen _ => true
  | .jobclose _ => true
  | .dmaread _ => true
  | .dmawrite _ => true
  | .capset _ => true
  | .hello _ => true
  | .mapread _ _ _ => true
  | .events _ => true
  | .cadence _ _ => true
  | .dbgread _ c _ => coreOk c
  | .dbgwrite _ c _ _ => coreOk c
  | .dbgHalt c _ _ => coreOk c
  | .dbgSstep c _ => coreOk c
  | .dbgTstop c _ => coreOk c
  | .dbgstatClear c _ => coreOk c
  | .dbgImageWrite c _ _ => coreOk c
  | .record _ _ _ _ => true
  | .logdrain _ c _ => coreOk c
  | .checkpoint _ _ => true
  | .restart _ _ => true
  | .attest _ _ _ => true
  | .keyload _ _ _ => true
  | .keygrant _ _ _ => true
  | .keyclear _ _ => true
  | .rimconf _ _ _ _ => true
  | .fwupdate _ _ => true
  | .reset _ => true
  | .coolant _ => true
  | .coolantFault _ _ => true
  | .coolantRecover _ _ => true
  | .rimFrame _ _ => true
  | .rimLinkDown _ => true
  | .pcieLinkTrain _ _ _ => true
  | .illegalWord _ => true
  | .hubReset _ _ => true
  | .rimLinkRetrain _ => true
  | .pageEntryRebuild c => coreOk c
  | .cowbreakCopyEnd c => coreOk c

end Sys2Proof
end

