-- ==== Sys2Proof/Decode.lean ====
section
/-!
DEFINITION. The decoder and the encoder of the Griex instruction word (03_encoding.md).

`decodeWord` makes the first four checks of R85, in their order, and names the one that fails: the major opcode, the
function code, the reserved fields, and the restrictions on field values (`Instr.wf`).  The fifth check, that the issuing
context has the registers the word names, belongs to the machine.  The encoder follows, written from Tables 3.1 to 3.12.
-/
namespace Sys2Proof

/-- Why a word is not an instruction: the step of R85 that it fails. -/
inductive DecodeError where
  /-- Fewer than four bytes were given. -/
  | truncated
  /-- Step 1: the major opcode is not assigned (Table 3.6). -/
  | illegalMajor
  /-- Step 2: the function code, sub-op or condition is not assigned. -/
  | illegalFunction
  /-- Step 3: a reserved field is not zero. -/
  | reservedField
  /-- Step 4: a field value breaks the restrictions of its family's table or of R81 to R83. -/
  | illegalField
deriving DecidableEq, Repr

/-- The field of `len` bits of a word that starts at bit `lo` (R11). -/
abbrev bits (w : InstrWord) (lo len : Nat) : BitVec len := w.extractLsb' lo len

/-- R85 step 3 for one row: the instruction when its reserved fields are zero. -/
def whenZero (z : Bool) (i : Instr) : Except DecodeError Instr :=
  if z then .ok i else .error .reservedField

/-- Major 0x01, family ALU. -/
def decodeAlu (w : InstrWord) : Except DecodeError Instr :=
  match (bits w 0 6).toNat with
  | 0x0 => whenZero (bits w 6 5 == 0) (.add (bits w 21 5) (bits w 16 5) (bits w 11 5))
  | 0x1 => whenZero (bits w 6 5 == 0) (.sub (bits w 21 5) (bits w 16 5) (bits w 11 5))
  | 0x2 => whenZero (bits w 6 5 == 0) (.and (bits w 21 5) (bits w 16 5) (bits w 11 5))
  | 0x3 => whenZero (bits w 6 5 == 0) (.or (bits w 21 5) (bits w 16 5) (bits w 11 5))
  | 0x4 => whenZero (bits w 6 5 == 0) (.xor (bits w 21 5) (bits w 16 5) (bits w 11 5))
  | 0x5 => whenZero (bits w 6 5 == 0) (.andn (bits w 21 5) (bits w 16 5) (bits w 11 5))
  | 0x6 => whenZero (bits w 6 5 == 0) (.sll (bits w 21 5) (bits w 16 5) (bits w 11 5))
  | 0x7 => whenZero (bits w 6 5 == 0) (.srl (bits w 21 5) (bits w 16 5) (bits w 11 5))
  | 0x8 => whenZero (bits w 6 5 == 0) (.sra (bits w 21 5) (bits w 16 5) (bits w 11 5))
  | 0x9 => whenZero (bits w 6 5 == 0) (.rotr (bits w 21 5) (bits w 16 5) (bits w 11 5))
  | 0xA => whenZero (bits w 6 5 == 0) (.slt (bits w 21 5) (bits w 16 5) (bits w 11 5))
  | 0xB => whenZero (bits w 6 5 == 0) (.sltu (bits w 21 5) (bits w 16 5) (bits w 11 5))
  | 0xC => whenZero (bits w 6 5 == 0) (.min (bits w 21 5) (bits w 16 5) (bits w 11 5))
  | 0xD => whenZero (bits w 6 5 == 0) (.max (bits w 21 5) (bits w 16 5) (bits w 11 5))
  | 0xE => whenZero (bits w 6 5 == 0) (.minu (bits w 21 5) (bits w 16 5) (bits w 11 5))
  | 0xF => whenZero (bits w 6 5 == 0) (.maxu (bits w 21 5) (bits w 16 5) (bits w 11 5))
  | 0x10 => whenZero (bits w 6 5 == 0) (.mul (bits w 21 5) (bits w 16 5) (bits w 11 5))
  | 0x11 => whenZero (bits w 6 5 == 0) (.mulh (bits w 21 5) (bits w 16 5) (bits w 11 5))
  | 0x12 => whenZero (bits w 6 5 == 0) (.mulhu (bits w 21 5) (bits w 16 5) (bits w 11 5))
  | 0x13 => whenZero (bits w 6 5 == 0) (.div (bits w 21 5) (bits w 16 5) (bits w 11 5))
  | 0x14 => whenZero (bits w 6 5 == 0) (.divu (bits w 21 5) (bits w 16 5) (bits w 11 5))
  | 0x15 => whenZero (bits w 6 5 == 0) (.rem (bits w 21 5) (bits w 16 5) (bits w 11 5))
  | 0x16 => whenZero (bits w 6 5 == 0) (.remu (bits w 21 5) (bits w 16 5) (bits w 11 5))
  | 0x17 => whenZero (bits w 6 10 == 0) (.clz (bits w 21 5) (bits w 16 5))
  | 0x18 => whenZero (bits w 6 10 == 0) (.ctz (bits w 21 5) (bits w 16 5))
  | 0x19 => whenZero (bits w 6 10 == 0) (.popc (bits w 21 5) (bits w 16 5))
  | 0x1A => whenZero (bits w 6 10 == 0) (.bswap (bits w 21 5) (bits w 16 5))
  | 0x1B => whenZero (bits w 6 5 == 0) (.sel (bits w 21 5) (bits w 16 5) (bits w 11 5))
  | 0x1C => whenZero (bits w 8 3 == 0) (.shadd (bits w 21 5) (bits w 16 5) (bits w 11 5) (bits w 6 2))
  | 0x1D => whenZero (bits w 6 5 == 0) (.extu (bits w 21 5) (bits w 16 5) (bits w 11 5))
  | 0x1E => whenZero (bits w 6 5 == 0) (.exts (bits w 21 5) (bits w 16 5) (bits w 11 5))
  | 0x1F => whenZero (bits w 6 5 == 0) (.insf (bits w 21 5) (bits w 16 5) (bits w 11 5))
  | _ => .error .illegalFunction

/-- Major 0x08, family SHI. -/
def decodeShi (w : InstrWord) : Except DecodeError Instr :=
  match (bits w 14 2).toNat with
  | 0x0 => whenZero (bits w 6 8 == 0) (.slli (bits w 21 5) (bits w 16 5) (bits w 0 6))
  | 0x1 => whenZero (bits w 6 8 == 0) (.srli (bits w 21 5) (bits w 16 5) (bits w 0 6))
  | 0x2 => whenZero (bits w 6 8 == 0) (.srai (bits w 21 5) (bits w 16 5) (bits w 0 6))
  | 0x3 => whenZero (bits w 6 8 == 0) (.rotri (bits w 21 5) (bits w 16 5) (bits w 0 6))
  | _ => .error .illegalFunction

/-- Major 0x0B, family FPU. -/
def decodeFpu (w : InstrWord) : Except DecodeError Instr :=
  match (bits w 0 6).toNat with
  | 0x0 => whenZero (bits w 6 3 == 0) (.fadd (bits w 21 5) (bits w 16 5) (bits w 11 5) (bits w 9 2))
  | 0x1 => whenZero (bits w 6 3 == 0) (.fsub (bits w 21 5) (bits w 16 5) (bits w 11 5) (bits w 9 2))
  | 0x2 => whenZero (bits w 6 3 == 0) (.fmul (bits w 21 5) (bits w 16 5) (bits w 11 5) (bits w 9 2))
  | 0x3 => whenZero (bits w 6 3 == 0) (.fma (bits w 21 5) (bits w 16 5) (bits w 11 5) (bits w 9 2))
  | 0x4 => whenZero (bits w 6 3 == 0) (.fdiv (bits w 21 5) (bits w 16 5) (bits w 11 5) (bits w 9 2))
  | 0x5 => whenZero (bits w 6 3 == 0 && bits w 11 5 == 0) (.fsqrt (bits w 21 5) (bits w 16 5) (bits w 9 2))
  | 0x6 => whenZero (bits w 6 3 == 0) (.fmin (bits w 21 5) (bits w 16 5) (bits w 11 5) (bits w 9 2))
  | 0x7 => whenZero (bits w 6 3 == 0) (.fmax (bits w 21 5) (bits w 16 5) (bits w 11 5) (bits w 9 2))
  | 0x8 => .ok (.fcmp (bits w 21 5) (bits w 16 5) (bits w 11 5) (bits w 9 2) (bits w 6 3))
  | 0x9 => whenZero (bits w 6 1 == 0 && bits w 11 5 == 0) (.fcvt (bits w 21 5) (bits w 16 5) (bits w 9 2) (bits w 7 2))
  | 0xA => whenZero (bits w 6 3 == 0 && bits w 11 5 == 0) (.fclass (bits w 21 5) (bits w 16 5) (bits w 9 2))
  | 0xB => whenZero (bits w 11 5 == 0) (.ftoi (bits w 21 5) (bits w 16 5) (bits w 9 2) (bits w 7 2) (bits w 6 1))
  | 0xC => whenZero (bits w 11 5 == 0) (.itof (bits w 21 5) (bits w 16 5) (bits w 9 2) (bits w 7 2) (bits w 6 1))
  | _ => .error .illegalFunction

/-- Major 0x0E, family AMO. -/
def decodeAmo (w : InstrWord) : Except DecodeError Instr :=
  match (bits w 0 4).toNat with
  | 0x0 => whenZero (bits w 7 4 == 0) (.amoAdd (bits w 21 5) (bits w 16 5) (bits w 11 5) (bits w 5 2) (bits w 4 1))
  | 0x1 => whenZero (bits w 7 4 == 0) (.amoAnd (bits w 21 5) (bits w 16 5) (bits w 11 5) (bits w 5 2) (bits w 4 1))
  | 0x2 => whenZero (bits w 7 4 == 0) (.amoOr (bits w 21 5) (bits w 16 5) (bits w 11 5) (bits w 5 2) (bits w 4 1))
  | 0x3 => whenZero (bits w 7 4 == 0) (.amoXor (bits w 21 5) (bits w 16 5) (bits w 11 5) (bits w 5 2) (bits w 4 1))
  | 0x4 => whenZero (bits w 7 4 == 0) (.amoMin (bits w 21 5) (bits w 16 5) (bits w 11 5) (bits w 5 2) (bits w 4 1))
  | 0x5 => whenZero (bits w 7 4 == 0) (.amoMax (bits w 21 5) (bits w 16 5) (bits w 11 5) (bits w 5 2) (bits w 4 1))
  | 0x6 => whenZero (bits w 7 4 == 0) (.amoMinu (bits w 21 5) (bits w 16 5) (bits w 11 5) (bits w 5 2) (bits w 4 1))
  | 0x7 => whenZero (bits w 7 4 == 0) (.amoMaxu (bits w 21 5) (bits w 16 5) (bits w 11 5) (bits w 5 2) (bits w 4 1))
  | 0x8 => whenZero (bits w 7 4 == 0) (.amoSwap (bits w 21 5) (bits w 16 5) (bits w 11 5) (bits w 5 2) (bits w 4 1))
  | 0x9 => whenZero (bits w 7 4 == 0) (.amoCas (bits w 21 5) (bits w 16 5) (bits w 11 5) (bits w 5 2) (bits w 4 1))
  | _ => .error .illegalFunction

/-- Major 0x0F, family BR. -/
def decodeBr (w : InstrWord) : Except DecodeError Instr :=
  match (bits w 13 3).toNat with
  | 0x0 => .ok (.beq (bits w 21 5) (bits w 16 5) (bits w 0 13))
  | 0x1 => .ok (.bne (bits w 21 5) (bits w 16 5) (bits w 0 13))
  | 0x2 => .ok (.blt (bits w 21 5) (bits w 16 5) (bits w 0 13))
  | 0x3 => .ok (.bge (bits w 21 5) (bits w 16 5) (bits w 0 13))
  | 0x4 => .ok (.bltu (bits w 21 5) (bits w 16 5) (bits w 0 13))
  | 0x5 => .ok (.bgeu (bits w 21 5) (bits w 16 5) (bits w 0 13))
  | 0x6 => .ok (.bbs (bits w 21 5) (bits w 16 5) (bits w 0 13))
  | 0x7 => .ok (.bbc (bits w 21 5) (bits w 16 5) (bits w 0 13))
  | _ => .error .illegalFunction

/-- Major 0x13, family LOOP. -/
def decodeLoop (w : InstrWord) : Except DecodeError Instr :=
  match (bits w 21 5).toNat with
  | 0x0 => whenZero (bits w 0 16 == 0) (.nest (bits w 16 5))
  | 0x1 => whenZero (bits w 0 16 == 0) (.next (bits w 16 5))
  | 0x2 => whenZero (bits w 0 11 == 0) (.nestq (bits w 16 5) (bits w 11 5))
  | _ => .error .illegalFunction

/-- Major 0x14, family SYS. -/
def decodeSys (w : InstrWord) : Except DecodeError Instr :=
  match (bits w 0 6).toNat with
  | 0x0 => whenZero (bits w 16 10 == 0) (.trap (bits w 6 10))
  | 0x1 => whenZero (bits w 6 20 == 0) (.eret)
  | 0x2 => whenZero (bits w 16 10 == 0) (.brk (bits w 6 10))
  | 0x3 => whenZero (bits w 6 20 == 0) (.yield)
  | 0x4 => whenZero (bits w 6 20 == 0) (.exit)
  | 0x5 => whenZero (bits w 16 5 == 0) (.crr (bits w 21 5) (bits w 6 10))
  | 0x6 => whenZero (bits w 21 5 == 0) (.crw (bits w 16 5) (bits w 6 10))
  | 0x7 => whenZero (bits w 6 5 == 0) (.pmap (bits w 21 5) (bits w 16 5) (bits w 11 5))
  | _ => .error .illegalFunction

/-- Major 0x15, family CFG. -/
def decodeCfg (w : InstrWord) : Except DecodeError Instr :=
  match (bits w 0 6).toNat with
  | 0x0 => whenZero (bits w 6 10 == 0 && bits w 24 2 == 0) (.fdset (bits w 21 3) (bits w 16 5))
  | 0x1 => whenZero (bits w 6 10 == 0 && bits w 21 5 == 0) (.mcfg (bits w 16 5))
  | 0x2 => whenZero (bits w 6 10 == 0 && bits w 21 5 == 0) (.mprog (bits w 16 5))
  | _ => .error .illegalFunction

/-- Major 0x16, family VALU. -/
def decodeValu (w : InstrWord) : Except DecodeError Instr :=
  match (bits w 0 4).toNat with
  | 0x0 => .ok (.vadd (bits w 21 5) (bits w 16 5) (bits w 11 5) (bits w 8 3) (bits w 6 2) (bits w 4 2))
  | 0x1 => .ok (.vsub (bits w 21 5) (bits w 16 5) (bits w 11 5) (bits w 8 3) (bits w 6 2) (bits w 4 2))
  | 0x2 => .ok (.vmul (bits w 21 5) (bits w 16 5) (bits w 11 5) (bits w 8 3) (bits w 6 2) (bits w 4 2))
  | 0x3 => .ok (.vmulh (bits w 21 5) (bits w 16 5) (bits w 11 5) (bits w 8 3) (bits w 6 2) (bits w 4 2))
  | 0x4 => .ok (.vmin (bits w 21 5) (bits w 16 5) (bits w 11 5) (bits w 8 3) (bits w 6 2) (bits w 4 2))
  | 0x5 => .ok (.vmax (bits w 21 5) (bits w 16 5) (bits w 11 5) (bits w 8 3) (bits w 6 2) (bits w 4 2))
  | 0x6 => .ok (.vminu (bits w 21 5) (bits w 16 5) (bits w 11 5) (bits w 8 3) (bits w 6 2) (bits w 4 2))
  | 0x7 => .ok (.vmaxu (bits w 21 5) (bits w 16 5) (bits w 11 5) (bits w 8 3) (bits w 6 2) (bits w 4 2))
  | 0x8 => .ok (.vand (bits w 21 5) (bits w 16 5) (bits w 11 5) (bits w 8 3) (bits w 6 2) (bits w 4 2))
  | 0x9 => .ok (.vor (bits w 21 5) (bits w 16 5) (bits w 11 5) (bits w 8 3) (bits w 6 2) (bits w 4 2))
  | 0xA => .ok (.vxor (bits w 21 5) (bits w 16 5) (bits w 11 5) (bits w 8 3) (bits w 6 2) (bits w 4 2))
  | 0xB => .ok (.vsll (bits w 21 5) (bits w 16 5) (bits w 11 5) (bits w 8 3) (bits w 6 2) (bits w 4 2))
  | 0xC => .ok (.vsrl (bits w 21 5) (bits w 16 5) (bits w 11 5) (bits w 8 3) (bits w 6 2) (bits w 4 2))
  | 0xD => .ok (.vsra (bits w 21 5) (bits w 16 5) (bits w 11 5) (bits w 8 3) (bits w 6 2) (bits w 4 2))
  | 0xE => .ok (.vabsd (bits w 21 5) (bits w 16 5) (bits w 11 5) (bits w 8 3) (bits w 6 2) (bits w 4 2))
  | 0xF => .ok (.vadds (bits w 21 5) (bits w 16 5) (bits w 11 5) (bits w 8 3) (bits w 6 2) (bits w 4 2))
  | _ => .error .illegalFunction

/-- Major 0x17, family VFPU. -/
def decodeVfpu (w : InstrWord) : Except DecodeError Instr :=
  match (bits w 0 4).toNat with
  | 0x0 => .ok (.vfadd (bits w 21 5) (bits w 16 5) (bits w 11 5) (bits w 8 3) (bits w 6 2) (bits w 4 2))
  | 0x1 => .ok (.vfsub (bits w 21 5) (bits w 16 5) (bits w 11 5) (bits w 8 3) (bits w 6 2) (bits w 4 2))
  | 0x2 => .ok (.vfmul (bits w 21 5) (bits w 16 5) (bits w 11 5) (bits w 8 3) (bits w 6 2) (bits w 4 2))
  | 0x3 => .ok (.vfma (bits w 21 5) (bits w 16 5) (bits w 11 5) (bits w 8 3) (bits w 6 2) (bits w 4 2))
  | 0x4 => .ok (.vfms (bits w 21 5) (bits w 16 5) (bits w 11 5) (bits w 8 3) (bits w 6 2) (bits w 4 2))
  | 0x5 => .ok (.vfdiv (bits w 21 5) (bits w 16 5) (bits w 11 5) (bits w 8 3) (bits w 6 2) (bits w 4 2))
  | 0x6 => whenZero (bits w 11 5 == 0) (.vfsqrt (bits w 21 5) (bits w 16 5) (bits w 8 3) (bits w 6 2) (bits w 4 2))
  | 0x7 => .ok (.vfmin (bits w 21 5) (bits w 16 5) (bits w 11 5) (bits w 8 3) (bits w 6 2) (bits w 4 2))
  | 0x8 => .ok (.vfmax (bits w 21 5) (bits w 16 5) (bits w 11 5) (bits w 8 3) (bits w 6 2) (bits w 4 2))
  | 0x9 => whenZero (bits w 11 5 == 0) (.vfabs (bits w 21 5) (bits w 16 5) (bits w 8 3) (bits w 6 2) (bits w 4 2))
  | 0xA => whenZero (bits w 11 5 == 0) (.vfneg (bits w 21 5) (bits w 16 5) (bits w 8 3) (bits w 6 2) (bits w 4 2))
  | _ => .error .illegalFunction

/-- Major 0x18, family VCVT. -/
def decodeVcvt (w : InstrWord) : Except DecodeError Instr :=
  match (bits w 0 4).toNat with
  | 0x0 => whenZero (bits w 13 3 == 0) (.vcvtf (bits w 21 5) (bits w 16 5) (bits w 11 2) (bits w 8 3) (bits w 6 2) (bits w 4 2))
  | 0x1 => whenZero (bits w 14 2 == 0) (.vftoi (bits w 21 5) (bits w 16 5) (bits w 13 1) (bits w 11 2) (bits w 8 3) (bits w 6 2) (bits w 4 2))
  | 0x2 => whenZero (bits w 14 2 == 0) (.vitof (bits w 21 5) (bits w 16 5) (bits w 13 1) (bits w 11 2) (bits w 8 3) (bits w 6 2) (bits w 4 2))
  | 0x3 => whenZero (bits w 14 2 == 0) (.vnarrow (bits w 21 5) (bits w 16 5) (bits w 11 3) (bits w 8 3) (bits w 6 2) (bits w 4 2))
  | 0x4 => whenZero (bits w 14 2 == 0) (.vwiden (bits w 21 5) (bits w 16 5) (bits w 11 3) (bits w 8 3) (bits w 6 2) (bits w 4 2))
  | 0x5 => whenZero (bits w 6 5 == 0 && bits w 14 2 == 0) (.vscale (bits w 21 5) (bits w 16 5) (bits w 11 3) (bits w 4 2))
  | 0x6 => whenZero (bits w 6 5 == 0 && bits w 14 2 == 0) (.vqblk (bits w 21 5) (bits w 16 5) (bits w 11 3) (bits w 4 2))
  | _ => .error .illegalFunction

/-- Major 0x19, family VPERM. -/
def decodeVperm (w : InstrWord) : Except DecodeError Instr :=
  match (bits w 0 4).toNat with
  | 0x0 => whenZero (bits w 6 2 == 0 && bits w 11 5 == 0) (.vbcast (bits w 21 5) (bits w 16 5) (bits w 8 3) (bits w 4 2))
  | 0x1 => whenZero (bits w 8 3 == 0) (.vext (bits w 21 5) (bits w 16 5) (bits w 11 5) (bits w 6 2) (bits w 4 2))
  | 0x2 => whenZero (bits w 6 5 == 0) (.vins (bits w 21 5) (bits w 16 5) (bits w 11 5) (bits w 4 2))
  | 0x3 => .ok (.vperm (bits w 21 5) (bits w 16 5) (bits w 11 5) (bits w 8 3) (bits w 6 2) (bits w 4 2))
  | 0x4 => .ok (.vslideu (bits w 21 5) (bits w 16 5) (bits w 11 5) (bits w 8 3) (bits w 6 2) (bits w 4 2))
  | 0x5 => .ok (.vslided (bits w 21 5) (bits w 16 5) (bits w 11 5) (bits w 8 3) (bits w 6 2) (bits w 4 2))
  | 0x6 => .ok (.vzip (bits w 21 5) (bits w 16 5) (bits w 11 5) (bits w 8 3) (bits w 6 2) (bits w 4 2))
  | 0x7 => .ok (.vunzip (bits w 21 5) (bits w 16 5) (bits w 11 5) (bits w 8 3) (bits w 6 2) (bits w 4 2))
  | 0x8 => .ok (.vmerge (bits w 21 5) (bits w 16 5) (bits w 11 5) (bits w 8 3) (bits w 6 2) (bits w 4 2))
  | 0x9 => whenZero (bits w 6 2 == 0 && bits w 11 10 == 0) (.mpopc (bits w 21 5) (bits w 8 3) (bits w 4 2))
  | 0xA => whenZero (bits w 6 2 == 0 && bits w 11 10 == 0) (.mfirst (bits w 21 5) (bits w 8 3) (bits w 4 2))
  | 0xB => whenZero (bits w 4 12 == 0 && bits w 24 2 == 0) (.mset (bits w 21 3) (bits w 16 5))
  | _ => .error .illegalFunction

/-- Major 0x1A, family VRED. -/
def decodeVred (w : InstrWord) : Except DecodeError Instr :=
  match (bits w 0 4).toNat with
  | 0x0 => whenZero (bits w 11 5 == 0) (.vrsum (bits w 21 5) (bits w 16 5) (bits w 8 3) (bits w 6 2) (bits w 4 2))
  | 0x1 => whenZero (bits w 11 5 == 0) (.vrmax (bits w 21 5) (bits w 16 5) (bits w 8 3) (bits w 6 2) (bits w 4 2))
  | 0x2 => whenZero (bits w 11 5 == 0) (.vrmin (bits w 21 5) (bits w 16 5) (bits w 8 3) (bits w 6 2) (bits w 4 2))
  | 0x3 => whenZero (bits w 11 5 == 0) (.vrsumi (bits w 21 5) (bits w 16 5) (bits w 8 3) (bits w 6 2) (bits w 4 2))
  | 0x4 => whenZero (bits w 11 5 == 0) (.vscan (bits w 21 5) (bits w 16 5) (bits w 8 3) (bits w 6 2) (bits w 4 2))
  | _ => .error .illegalFunction

/-- Major 0x1B, family VMATH. -/
def decodeVmath (w : InstrWord) : Except DecodeError Instr :=
  match (bits w 0 4).toNat with
  | 0x0 => whenZero (bits w 11 5 == 0) (.vexp2 (bits w 21 5) (bits w 16 5) (bits w 8 3) (bits w 6 2) (bits w 4 2))
  | 0x1 => whenZero (bits w 11 5 == 0) (.vlog2 (bits w 21 5) (bits w 16 5) (bits w 8 3) (bits w 6 2) (bits w 4 2))
  | 0x2 => whenZero (bits w 11 5 == 0) (.vexp (bits w 21 5) (bits w 16 5) (bits w 8 3) (bits w 6 2) (bits w 4 2))
  | 0x3 => whenZero (bits w 11 5 == 0) (.vlog (bits w 21 5) (bits w 16 5) (bits w 8 3) (bits w 6 2) (bits w 4 2))
  | 0x4 => whenZero (bits w 11 5 == 0) (.vsin (bits w 21 5) (bits w 16 5) (bits w 8 3) (bits w 6 2) (bits w 4 2))
  | 0x5 => whenZero (bits w 11 5 == 0) (.vcos (bits w 21 5) (bits w 16 5) (bits w 8 3) (bits w 6 2) (bits w 4 2))
  | 0x6 => whenZero (bits w 11 5 == 0) (.vtanh (bits w 21 5) (bits w 16 5) (bits w 8 3) (bits w 6 2) (bits w 4 2))
  | 0x7 => whenZero (bits w 11 5 == 0) (.vsigm (bits w 21 5) (bits w 16 5) (bits w 8 3) (bits w 6 2) (bits w 4 2))
  | 0x8 => whenZero (bits w 11 5 == 0) (.verf (bits w 21 5) (bits w 16 5) (bits w 8 3) (bits w 6 2) (bits w 4 2))
  | 0x9 => whenZero (bits w 11 5 == 0) (.vrcp (bits w 21 5) (bits w 16 5) (bits w 8 3) (bits w 6 2) (bits w 4 2))
  | 0xA => whenZero (bits w 11 5 == 0) (.vrsqrt (bits w 21 5) (bits w 16 5) (bits w 8 3) (bits w 6 2) (bits w 4 2))
  | _ => .error .illegalFunction

/-- Major 0x1C, family VMASK. -/
def decodeVmask (w : InstrWord) : Except DecodeError Instr :=
  match (bits w 0 4).toNat with
  | 0x0 => whenZero (bits w 24 2 == 0) (.vcmpeq (bits w 21 3) (bits w 16 5) (bits w 11 5) (bits w 8 3) (bits w 6 2) (bits w 4 2))
  | 0x1 => whenZero (bits w 24 2 == 0) (.vcmpne (bits w 21 3) (bits w 16 5) (bits w 11 5) (bits w 8 3) (bits w 6 2) (bits w 4 2))
  | 0x2 => whenZero (bits w 24 2 == 0) (.vcmplt (bits w 21 3) (bits w 16 5) (bits w 11 5) (bits w 8 3) (bits w 6 2) (bits w 4 2))
  | 0x3 => whenZero (bits w 24 2 == 0) (.vcmple (bits w 21 3) (bits w 16 5) (bits w 11 5) (bits w 8 3) (bits w 6 2) (bits w 4 2))
  | 0x4 => whenZero (bits w 24 2 == 0) (.vcmpltu (bits w 21 3) (bits w 16 5) (bits w 11 5) (bits w 8 3) (bits w 6 2) (bits w 4 2))
  | 0x5 => whenZero (bits w 24 2 == 0) (.vcmpleu (bits w 21 3) (bits w 16 5) (bits w 11 5) (bits w 8 3) (bits w 6 2) (bits w 4 2))
  | 0x8 => whenZero (bits w 24 2 == 0) (.vfcmpeq (bits w 21 3) (bits w 16 5) (bits w 11 5) (bits w 8 3) (bits w 6 2) (bits w 4 2))
  | 0x9 => whenZero (bits w 24 2 == 0) (.vfcmplt (bits w 21 3) (bits w 16 5) (bits w 11 5) (bits w 8 3) (bits w 6 2) (bits w 4 2))
  | 0xA => whenZero (bits w 24 2 == 0) (.vfcmple (bits w 21 3) (bits w 16 5) (bits w 11 5) (bits w 8 3) (bits w 6 2) (bits w 4 2))
  | 0xB => whenZero (bits w 24 2 == 0) (.vfcmpun (bits w 21 3) (bits w 16 5) (bits w 11 5) (bits w 8 3) (bits w 6 2) (bits w 4 2))
  | 0xC => whenZero (bits w 4 7 == 0 && bits w 14 2 == 0 && bits w 19 2 == 0 && bits w 24 2 == 0) (.mand (bits w 21 3) (bits w 16 3) (bits w 11 3))
  | 0xD => whenZero (bits w 4 7 == 0 && bits w 14 2 == 0 && bits w 19 2 == 0 && bits w 24 2 == 0) (.mor (bits w 21 3) (bits w 16 3) (bits w 11 3))
  | 0xE => whenZero (bits w 4 7 == 0 && bits w 14 2 == 0 && bits w 19 2 == 0 && bits w 24 2 == 0) (.mxor (bits w 21 3) (bits w 16 3) (bits w 11 3))
  | 0xF => whenZero (bits w 4 12 == 0 && bits w 19 2 == 0 && bits w 24 2 == 0) (.mnot (bits w 21 3) (bits w 16 3))
  | _ => .error .illegalFunction

/-- Major 0x1D, family VLS. -/
def decodeVls (w : InstrWord) : Except DecodeError Instr :=
  match (bits w 0 4).toNat with
  | 0x0 => whenZero (bits w 6 2 == 0 && bits w 11 5 == 0) (.ldv (bits w 21 5) (bits w 16 5) (bits w 8 3) (bits w 4 2))
  | 0x1 => whenZero (bits w 6 2 == 0 && bits w 11 5 == 0) (.stv (bits w 21 5) (bits w 16 5) (bits w 8 3) (bits w 4 2))
  | 0x2 => whenZero (bits w 6 2 == 0) (.ldvs (bits w 21 5) (bits w 16 5) (bits w 11 5) (bits w 8 3) (bits w 4 2))
  | 0x3 => whenZero (bits w 6 2 == 0) (.stvs (bits w 21 5) (bits w 16 5) (bits w 11 5) (bits w 8 3) (bits w 4 2))
  | 0x4 => whenZero (bits w 6 2 == 0) (.ldvx (bits w 21 5) (bits w 16 5) (bits w 11 5) (bits w 8 3) (bits w 4 2))
  | 0x5 => whenZero (bits w 6 2 == 0) (.stvx (bits w 21 5) (bits w 16 5) (bits w 11 5) (bits w 8 3) (bits w 4 2))
  | 0x6 => whenZero (bits w 6 10 == 0) (.ldvb (bits w 21 5) (bits w 16 5) (bits w 4 2))
  | _ => .error .illegalFunction

/-- Major 0x1E, family LEND. -/
def decodeLend (w : InstrWord) : Except DecodeError Instr :=
  match (bits w 12 4).toNat with
  | 0x0 => whenZero (bits w 9 3 == 0 && bits w 16 5 == 0) (.vxch (bits w 21 5) (bits w 3 6) (bits w 0 3))
  | 0x1 => whenZero (bits w 0 12 == 0 && bits w 16 5 == 0) (.lwin (bits w 21 5))
  | _ => .error .illegalFunction

/-- Major 0x20, family VAULT. -/
def decodeVault (w : InstrWord) : Except DecodeError Instr :=
  match (bits w 0 6).toNat with
  | 0x0 => whenZero (bits w 6 10 == 0 && bits w 21 5 == 0) (.act (bits w 16 5))
  | 0x1 => whenZero (bits w 6 10 == 0 && bits w 21 5 == 0) (.pre (bits w 16 5))
  | 0x2 => whenZero (bits w 6 5 == 0) (.tld (bits w 21 5) (bits w 16 5) (bits w 11 5))
  | 0x3 => whenZero (bits w 6 5 == 0) (.tldl (bits w 21 5) (bits w 16 5) (bits w 11 5))
  | 0x4 => whenZero (bits w 6 5 == 0) (.tst (bits w 21 5) (bits w 16 5) (bits w 11 5))
  | _ => .error .illegalFunction

/-- Major 0x21, family TCPY. -/
def decodeTcpy (w : InstrWord) : Except DecodeError Instr :=
  match (bits w 0 6).toNat with
  | 0x0 => .ok (.tcpy (bits w 21 5) (bits w 16 5) (bits w 11 5) (bits w 10 1) (bits w 6 4))
  | 0x1 => .ok (.tcpym (bits w 21 5) (bits w 16 5) (bits w 11 5) (bits w 10 1) (bits w 6 4))
  | 0x2 => whenZero (bits w 6 5 == 0) (.tfpr (bits w 21 5) (bits w 16 5) (bits w 11 5))
  | _ => .error .illegalFunction

/-- Major 0x22, family RMEM. -/
def decodeRmem (w : InstrWord) : Except DecodeError Instr :=
  match (bits w 0 4).toNat with
  | 0x0 => whenZero (bits w 8 8 == 0) (.rld (bits w 21 5) (bits w 16 5) (bits w 6 2) (bits w 4 2))
  | 0x1 => whenZero (bits w 8 8 == 0) (.rstr (bits w 21 5) (bits w 16 5) (bits w 6 2) (bits w 4 2))
  | 0x2 => whenZero (bits w 4 2 == 0 && bits w 8 8 == 0) (.vrld (bits w 21 5) (bits w 16 5) (bits w 6 2))
  | 0x3 => whenZero (bits w 4 2 == 0 && bits w 8 8 == 0) (.vrst (bits w 21 5) (bits w 16 5) (bits w 6 2))
  | _ => .error .illegalFunction

/-- Major 0x23, family RATOM. -/
def decodeRatom (w : InstrWord) : Except DecodeError Instr :=
  match (bits w 0 4).toNat with
  | 0x0 =>
    match (bits w 4 4).toNat with
    | 0x0 => .ok (.rfaAdd (bits w 21 5) (bits w 16 5) (bits w 11 5) (bits w 9 2) (bits w 8 1))
    | 0x1 => .ok (.rfaAnd (bits w 21 5) (bits w 16 5) (bits w 11 5) (bits w 9 2) (bits w 8 1))
    | 0x2 => .ok (.rfaOr (bits w 21 5) (bits w 16 5) (bits w 11 5) (bits w 9 2) (bits w 8 1))
    | 0x3 => .ok (.rfaXor (bits w 21 5) (bits w 16 5) (bits w 11 5) (bits w 9 2) (bits w 8 1))
    | 0x4 => .ok (.rfaMin (bits w 21 5) (bits w 16 5) (bits w 11 5) (bits w 9 2) (bits w 8 1))
    | 0x5 => .ok (.rfaMax (bits w 21 5) (bits w 16 5) (bits w 11 5) (bits w 9 2) (bits w 8 1))
    | 0x6 => .ok (.rfaMinu (bits w 21 5) (bits w 16 5) (bits w 11 5) (bits w 9 2) (bits w 8 1))
    | 0x7 => .ok (.rfaMaxu (bits w 21 5) (bits w 16 5) (bits w 11 5) (bits w 9 2) (bits w 8 1))
    | 0x8 => .ok (.rfaSwap (bits w 21 5) (bits w 16 5) (bits w 11 5) (bits w 9 2) (bits w 8 1))
    | _ => .error .illegalFunction
  | 0x1 => whenZero (bits w 4 4 == 0) (.rcas (bits w 21 5) (bits w 16 5) (bits w 11 5) (bits w 9 2) (bits w 8 1))
  | 0x2 => whenZero (bits w 4 4 == 0 && bits w 9 7 == 0) (.lrw (bits w 21 5) (bits w 16 5) (bits w 8 1))
  | 0x3 => whenZero (bits w 4 4 == 0 && bits w 9 2 == 0 && bits w 21 5 == 0) (.sch (bits w 16 5) (bits w 11 5) (bits w 8 1))
  | _ => .error .illegalFunction

/-- Major 0x24, family MSG. -/
def decodeMsg (w : InstrWord) : Except DecodeError Instr :=
  match (bits w 0 3).toNat with
  | 0x0 => whenZero (bits w 9 2 == 0) (.send (bits w 21 5) (bits w 16 5) (bits w 11 5) (bits w 3 6))
  | 0x1 => whenZero (bits w 9 2 == 0) (.sendm (bits w 21 5) (bits w 16 5) (bits w 11 5) (bits w 3 6))
  | 0x2 => whenZero (bits w 6 15 == 0) (.qpush (bits w 21 5) (bits w 3 3))
  | 0x3 => whenZero (bits w 6 15 == 0) (.qpop (bits w 21 5) (bits w 3 3))
  | 0x4 => whenZero (bits w 6 15 == 0) (.qpeek (bits w 21 5) (bits w 3 3))
  | 0x5 => whenZero (bits w 6 5 == 0 && bits w 21 5 == 0) (.qbind (bits w 16 5) (bits w 11 5) (bits w 3 3))
  | _ => .error .illegalFunction

/-- Major 0x25, family MIG. -/
def decodeMig (w : InstrWord) : Except DecodeError Instr :=
  match (bits w 0 6).toNat with
  | 0x0 => whenZero (bits w 6 10 == 0 && bits w 21 5 == 0) (.mig (bits w 16 5))
  | 0x1 => whenZero (bits w 6 20 == 0) (.migo)
  | 0x2 => whenZero (bits w 6 10 == 0) (.home (bits w 21 5) (bits w 16 5))
  | _ => .error .illegalFunction

/-- Major 0x26, family SYNC. -/
def decodeSync (w : InstrWord) : Except DecodeError Instr :=
  match (bits w 0 3).toNat with
  | 0x0 => whenZero (bits w 3 3 == 0 && bits w 11 15 == 0) (.fence (bits w 9 2) (bits w 6 3))
  | 0x1 => whenZero (bits w 3 3 == 0 && bits w 10 1 == 0) (.binit (bits w 21 5) (bits w 16 5) (bits w 11 5) (bits w 6 4))
  | 0x2 => whenZero (bits w 3 3 == 0 && bits w 10 6 == 0 && bits w 21 5 == 0) (.arrive (bits w 16 5) (bits w 6 4))
  | 0x3 => whenZero (bits w 3 3 == 0 && bits w 10 16 == 0) (.arrdrop (bits w 6 4))
  | 0x4 => whenZero (bits w 3 3 == 0 && bits w 10 16 == 0) (.bwait (bits w 6 4))
  | 0x5 => whenZero (bits w 3 3 == 0 && bits w 10 11 == 0) (.btest (bits w 21 5) (bits w 6 4))
  | 0x6 => whenZero (bits w 3 23 == 0) (.abatch)
  | 0x7 => whenZero (bits w 3 3 == 0 && bits w 9 17 == 0) (.await (bits w 6 3))
  | _ => .error .illegalFunction

/-- Major 0x28, family MTXC. -/
def decodeMtxc (w : InstrWord) : Except DecodeError Instr :=
  match (bits w 0 6).toNat with
  | 0x0 => whenZero (bits w 6 15 == 0 && bits w 23 3 == 0) (.mzero (bits w 21 2))
  | 0x1 => whenZero (bits w 6 10 == 0 && bits w 23 3 == 0) (.mst (bits w 21 2) (bits w 16 5))
  | 0x2 => whenZero (bits w 6 10 == 0 && bits w 21 5 == 0) (.mldc (bits w 16 5))
  | _ => .error .illegalFunction

/-- Major 0x29, family SPAN. -/
def decodeSpan (w : InstrWord) : Except DecodeError Instr :=
  match (bits w 0 3).toNat with
  | 0x0 => whenZero (bits w 3 8 == 0 && bits w 21 5 == 0) (.sptag (bits w 16 5) (bits w 11 5))
  | 0x1 => whenZero (bits w 3 8 == 0) (.spapp (bits w 21 5) (bits w 16 5) (bits w 11 5))
  | 0x2 => whenZero (bits w 3 8 == 0 && bits w 21 5 == 0) (.spcom (bits w 16 5) (bits w 11 5))
  | 0x3 => whenZero (bits w 3 8 == 0 && bits w 21 5 == 0) (.sprej (bits w 16 5) (bits w 11 5))
  | 0x4 =>
    match (bits w 3 1).toNat with
    | 0x0 => whenZero (bits w 4 7 == 0) (.spretHole (bits w 21 5) (bits w 16 5) (bits w 11 5))
    | 0x1 => whenZero (bits w 4 7 == 0) (.spretClose (bits w 21 5) (bits w 16 5) (bits w 11 5))
    | _ => .error .illegalFunction
  | 0x5 => whenZero (bits w 3 8 == 0) (.spqry (bits w 21 5) (bits w 16 5) (bits w 11 5))
  | 0x6 => whenZero (bits w 3 8 == 0) (.sploc (bits w 21 5) (bits w 16 5) (bits w 11 5))
  | 0x7 => whenZero (bits w 3 13 == 0) (.splen (bits w 21 5) (bits w 16 5))
  | _ => .error .illegalFunction

/-- Major 0x2A, family WORK. -/
def decodeWork (w : InstrWord) : Except DecodeError Instr :=
  match (bits w 0 6).toNat with
  | 0x0 => whenZero (bits w 6 10 == 0) (.launch (bits w 21 5) (bits w 16 5))
  | 0x1 => whenZero (bits w 6 10 == 0 && bits w 21 5 == 0) (.lwait (bits w 16 5))
  | 0x2 => whenZero (bits w 9 7 == 0 && bits w 21 5 == 0) (.lcancel (bits w 16 5) (bits w 6 3))
  | 0x3 => whenZero (bits w 6 10 == 0) (.lstat (bits w 21 5) (bits w 16 5))
  | 0x4 => whenZero (bits w 6 10 == 0) (.treg (bits w 21 5) (bits w 16 5))
  | _ => .error .illegalFunction

/-- Major 0x2B, family ENRG. -/
def decodeEnrg (w : InstrWord) : Except DecodeError Instr :=
  match (bits w 0 6).toNat with
  | 0x0 => whenZero (bits w 6 10 == 0) (.purse (bits w 21 5) (bits w 16 5))
  | 0x1 => whenZero (bits w 6 10 == 0) (.subs (bits w 21 5) (bits w 16 5))
  | 0x2 => whenZero (bits w 6 10 == 0 && bits w 21 5 == 0) (.unsubs (bits w 16 5))
  | _ => .error .illegalFunction

/-- Major 0x2C, family COLL. -/
def decodeColl (w : InstrWord) : Except DecodeError Instr :=
  match (bits w 0 6).toNat with
  | 0x0 => whenZero (bits w 6 10 == 0) (.crinit (bits w 21 5) (bits w 16 5))
  | 0x1 => whenZero (bits w 6 5 == 0 && bits w 21 5 == 0) (.cradd (bits w 16 5) (bits w 11 5))
  | 0x2 => whenZero (bits w 6 10 == 0 && bits w 21 5 == 0) (.crwait (bits w 16 5))
  | _ => .error .illegalFunction

/-- R85 steps 1 to 3: the major opcode (Table 3.6), then the family's own tables. -/
def decodeRaw (w : InstrWord) : Except DecodeError Instr :=
  match (bits w 26 6).toNat with
  | 0x01 => decodeAlu w
  | 0x02 => .ok (.addi (bits w 21 5) (bits w 16 5) (bits w 0 16))
  | 0x03 => .ok (.andi (bits w 21 5) (bits w 16 5) (bits w 0 16))
  | 0x04 => .ok (.ori (bits w 21 5) (bits w 16 5) (bits w 0 16))
  | 0x05 => .ok (.xori (bits w 21 5) (bits w 16 5) (bits w 0 16))
  | 0x06 => .ok (.slti (bits w 21 5) (bits w 16 5) (bits w 0 16))
  | 0x07 => .ok (.sltiu (bits w 21 5) (bits w 16 5) (bits w 0 16))
  | 0x08 => decodeShi w
  | 0x09 => whenZero (bits w 18 3 == 0) (.lih (bits w 21 5) (bits w 16 2) (bits w 0 16))
  | 0x0A => whenZero (bits w 16 5 == 0) (.adpc (bits w 21 5) (bits w 0 16))
  | 0x0B => decodeFpu w
  | 0x0C => .ok (.ld (bits w 21 5) (bits w 16 5) (bits w 12 4) (bits w 0 12))
  | 0x0D => .ok (.st (bits w 21 5) (bits w 16 5) (bits w 12 4) (bits w 0 12))
  | 0x0E => decodeAmo w
  | 0x0F => decodeBr w
  | 0x10 => .ok (.jal (bits w 21 5) (bits w 0 21))
  | 0x11 => .ok (.jalr (bits w 21 5) (bits w 16 5) (bits w 0 16))
  | 0x12 => whenZero (bits w 0 11 == 0) (.rpt (bits w 21 5) (bits w 17 4) (bits w 15 2) (bits w 13 2) (bits w 11 2))
  | 0x13 => decodeLoop w
  | 0x14 => decodeSys w
  | 0x15 => decodeCfg w
  | 0x16 => decodeValu w
  | 0x17 => decodeVfpu w
  | 0x18 => decodeVcvt w
  | 0x19 => decodeVperm w
  | 0x1A => decodeVred w
  | 0x1B => decodeVmath w
  | 0x1C => decodeVmask w
  | 0x1D => decodeVls w
  | 0x1E => decodeLend w
  | 0x20 => decodeVault w
  | 0x21 => decodeTcpy w
  | 0x22 => decodeRmem w
  | 0x23 => decodeRatom w
  | 0x24 => decodeMsg w
  | 0x25 => decodeMig w
  | 0x26 => decodeSync w
  | 0x27 => whenZero (bits w 0 3 == 0) (.mma (bits w 24 2) (bits w 19 5) (bits w 14 5) (bits w 9 5) (bits w 7 2) (bits w 6 1) (bits w 5 1) (bits w 3 2))
  | 0x28 => decodeMtxc w
  | 0x29 => decodeSpan w
  | 0x2A => decodeWork w
  | 0x2B => decodeEnrg w
  | 0x2C => decodeColl w
  | _ => .error .illegalMajor

/-- R85 steps 1 to 4. -/
def decodeWord (w : InstrWord) : Except DecodeError Instr :=
  match decodeRaw w with
  | .ok i => if i.wf then .ok i else .error .illegalField
  | .error e => .error e

/-- A word from its four bytes in memory, little-endian (R11, R77). -/
def wordOfBytes (b0 b1 b2 b3 : Byte) : InstrWord := b3 ++ b2 ++ b1 ++ b0

/-- The decoder on bytes: one word from the front, and the bytes after it (R77). -/
def decode : List Byte → Except DecodeError (Instr × List Byte)
  | b0 :: b1 :: b2 :: b3 :: rest =>
    match decodeWord (wordOfBytes b0 b1 b2 b3) with
    | .ok i => .ok (i, rest)
    | .error e => .error e
  | _ => .error .truncated

/-- The host's view of the decoder: an instruction whose bits, numbered as spec/opcode_table.json numbers them, are `w`.
Every N1 instruction is one word, so the bits above bit 31 are dropped. -/
def decodeTableWord (_nbits w : Nat) : Option Instr :=
  let x := BitVec.ofNat 32 w
  match decode [bits x 0 8, bits x 8 8, bits x 16 8, bits x 24 8] with
  | .ok (i, _) => some i
  | .error _ => none

/-- True of the constructors that stand for an instruction word; the others are machine steps without an encoding. -/
def Instr.isWord : Instr → Bool
  | .add .. => true
  | .sub .. => true
  | .and .. => true
  | .or .. => true
  | .xor .. => true
  | .andn .. => true
  | .sll .. => true
  | .srl .. => true
  | .sra .. => true
  | .rotr .. => true
  | .slt .. => true
  | .sltu .. => true
  | .min .. => true
  | .max .. => true
  | .minu .. => true
  | .maxu .. => true
  | .mul .. => true
  | .mulh .. => true
  | .mulhu .. => true
  | .div .. => true
  | .divu .. => true
  | .rem .. => true
  | .remu .. => true
  | .clz .. => true
  | .ctz .. => true
  | .popc .. => true
  | .bswap .. => true
  | .sel .. => true
  | .shadd .. => true
  | .extu .. => true
  | .exts .. => true
  | .insf .. => true
  | .addi .. => true
  | .andi .. => true
  | .ori .. => true
  | .xori .. => true
  | .slti .. => true
  | .sltiu .. => true
  | .slli .. => true
  | .srli .. => true
  | .srai .. => true
  | .rotri .. => true
  | .lih .. => true
  | .adpc .. => true
  | .fadd .. => true
  | .fsub .. => true
  | .fmul .. => true
  | .fma .. => true
  | .fdiv .. => true
  | .fsqrt .. => true
  | .fmin .. => true
  | .fmax .. => true
  | .fcmp .. => true
  | .fcvt .. => true
  | .fclass .. => true
  | .ftoi .. => true
  | .itof .. => true
  | .ld .. => true
  | .st .. => true
  | .amoAdd .. => true
  | .amoAnd .. => true
  | .amoOr .. => true
  | .amoXor .. => true
  | .amoMin .. => true
  | .amoMax .. => true
  | .amoMinu .. => true
  | .amoMaxu .. => true
  | .amoSwap .. => true
  | .amoCas .. => true
  | .beq .. => true
  | .bne .. => true
  | .blt .. => true
  | .bge .. => true
  | .bltu .. => true
  | .bgeu .. => true
  | .bbs .. => true
  | .bbc .. => true
  | .jal .. => true
  | .jalr .. => true
  | .rpt .. => true
  | .nest .. => true
  | .next .. => true
  | .nestq .. => true
  | .trap .. => true
  | .eret => true
  | .brk .. => true
  | .yield => true
  | .exit => true
  | .crr .. => true
  | .crw .. => true
  | .pmap .. => true
  | .fdset .. => true
  | .mcfg .. => true
  | .mprog .. => true
  | .vadd .. => true
  | .vsub .. => true
  | .vmul .. => true
  | .vmulh .. => true
  | .vmin .. => true
  | .vmax .. => true
  | .vminu .. => true
  | .vmaxu .. => true
  | .vand .. => true
  | .vor .. => true
  | .vxor .. => true
  | .vsll .. => true
  | .vsrl .. => true
  | .vsra .. => true
  | .vabsd .. => true
  | .vadds .. => true
  | .vfadd .. => true
  | .vfsub .. => true
  | .vfmul .. => true
  | .vfma .. => true
  | .vfms .. => true
  | .vfdiv .. => true
  | .vfsqrt .. => true
  | .vfmin .. => true
  | .vfmax .. => true
  | .vfabs .. => true
  | .vfneg .. => true
  | .vcvtf .. => true
  | .vftoi .. => true
  | .vitof .. => true
  | .vnarrow .. => true
  | .vwiden .. => true
  | .vscale .. => true
  | .vqblk .. => true
  | .vbcast .. => true
  | .vext .. => true
  | .vins .. => true
  | .vperm .. => true
  | .vslideu .. => true
  | .vslided .. => true
  | .vzip .. => true
  | .vunzip .. => true
  | .vmerge .. => true
  | .mpopc .. => true
  | .mfirst .. => true
  | .mset .. => true
  | .vrsum .. => true
  | .vrmax .. => true
  | .vrmin .. => true
  | .vrsumi .. => true
  | .vscan .. => true
  | .vexp2 .. => true
  | .vlog2 .. => true
  | .vexp .. => true
  | .vlog .. => true
  | .vsin .. => true
  | .vcos .. => true
  | .vtanh .. => true
  | .vsigm .. => true
  | .verf .. => true
  | .vrcp .. => true
  | .vrsqrt .. => true
  | .vcmpeq .. => true
  | .vcmpne .. => true
  | .vcmplt .. => true
  | .vcmple .. => true
  | .vcmpltu .. => true
  | .vcmpleu .. => true
  | .vfcmpeq .. => true
  | .vfcmplt .. => true
  | .vfcmple .. => true
  | .vfcmpun .. => true
  | .mand .. => true
  | .mor .. => true
  | .mxor .. => true
  | .mnot .. => true
  | .ldv .. => true
  | .stv .. => true
  | .ldvs .. => true
  | .stvs .. => true
  | .ldvx .. => true
  | .stvx .. => true
  | .ldvb .. => true
  | .vxch .. => true
  | .lwin .. => true
  | .act .. => true
  | .pre .. => true
  | .tld .. => true
  | .tldl .. => true
  | .tst .. => true
  | .tcpy .. => true
  | .tcpym .. => true
  | .tfpr .. => true
  | .rld .. => true
  | .rstr .. => true
  | .vrld .. => true
  | .vrst .. => true
  | .rfaAdd .. => true
  | .rfaAnd .. => true
  | .rfaOr .. => true
  | .rfaXor .. => true
  | .rfaMin .. => true
  | .rfaMax .. => true
  | .rfaMinu .. => true
  | .rfaMaxu .. => true
  | .rfaSwap .. => true
  | .rcas .. => true
  | .lrw .. => true
  | .sch .. => true
  | .send .. => true
  | .sendm .. => true
  | .qpush .. => true
  | .qpop .. => true
  | .qpeek .. => true
  | .qbind .. => true
  | .mig .. => true
  | .migo => true
  | .home .. => true
  | .fence .. => true
  | .binit .. => true
  | .arrive .. => true
  | .arrdrop .. => true
  | .bwait .. => true
  | .btest .. => true
  | .abatch => true
  | .await .. => true
  | .mma .. => true
  | .mzero .. => true
  | .mst .. => true
  | .mldc .. => true
  | .sptag .. => true
  | .spapp .. => true
  | .spcom .. => true
  | .sprej .. => true
  | .spretHole .. => true
  | .spretClose .. => true
  | .spqry .. => true
  | .sploc .. => true
  | .splen .. => true
  | .launch .. => true
  | .lwait .. => true
  | .lcancel .. => true
  | .lstat .. => true
  | .treg .. => true
  | .purse .. => true
  | .subs .. => true
  | .unsubs .. => true
  | .crinit .. => true
  | .cradd .. => true
  | .crwait .. => true
  | _ => false

/-- The word of an instruction (Tables 3.1 to 3.12), high bits first.  A machine step has no encoding; it is given the
all-zero word, which is no instruction (R87). -/
def encode : Instr → InstrWord
  | .add d a b => 0x1#6 ++ d ++ a ++ b ++ 0x0#11
  | .sub d a b => 0x1#6 ++ d ++ a ++ b ++ 0x1#11
  | .and d a b => 0x1#6 ++ d ++ a ++ b ++ 0x2#11
  | .or d a b => 0x1#6 ++ d ++ a ++ b ++ 0x3#11
  | .xor d a b => 0x1#6 ++ d ++ a ++ b ++ 0x4#11
  | .andn d a b => 0x1#6 ++ d ++ a ++ b ++ 0x5#11
  | .sll d a b => 0x1#6 ++ d ++ a ++ b ++ 0x6#11
  | .srl d a b => 0x1#6 ++ d ++ a ++ b ++ 0x7#11
  | .sra d a b => 0x1#6 ++ d ++ a ++ b ++ 0x8#11
  | .rotr d a b => 0x1#6 ++ d ++ a ++ b ++ 0x9#11
  | .slt d a b => 0x1#6 ++ d ++ a ++ b ++ 0xA#11
  | .sltu d a b => 0x1#6 ++ d ++ a ++ b ++ 0xB#11
  | .min d a b => 0x1#6 ++ d ++ a ++ b ++ 0xC#11
  | .max d a b => 0x1#6 ++ d ++ a ++ b ++ 0xD#11
  | .minu d a b => 0x1#6 ++ d ++ a ++ b ++ 0xE#11
  | .maxu d a b => 0x1#6 ++ d ++ a ++ b ++ 0xF#11
  | .mul d a b => 0x1#6 ++ d ++ a ++ b ++ 0x10#11
  | .mulh d a b => 0x1#6 ++ d ++ a ++ b ++ 0x11#11
  | .mulhu d a b => 0x1#6 ++ d ++ a ++ b ++ 0x12#11
  | .div d a b => 0x1#6 ++ d ++ a ++ b ++ 0x13#11
  | .divu d a b => 0x1#6 ++ d ++ a ++ b ++ 0x14#11
  | .rem d a b => 0x1#6 ++ d ++ a ++ b ++ 0x15#11
  | .remu d a b => 0x1#6 ++ d ++ a ++ b ++ 0x16#11
  | .clz d a => 0x1#6 ++ d ++ a ++ 0x17#16
  | .ctz d a => 0x1#6 ++ d ++ a ++ 0x18#16
  | .popc d a => 0x1#6 ++ d ++ a ++ 0x19#16
  | .bswap d a => 0x1#6 ++ d ++ a ++ 0x1A#16
  | .sel d a b => 0x1#6 ++ d ++ a ++ b ++ 0x1B#11
  | .shadd d a b s => 0x1#6 ++ d ++ a ++ b ++ 0x0#3 ++ s ++ 0x1C#6
  | .extu d a b => 0x1#6 ++ d ++ a ++ b ++ 0x1D#11
  | .exts d a b => 0x1#6 ++ d ++ a ++ b ++ 0x1E#11
  | .insf d a b => 0x1#6 ++ d ++ a ++ b ++ 0x1F#11
  | .addi d a i => 0x2#6 ++ d ++ a ++ i
  | .andi d a i => 0x3#6 ++ d ++ a ++ i
  | .ori d a i => 0x4#6 ++ d ++ a ++ i
  | .xori d a i => 0x5#6 ++ d ++ a ++ i
  | .slti d a i => 0x6#6 ++ d ++ a ++ i
  | .sltiu d a i => 0x7#6 ++ d ++ a ++ i
  | .slli d a s => 0x8#6 ++ d ++ a ++ 0x0#10 ++ s
  | .srli d a s => 0x8#6 ++ d ++ a ++ 0x100#10 ++ s
  | .srai d a s => 0x8#6 ++ d ++ a ++ 0x200#10 ++ s
  | .rotri d a s => 0x8#6 ++ d ++ a ++ 0x300#10 ++ s
  | .lih d h i => 0x9#6 ++ d ++ 0x0#3 ++ h ++ i
  | .adpc d i => 0xA#6 ++ d ++ 0x0#5 ++ i
  | .fadd d a b p => 0xB#6 ++ d ++ a ++ b ++ p ++ 0x0#9
  | .fsub d a b p => 0xB#6 ++ d ++ a ++ b ++ p ++ 0x1#9
  | .fmul d a b p => 0xB#6 ++ d ++ a ++ b ++ p ++ 0x2#9
  | .fma d a b p => 0xB#6 ++ d ++ a ++ b ++ p ++ 0x3#9
  | .fdiv d a b p => 0xB#6 ++ d ++ a ++ b ++ p ++ 0x4#9
  | .fsqrt d a p => 0xB#6 ++ d ++ a ++ 0x0#5 ++ p ++ 0x5#9
  | .fmin d a b p => 0xB#6 ++ d ++ a ++ b ++ p ++ 0x6#9
  | .fmax d a b p => 0xB#6 ++ d ++ a ++ b ++ p ++ 0x7#9
  | .fcmp d a b p c => 0xB#6 ++ d ++ a ++ b ++ p ++ c ++ 0x8#6
  | .fcvt d a p s => 0xB#6 ++ d ++ a ++ 0x0#5 ++ p ++ s ++ 0x9#7
  | .fclass d a p => 0xB#6 ++ d ++ a ++ 0x0#5 ++ p ++ 0xA#9
  | .ftoi d a p w u => 0xB#6 ++ d ++ a ++ 0x0#5 ++ p ++ w ++ u ++ 0xB#6
  | .itof d a p w u => 0xB#6 ++ d ++ a ++ 0x0#5 ++ p ++ w ++ u ++ 0xC#6
  | .ld d a s o => 0xC#6 ++ d ++ a ++ s ++ o
  | .st d a s o => 0xD#6 ++ d ++ a ++ s ++ o
  | .amoAdd d a b o z => 0xE#6 ++ d ++ a ++ b ++ 0x0#4 ++ o ++ z ++ 0x0#4
  | .amoAnd d a b o z => 0xE#6 ++ d ++ a ++ b ++ 0x0#4 ++ o ++ z ++ 0x1#4
  | .amoOr d a b o z => 0xE#6 ++ d ++ a ++ b ++ 0x0#4 ++ o ++ z ++ 0x2#4
  | .amoXor d a b o z => 0xE#6 ++ d ++ a ++ b ++ 0x0#4 ++ o ++ z ++ 0x3#4
  | .amoMin d a b o z => 0xE#6 ++ d ++ a ++ b ++ 0x0#4 ++ o ++ z ++ 0x4#4
  | .amoMax d a b o z => 0xE#6 ++ d ++ a ++ b ++ 0x0#4 ++ o ++ z ++ 0x5#4
  | .amoMinu d a b o z => 0xE#6 ++ d ++ a ++ b ++ 0x0#4 ++ o ++ z ++ 0x6#4
  | .amoMaxu d a b o z => 0xE#6 ++ d ++ a ++ b ++ 0x0#4 ++ o ++ z ++ 0x7#4
  | .amoSwap d a b o z => 0xE#6 ++ d ++ a ++ b ++ 0x0#4 ++ o ++ z ++ 0x8#4
  | .amoCas d a b o z => 0xE#6 ++ d ++ a ++ b ++ 0x0#4 ++ o ++ z ++ 0x9#4
  | .beq a b o => 0xF#6 ++ a ++ b ++ 0x0#3 ++ o
  | .bne a b o => 0xF#6 ++ a ++ b ++ 0x1#3 ++ o
  | .blt a b o => 0xF#6 ++ a ++ b ++ 0x2#3 ++ o
  | .bge a b o => 0xF#6 ++ a ++ b ++ 0x3#3 ++ o
  | .bltu a b o => 0xF#6 ++ a ++ b ++ 0x4#3 ++ o
  | .bgeu a b o => 0xF#6 ++ a ++ b ++ 0x5#3 ++ o
  | .bbs a b o => 0xF#6 ++ a ++ b ++ 0x6#3 ++ o
  | .bbc a b o => 0xF#6 ++ a ++ b ++ 0x7#3 ++ o
  | .jal d o => 0x10#6 ++ d ++ o
  | .jalr d a i => 0x11#6 ++ d ++ a ++ i
  | .rpt c n d a b => 0x12#6 ++ c ++ n ++ d ++ a ++ b ++ 0x0#11
  | .nest a => 0x260#11 ++ a ++ 0x0#16
  | .next a => 0x261#11 ++ a ++ 0x0#16
  | .nestq a b => 0x262#11 ++ a ++ b ++ 0x0#11
  | .trap c => 0x5000#16 ++ c ++ 0x0#6
  | .eret => 0x50000001#32
  | .brk c => 0x5000#16 ++ c ++ 0x2#6
  | .yield => 0x50000003#32
  | .exit => 0x50000004#32
  | .crr d i => 0x14#6 ++ d ++ 0x0#5 ++ i ++ 0x5#6
  | .crw a i => 0x280#11 ++ a ++ i ++ 0x6#6
  | .pmap d a b => 0x14#6 ++ d ++ a ++ b ++ 0x7#11
  | .fdset n a => 0x54#8 ++ n ++ a ++ 0x0#16
  | .mcfg a => 0x2A0#11 ++ a ++ 0x1#16
  | .mprog a => 0x2A0#11 ++ a ++ 0x2#16
  | .vadd d a b m q e => 0x16#6 ++ d ++ a ++ b ++ m ++ q ++ e ++ 0x0#4
  | .vsub d a b m q e => 0x16#6 ++ d ++ a ++ b ++ m ++ q ++ e ++ 0x1#4
  | .vmul d a b m q e => 0x16#6 ++ d ++ a ++ b ++ m ++ q ++ e ++ 0x2#4
  | .vmulh d a b m q e => 0x16#6 ++ d ++ a ++ b ++ m ++ q ++ e ++ 0x3#4
  | .vmin d a b m q e => 0x16#6 ++ d ++ a ++ b ++ m ++ q ++ e ++ 0x4#4
  | .vmax d a b m q e => 0x16#6 ++ d ++ a ++ b ++ m ++ q ++ e ++ 0x5#4
  | .vminu d a b m q e => 0x16#6 ++ d ++ a ++ b ++ m ++ q ++ e ++ 0x6#4
  | .vmaxu d a b m q e => 0x16#6 ++ d ++ a ++ b ++ m ++ q ++ e ++ 0x7#4
  | .vand d a b m q e => 0x16#6 ++ d ++ a ++ b ++ m ++ q ++ e ++ 0x8#4
  | .vor d a b m q e => 0x16#6 ++ d ++ a ++ b ++ m ++ q ++ e ++ 0x9#4
  | .vxor d a b m q e => 0x16#6 ++ d ++ a ++ b ++ m ++ q ++ e ++ 0xA#4
  | .vsll d a b m q e => 0x16#6 ++ d ++ a ++ b ++ m ++ q ++ e ++ 0xB#4
  | .vsrl d a b m q e => 0x16#6 ++ d ++ a ++ b ++ m ++ q ++ e ++ 0xC#4
  | .vsra d a b m q e => 0x16#6 ++ d ++ a ++ b ++ m ++ q ++ e ++ 0xD#4
  | .vabsd d a b m q e => 0x16#6 ++ d ++ a ++ b ++ m ++ q ++ e ++ 0xE#4
  | .vadds d a b m q e => 0x16#6 ++ d ++ a ++ b ++ m ++ q ++ e ++ 0xF#4
  | .vfadd d a b m q e => 0x17#6 ++ d ++ a ++ b ++ m ++ q ++ e ++ 0x0#4
  | .vfsub d a b m q e => 0x17#6 ++ d ++ a ++ b ++ m ++ q ++ e ++ 0x1#4
  | .vfmul d a b m q e => 0x17#6 ++ d ++ a ++ b ++ m ++ q ++ e ++ 0x2#4
  | .vfma d a b m q e => 0x17#6 ++ d ++ a ++ b ++ m ++ q ++ e ++ 0x3#4
  | .vfms d a b m q e => 0x17#6 ++ d ++ a ++ b ++ m ++ q ++ e ++ 0x4#4
  | .vfdiv d a b m q e => 0x17#6 ++ d ++ a ++ b ++ m ++ q ++ e ++ 0x5#4
  | .vfsqrt d a m q e => 0x17#6 ++ d ++ a ++ 0x0#5 ++ m ++ q ++ e ++ 0x6#4
  | .vfmin d a b m q e => 0x17#6 ++ d ++ a ++ b ++ m ++ q ++ e ++ 0x7#4
  | .vfmax d a b m q e => 0x17#6 ++ d ++ a ++ b ++ m ++ q ++ e ++ 0x8#4
  | .vfabs d a m q e => 0x17#6 ++ d ++ a ++ 0x0#5 ++ m ++ q ++ e ++ 0x9#4
  | .vfneg d a m q e => 0x17#6 ++ d ++ a ++ 0x0#5 ++ m ++ q ++ e ++ 0xA#4
  | .vcvtf d a s m q e => 0x18#6 ++ d ++ a ++ 0x0#3 ++ s ++ m ++ q ++ e ++ 0x0#4
  | .vftoi d a u w m q e => 0x18#6 ++ d ++ a ++ 0x0#2 ++ u ++ w ++ m ++ q ++ e ++ 0x1#4
  | .vitof d a u w m q e => 0x18#6 ++ d ++ a ++ 0x0#2 ++ u ++ w ++ m ++ q ++ e ++ 0x2#4
  | .vnarrow d a n m q e => 0x18#6 ++ d ++ a ++ 0x0#2 ++ n ++ m ++ q ++ e ++ 0x3#4
  | .vwiden d a n m q e => 0x18#6 ++ d ++ a ++ 0x0#2 ++ n ++ m ++ q ++ e ++ 0x4#4
  | .vscale d a n e => 0x18#6 ++ d ++ a ++ 0x0#2 ++ n ++ 0x0#5 ++ e ++ 0x5#4
  | .vqblk d a n e => 0x18#6 ++ d ++ a ++ 0x0#2 ++ n ++ 0x0#5 ++ e ++ 0x6#4
  | .vbcast d a m e => 0x19#6 ++ d ++ a ++ 0x0#5 ++ m ++ 0x0#2 ++ e ++ 0x0#4
  | .vext d a b q e => 0x19#6 ++ d ++ a ++ b ++ 0x0#3 ++ q ++ e ++ 0x1#4
  | .vins d a b e => 0x19#6 ++ d ++ a ++ b ++ 0x0#5 ++ e ++ 0x2#4
  | .vperm d a b m q e => 0x19#6 ++ d ++ a ++ b ++ m ++ q ++ e ++ 0x3#4
  | .vslideu d a b m q e => 0x19#6 ++ d ++ a ++ b ++ m ++ q ++ e ++ 0x4#4
  | .vslided d a b m q e => 0x19#6 ++ d ++ a ++ b ++ m ++ q ++ e ++ 0x5#4
  | .vzip d a b m q e => 0x19#6 ++ d ++ a ++ b ++ m ++ q ++ e ++ 0x6#4
  | .vunzip d a b m q e => 0x19#6 ++ d ++ a ++ b ++ m ++ q ++ e ++ 0x7#4
  | .vmerge d a b m q e => 0x19#6 ++ d ++ a ++ b ++ m ++ q ++ e ++ 0x8#4
  | .mpopc d m e => 0x19#6 ++ d ++ 0x0#10 ++ m ++ 0x0#2 ++ e ++ 0x9#4
  | .mfirst d m e => 0x19#6 ++ d ++ 0x0#10 ++ m ++ 0x0#2 ++ e ++ 0xA#4
  | .mset d a => 0x64#8 ++ d ++ a ++ 0xB#16
  | .vrsum d a m q e => 0x1A#6 ++ d ++ a ++ 0x0#5 ++ m ++ q ++ e ++ 0x0#4
  | .vrmax d a m q e => 0x1A#6 ++ d ++ a ++ 0x0#5 ++ m ++ q ++ e ++ 0x1#4
  | .vrmin d a m q e => 0x1A#6 ++ d ++ a ++ 0x0#5 ++ m ++ q ++ e ++ 0x2#4
  | .vrsumi d a m q e => 0x1A#6 ++ d ++ a ++ 0x0#5 ++ m ++ q ++ e ++ 0x3#4
  | .vscan d a m q e => 0x1A#6 ++ d ++ a ++ 0x0#5 ++ m ++ q ++ e ++ 0x4#4
  | .vexp2 d a m q e => 0x1B#6 ++ d ++ a ++ 0x0#5 ++ m ++ q ++ e ++ 0x0#4
  | .vlog2 d a m q e => 0x1B#6 ++ d ++ a ++ 0x0#5 ++ m ++ q ++ e ++ 0x1#4
  | .vexp d a m q e => 0x1B#6 ++ d ++ a ++ 0x0#5 ++ m ++ q ++ e ++ 0x2#4
  | .vlog d a m q e => 0x1B#6 ++ d ++ a ++ 0x0#5 ++ m ++ q ++ e ++ 0x3#4
  | .vsin d a m q e => 0x1B#6 ++ d ++ a ++ 0x0#5 ++ m ++ q ++ e ++ 0x4#4
  | .vcos d a m q e => 0x1B#6 ++ d ++ a ++ 0x0#5 ++ m ++ q ++ e ++ 0x5#4
  | .vtanh d a m q e => 0x1B#6 ++ d ++ a ++ 0x0#5 ++ m ++ q ++ e ++ 0x6#4
  | .vsigm d a m q e => 0x1B#6 ++ d ++ a ++ 0x0#5 ++ m ++ q ++ e ++ 0x7#4
  | .verf d a m q e => 0x1B#6 ++ d ++ a ++ 0x0#5 ++ m ++ q ++ e ++ 0x8#4
  | .vrcp d a m q e => 0x1B#6 ++ d ++ a ++ 0x0#5 ++ m ++ q ++ e ++ 0x9#4
  | .vrsqrt d a m q e => 0x1B#6 ++ d ++ a ++ 0x0#5 ++ m ++ q ++ e ++ 0xA#4
  | .vcmpeq d a b m q e => 0x70#8 ++ d ++ a ++ b ++ m ++ q ++ e ++ 0x0#4
  | .vcmpne d a b m q e => 0x70#8 ++ d ++ a ++ b ++ m ++ q ++ e ++ 0x1#4
  | .vcmplt d a b m q e => 0x70#8 ++ d ++ a ++ b ++ m ++ q ++ e ++ 0x2#4
  | .vcmple d a b m q e => 0x70#8 ++ d ++ a ++ b ++ m ++ q ++ e ++ 0x3#4
  | .vcmpltu d a b m q e => 0x70#8 ++ d ++ a ++ b ++ m ++ q ++ e ++ 0x4#4
  | .vcmpleu d a b m q e => 0x70#8 ++ d ++ a ++ b ++ m ++ q ++ e ++ 0x5#4
  | .vfcmpeq d a b m q e => 0x70#8 ++ d ++ a ++ b ++ m ++ q ++ e ++ 0x8#4
  | .vfcmplt d a b m q e => 0x70#8 ++ d ++ a ++ b ++ m ++ q ++ e ++ 0x9#4
  | .vfcmple d a b m q e => 0x70#8 ++ d ++ a ++ b ++ m ++ q ++ e ++ 0xA#4
  | .vfcmpun d a b m q e => 0x70#8 ++ d ++ a ++ b ++ m ++ q ++ e ++ 0xB#4
  | .mand d a b => 0x70#8 ++ d ++ 0x0#2 ++ a ++ 0x0#2 ++ b ++ 0xC#11
  | .mor d a b => 0x70#8 ++ d ++ 0x0#2 ++ a ++ 0x0#2 ++ b ++ 0xD#11
  | .mxor d a b => 0x70#8 ++ d ++ 0x0#2 ++ a ++ 0x0#2 ++ b ++ 0xE#11
  | .mnot d a => 0x70#8 ++ d ++ 0x0#2 ++ a ++ 0xF#16
  | .ldv d a m e => 0x1D#6 ++ d ++ a ++ 0x0#5 ++ m ++ 0x0#2 ++ e ++ 0x0#4
  | .stv d a m e => 0x1D#6 ++ d ++ a ++ 0x0#5 ++ m ++ 0x0#2 ++ e ++ 0x1#4
  | .ldvs d a b m e => 0x1D#6 ++ d ++ a ++ b ++ m ++ 0x0#2 ++ e ++ 0x2#4
  | .stvs d a b m e => 0x1D#6 ++ d ++ a ++ b ++ m ++ 0x0#2 ++ e ++ 0x3#4
  | .ldvx d a b m e => 0x1D#6 ++ d ++ a ++ b ++ m ++ 0x0#2 ++ e ++ 0x4#4
  | .stvx d a b m e => 0x1D#6 ++ d ++ a ++ b ++ m ++ 0x0#2 ++ e ++ 0x5#4
  | .ldvb d a e => 0x1D#6 ++ d ++ a ++ 0x0#10 ++ e ++ 0x6#4
  | .vxch d n r => 0x1E#6 ++ d ++ 0x0#12 ++ n ++ r
  | .lwin d => 0x1E#6 ++ d ++ 0x1000#21
  | .act a => 0x400#11 ++ a ++ 0x0#16
  | .pre a => 0x400#11 ++ a ++ 0x1#16
  | .tld d a b => 0x20#6 ++ d ++ a ++ b ++ 0x2#11
  | .tldl d a b => 0x20#6 ++ d ++ a ++ b ++ 0x3#11
  | .tst d a b => 0x20#6 ++ d ++ a ++ b ++ 0x4#11
  | .tcpy d a b c n => 0x21#6 ++ d ++ a ++ b ++ c ++ n ++ 0x0#6
  | .tcpym d a b c n => 0x21#6 ++ d ++ a ++ b ++ c ++ n ++ 0x1#6
  | .tfpr d a b => 0x21#6 ++ d ++ a ++ b ++ 0x2#11
  | .rld d a o s => 0x22#6 ++ d ++ a ++ 0x0#8 ++ o ++ s ++ 0x0#4
  | .rstr d a o s => 0x22#6 ++ d ++ a ++ 0x0#8 ++ o ++ s ++ 0x1#4
  | .vrld d a o => 0x22#6 ++ d ++ a ++ 0x0#8 ++ o ++ 0x2#6
  | .vrst d a o => 0x22#6 ++ d ++ a ++ 0x0#8 ++ o ++ 0x3#6
  | .rfaAdd d a b o z => 0x23#6 ++ d ++ a ++ b ++ o ++ z ++ 0x0#8
  | .rfaAnd d a b o z => 0x23#6 ++ d ++ a ++ b ++ o ++ z ++ 0x10#8
  | .rfaOr d a b o z => 0x23#6 ++ d ++ a ++ b ++ o ++ z ++ 0x20#8
  | .rfaXor d a b o z => 0x23#6 ++ d ++ a ++ b ++ o ++ z ++ 0x30#8
  | .rfaMin d a b o z => 0x23#6 ++ d ++ a ++ b ++ o ++ z ++ 0x40#8
  | .rfaMax d a b o z => 0x23#6 ++ d ++ a ++ b ++ o ++ z ++ 0x50#8
  | .rfaMinu d a b o z => 0x23#6 ++ d ++ a ++ b ++ o ++ z ++ 0x60#8
  | .rfaMaxu d a b o z => 0x23#6 ++ d ++ a ++ b ++ o ++ z ++ 0x70#8
  | .rfaSwap d a b o z => 0x23#6 ++ d ++ a ++ b ++ o ++ z ++ 0x80#8
  | .rcas d a b o z => 0x23#6 ++ d ++ a ++ b ++ o ++ z ++ 0x1#8
  | .lrw d a z => 0x23#6 ++ d ++ a ++ 0x0#7 ++ z ++ 0x2#8
  | .sch a b z => 0x460#11 ++ a ++ b ++ 0x0#2 ++ z ++ 0x3#8
  | .send d a b h => 0x24#6 ++ d ++ a ++ b ++ 0x0#2 ++ h ++ 0x0#3
  | .sendm d a b h => 0x24#6 ++ d ++ a ++ b ++ 0x0#2 ++ h ++ 0x1#3
  | .qpush d c => 0x24#6 ++ d ++ 0x0#15 ++ c ++ 0x2#3
  | .qpop d q => 0x24#6 ++ d ++ 0x0#15 ++ q ++ 0x3#3
  | .qpeek d q => 0x24#6 ++ d ++ 0x0#15 ++ q ++ 0x4#3
  | .qbind a b c => 0x480#11 ++ a ++ b ++ 0x0#5 ++ c ++ 0x5#3
  | .mig a => 0x4A0#11 ++ a ++ 0x0#16
  | .migo => 0x94000001#32
  | .home d a => 0x25#6 ++ d ++ a ++ 0x2#16
  | .fence k s => 0x130000#21 ++ k ++ s ++ 0x0#6
  | .binit d a b n => 0x26#6 ++ d ++ a ++ b ++ 0x0#1 ++ n ++ 0x1#6
  | .arrive a n => 0x4C0#11 ++ a ++ 0x0#6 ++ n ++ 0x2#6
  | .arrdrop n => 0x260000#22 ++ n ++ 0x3#6
  | .bwait n => 0x260000#22 ++ n ++ 0x4#6
  | .btest d n => 0x26#6 ++ d ++ 0x0#11 ++ n ++ 0x5#6
  | .abatch => 0x98000006#32
  | .await n => 0x4C0000#23 ++ n ++ 0x7#6
  | .mma c a b k s p t m => 0x27#6 ++ c ++ a ++ b ++ k ++ s ++ p ++ t ++ m ++ 0x0#3
  | .mzero n => 0x140#9 ++ n ++ 0x0#21
  | .mst n a => 0x140#9 ++ n ++ a ++ 0x1#16
  | .mldc a => 0x500#11 ++ a ++ 0x2#16
  | .sptag a b => 0x520#11 ++ a ++ b ++ 0x0#11
  | .spapp d a b => 0x29#6 ++ d ++ a ++ b ++ 0x1#11
  | .spcom a b => 0x520#11 ++ a ++ b ++ 0x2#11
  | .sprej a b => 0x520#11 ++ a ++ b ++ 0x3#11
  | .spretHole d a b => 0x29#6 ++ d ++ a ++ b ++ 0x4#11
  | .spretClose d a b => 0x29#6 ++ d ++ a ++ b ++ 0xC#11
  | .spqry d a b => 0x29#6 ++ d ++ a ++ b ++ 0x5#11
  | .sploc d a b => 0x29#6 ++ d ++ a ++ b ++ 0x6#11
  | .splen d a => 0x29#6 ++ d ++ a ++ 0x7#16
  | .launch d a => 0x2A#6 ++ d ++ a ++ 0x0#16
  | .lwait a => 0x540#11 ++ a ++ 0x1#16
  | .lcancel a l => 0x540#11 ++ a ++ 0x0#7 ++ l ++ 0x2#6
  | .lstat d a => 0x2A#6 ++ d ++ a ++ 0x3#16
  | .treg d a => 0x2A#6 ++ d ++ a ++ 0x4#16
  | .purse d a => 0x2B#6 ++ d ++ a ++ 0x0#16
  | .subs d a => 0x2B#6 ++ d ++ a ++ 0x1#16
  | .unsubs a => 0x560#11 ++ a ++ 0x2#16
  | .crinit d a => 0x2C#6 ++ d ++ a ++ 0x0#16
  | .cradd a b => 0x580#11 ++ a ++ b ++ 0x1#11
  | .crwait a => 0x580#11 ++ a ++ 0x2#16
  | _ => 0x0#32

/-- The four bytes of an instruction as the program store holds them (R77). -/
def encodeBytes (i : Instr) : List Byte :=
  [bits (encode i) 0 8, bits (encode i) 8 8, bits (encode i) 16 8, bits (encode i) 24 8]

end Sys2Proof
end

