-- ==== Sys2Proof/Machine/Tab.lean ====
section
/-!
DEFINITION. Tables of plain data by a natural key, and the byte memory built from them.

A table lists only what differs from its default.  A memory is a list of (address, byte) pairs whose addresses rise and
whose bytes are not zero: an unlisted byte reads zero (log entry 2).
-/
namespace Sys2Proof.Machine

/-- A table by natural keys. -/
abbrev Tab (α : Type) := List (Nat × α)

namespace Tab

/-- The value at a key. -/
def find {α : Type} : Tab α → Nat → Option α
  | [], _ => none
  | (j, v) :: r, k => if j = k then some v else find r k

/-- The value at a key, or a default. -/
def get {α : Type} (t : Tab α) (k : Nat) (d : α) : α := (t.find k).getD d

/-- The table with a value at a key; the keys keep rising. -/
def put {α : Type} : Tab α → Nat → α → Tab α
  | [], k, v => [(k, v)]
  | (j, w) :: r, k, v =>
    if j = k then (k, v) :: r
    else if k < j then (k, v) :: (j, w) :: r
    else (j, w) :: put r k v

/-- The table without a key. -/
def erase {α : Type} (t : Tab α) (k : Nat) : Tab α := t.filter (fun c => c.1 ≠ k)

end Tab

/-- The byte memory of the whole module, by the keys of `Machine/State.lean`. -/
abbrev Memory := List Host.Cell

namespace Memory

/-- What an unlisted byte reads as (log entry 2). -/
def blank : Byte := 0

/-- The byte at an address. -/
def read (m : Memory) (a : Nat) : Byte := Tab.get m a blank

/-- The memory with a byte stored; storing what an unlisted byte reads as removes the entry. -/
def write (m : Memory) (a : Nat) (b : Byte) : Memory := if b = blank then Tab.erase m a else Tab.put m a b

/-- The canonical form: addresses strictly rising, and no byte listed that an unlisted address would read as. -/
def wf : Memory → Bool
  | [] => true
  | [c] => c.2 != blank
  | c :: d :: r => c.2 != blank && c.1 < d.1 && wf (d :: r)

/-- `n` bytes from an address upward. -/
def readBytes (m : Memory) (a : Nat) : Nat → List Byte
  | 0 => []
  | n + 1 => read m a :: readBytes m (a + 1) n

/-- Bytes stored from an address upward. -/
def writeBytes (m : Memory) (a : Nat) : List Byte → Memory
  | [] => m
  | b :: bs => writeBytes (write m a b) (a + 1) bs

/-- The little-endian number of `n` bytes (R11). -/
def readNat (m : Memory) (a n : Nat) : Nat := natOfBytes (readBytes m a n)

/-- A number stored in `n` bytes, little-endian (R11). -/
def writeNat (m : Memory) (a n x : Nat) : Memory := writeBytes m a (bytesOf n x)

/-- Zero in every byte of a range. -/
def clear (m : Memory) (a n : Nat) : Memory := m.filter (fun c => c.1 < a || a + n ≤ c.1)

/-- The range's listed bytes, by their offset in it. -/
def slice (m : Memory) (a n : Nat) : List Host.Cell :=
  (m.filter (fun c => a ≤ c.1 && c.1 < a + n)).map (fun c => (c.1 - a, c.2))

/-- A range written with the bytes of a slice, and zero elsewhere. -/
def putSlice (m : Memory) (a n : Nat) (s : List Host.Cell) : Memory :=
  (s.filter (fun c => c.1 < n)).foldl (fun t c => write t (a + c.1) c.2) (clear m a n)

/-- A range copied to another place. -/
def copy (m : Memory) (src dst n : Nat) : Memory := putSlice m dst n (slice m src n)

end Memory

end Sys2Proof.Machine
end

