-- ==== Sys2Proof/Machine/State.lean ====
section
/-!
DEFINITION. The state of the N1: one module, with everything the spec gives it, as plain data.

Core indices run in plate order: 1 024 x plate + 32 x (y mod 32) + (x mod 32), plates in row-major order (R313, R443
step 6); a logical core number is that index less the inactive columns before it.

Memory keys: core c owns the keys from 2^25 x c: its vault at +0 (R235), its till at +2^24 (R228), its program store at
+2^24 + 2^17 (R77), its B latch at +2^24 + 2^18 (R251); hub h's DRAM starts at 2^50 + h x 2^48 (R469).
-/
namespace Sys2Proof.Machine

/-! ### Registers of a context -/

/-- The register file of a context (Table 1.1).  The teller uses g0-g31, v0-v7 and m0 of its own (R21). -/
structure Ctx where
  /-- g0-g31; element 0 is never read or written (Table 1.1). -/
  g : Vector Word 32
  /-- v0-v31. -/
  v : Vector Row 32
  /-- m0-m7; element 0 is never read or written (Table 1.1). -/
  m : Vector Word 8
  /-- k0-k3. -/
  k : Vector (BitVec 32) 4
  /-- fd0-fd7. -/
  fd : Vector (BitVec 32) 8
  pc : BitVec 15
  /-- STATUS[4:0]: PMODE, STEP, VEVTRAP, AUTOMIG, MODE (Table 1.3). -/
  status : BitVec 5
  /-- FPMODE[12:0] (Table 1.4). -/
  fpmode : BitVec 13
deriving DecidableEq, Repr

/-- The register file with every register zero and STATUS and FPMODE at reset (Tables 1.1 to 1.4). -/
def Ctx.zero : Ctx :=
  ⟨Vector.replicate 32 0, Vector.replicate 32 0, Vector.replicate 8 0, Vector.replicate 4 0, Vector.replicate 8 0, 0, 0, 0⟩

/-- The states of a slot (Table 10.1). -/
inductive Phase where
  | empty | placing | restore | run | drain
deriving DecidableEq, Repr

/-- An outbound channel (R24); `gen` counts its bindings, so that credits of an earlier one are told apart (R181). -/
structure Chan where
  bound : Bool
  mod : BitVec 8
  core : BitVec 18
  queue : BitVec 3
  free : Nat
  gen : Nat
deriving DecidableEq, Repr

/-- An unbound channel with a count of 16 (R36). -/
def Chan.reset : Chan := ⟨false, 0, 0, 0, 16, 0⟩

/-- Where an operation's result goes. -/
inductive Dest where
  | none
  | g (r : BitVec 5)
  | v (r : BitVec 5)
  /-- The resident trap code takes it (R412). -/
  | code
deriving DecidableEq, Repr

/-- How far a slot's resident trap code has come (Table 17.1): the part of the action, what it has read last, and what it keeps. -/
structure TrapWork where
  stage : Nat
  value : Word
  keep : Word
  /-- The trap was raised by a fault record (R170). -/
  record : Bool
deriving DecidableEq, Repr

/-- A fault record (R170), with what decides where it traps. -/
structure FaultRec where
  addr : Word
  cause : BitVec 8
  sub : BitVec 8
  pc : BitVec 15
  batch : Nat
  barrier : Option (Fin 16)
  dest : Dest
deriving DecidableEq, Repr

/-- The nest state and the iteration fetcher of a slot (R114 to R118). -/
structure Nest where
  ctr : Word
  e : Vector (BitVec 32) 4
  b : Vector (BitVec 32) 4
  p : BitVec 24
  cmin : BitVec 24
  f : BitVec 8
  valid : Bool
  queueMode : Bool
  queue : BitVec 3
  exhausted : Bool
  /-- The current chunk is [first, last). -/
  first : BitVec 48
  last : BitVec 48
  /-- A claim is in flight. -/
  pending : Bool
  /-- The chunk has not yet been taken up by a NEXT, which a recording logs (Table 20.7, kind 4). -/
  fresh : Bool
  /-- The cause and subcode a claim returned in place of a chunk. -/
  fault : Option (BitVec 8 × BitVec 8)
deriving DecidableEq, Repr

/-- No nest. -/
def Nest.none : Nest :=
  ⟨0, Vector.replicate 4 0, Vector.replicate 4 0, 0, 0, 0, false, false, 0, false, 0, 0, false, false, .none⟩

/-- An RPT that has issued and whose frame words are issuing (R111): its fields; the progress is in its count register. -/
structure Rpt where
  c : BitVec 5
  n : BitVec 4
  sd : BitVec 2
  sa : BitVec 2
  sb : BitVec 2
deriving DecidableEq, Repr

/-- A row step that has been requested and not yet written (R242): its vault address and memory key, the bytes read, its coins, and
whether the beat is uncorrectable. -/
structure RowReq where
  va : Word
  key : Nat
  row : Row
  coins : Nat
  bad : Bool
deriving DecidableEq, Repr

/-- A running TLD, TLDL or TST (R165). -/
structure Tile where
  kind : Fin 3
  d : BitVec 5
  a : BitVec 5
  b : BitVec 5
  first : Bool
  /-- The steps in flight, oldest first (R242). -/
  data : List RowReq
  /-- It stalls on a cell that has not yet cooled below 100 C (R165). -/
  hot : Bool
  /-- The bank and row that its last implied activation opened (R241). -/
  opened : Option (Nat × BitVec 8)
  /-- A step's checks have failed: the trap to raise once the steps in flight are written, or none for a remote page (R243). -/
  fail : Option (Option (BitVec 8 × BitVec 8 × Word))
  /-- A TLDL that waits for the commands queued before it (R165, R252). -/
  waits : Bool
deriving DecidableEq, Repr

/-- Why a slot leaves its core (R285, R324). -/
inductive Leave where
  /-- MIG or MIGO, which has retired: the unit resumes behind it. -/
  | mig
  /-- An AUTOMIG access: it is executed again at the destination. -/
  | automig
  /-- A move ordered by the hub, or forced off a hot cell. -/
  | moved
  /-- A pre-emption; the job its coins are counted to, or none for housekeeping (R328). -/
  | preempt (job : Option (BitVec 24))
deriving DecidableEq, Repr

/-- The matrix part of a context image: of the owner that leaves, or to be loaded when the slot becomes the owner (R38). -/
structure MatrixImage where
  acc : List (BitVec 32)
  cfg : List Byte
  prog : List Byte
deriving DecidableEq, Repr

/-- A slot on its way out: why, where to (global core address), and how far it has come (Table 10.6). -/
structure Leaving where
  why : Leave
  dest : BitVec 26
  /-- 0 drain, 1 reserve, 2 reserve asked, 3 transfer, or the writing of a save. -/
  stage : Nat
  /-- The answer of step 4: the destination slot, or none for PARK. -/
  answer : Option (Option (Fin 4))
  /-- Messages of image and lease sent, or blocks saved, so far. -/
  sent : Nat
  /-- The matrix state of a unit that was the owner (Table 10.6, step 3). -/
  matrix : Option MatrixImage
deriving DecidableEq, Repr

/-- What goes with a context image and has no place in it: the binding counts of the unit's channels (R181), the instruction that produced its
PC (R23), the cycle of its placement or restore (R324), and how far its resident trap code has come (R412). -/
structure Beside where
  gens : List Nat
  lastPc : BitVec 15
  since : Nat
  work : Option TrapWork
deriving DecidableEq, Repr

/-- Nothing beside an image. -/
def Beside.none : Beside := ⟨[], 0, 0, .none⟩

/-- A saved unit of a launch: where its record lies (R326, R329). -/
structure SavedUnit where
  unit : BitVec 24
  core : Nat
  /-- The image record of the save set; none when the unit lies in the park area (R330). -/
  slot : Option (Fin 4)
  part : Nat
  leaseBase : Nat
  leaseSize : Nat
  beside : Beside
  /-- Held in hub DRAM by the device runtime (R327). -/
  hub : Option (List Byte × List Host.Cell)
  /-- Coins charged to the unit that its image does not count (R286). -/
  spent : Nat
deriving DecidableEq, Repr

/-- An incoming context: its image and lease as far as they have come, and whether they are whole and the slot may resume
(Table 10.6, steps 5 to 7). -/
structure Incoming where
  why : Leave
  image : List Byte
  lease : List Host.Cell
  leaseBase : Nat
  leaseSize : Nat
  beside : Beside
  whole : Bool
  go : Bool
  /-- Messages, or chunks of a save record, taken so far. -/
  got : Nat
  /-- Coins charged to the unit that its image does not count (R286, R328). -/
  spent : Nat
  /-- A restore: the save record that it comes from, and the chunks asked for (R329). -/
  saved : Option (SavedUnit × Nat)
deriving DecidableEq, Repr

/-- An entry of a unit's log (R460): INSTRET before the event, its kind (Table 20.7) and payload. -/
structure LogEntry where
  instret : Word
  kind : Nat
  payload : List Byte
deriving DecidableEq, Repr

/-- One thread slot (R19, R21, R24, Table 1.2). -/
structure Slot where
  phase : Phase
  ctx : Ctx
  trapcause : BitVec 16
  trappc : BitVec 15
  trapval : Word
  trapvec : BitVec 15
  unitid : BitVec 24
  launchid : BitVec 32
  jobid : BitVec 24
  /-- LEASE[16:6] and LEASE[42:32]. -/
  leaseBase : BitVec 11
  leaseSize : BitVec 11
  heatcls : BitVec 2
  origin : BitVec 26
  coinspent : Word
  instret : Word
  /-- Units per core of the unit's kernel (R231). -/
  upc : Nat
  chans : Vector Chan 8
  nest : Nest
  /-- Scoreboard marks on g and v registers (R27). -/
  marksG : BitVec 32
  marksV : BitVec 32
  /-- Sequence number of the open batch, and whether anything has joined it (R167). -/
  batch : Nat
  batchUsed : Bool
  /-- The held fault record (R170), and the more-faults flag of the image that the slot was restored from (Table 6.6). -/
  fault : Option FaultRec
  moreFaults : Bool
  /-- A barrier ticket per barrier (R186). -/
  tickets : Vector (Option (BitVec 32)) 16
  /-- The phase a BWAIT waits past: P at issue, or the ticket (R190). -/
  bwait : Option (Fin 16 × BitVec 32)
  /-- The address of the instruction that produced the PC (R23). -/
  lastPc : BitVec 15
  /-- A BWAIT, AWAIT, LWAIT or CRWAIT at the PC has issued and waits (R40 item 6). -/
  waiting : Bool
  /-- The slot has executed YIELD and the ring has not passed it since (R122). -/
  yielded : Bool
  /-- The last retired instruction was a unit-mode one under STATUS.STEP, so a STEP trap is due (R121). -/
  stepDue : Bool
  rpt : Option Rpt
  tile : Option Tile
  /-- The address of the LRW that parks the slot (R179). -/
  lrw : Option Word
  leaving : Option Leaving
  incoming : Option Incoming
  /-- The unit waits for matrix ownership with this image (R38). -/
  restoreOwn : Option MatrixImage
  /-- The cycle in which the unit was placed or restored (R324). -/
  since : Nat
  /-- Resumed from a stop: the next instruction passes the breakpoint or watchpoint that stopped the slot (R455). -/
  resumed : Bool
  /-- Its next access has met its watchpoint already and issues (R455). -/
  watchMet : Bool
  /-- A co-resident launch holds the first BWAIT until every unit is placed (R323). -/
  firstBwait : Bool
  /-- Up to eight P-class routes in use: VPN key, destination core, requests outstanding (R353). -/
  holds : List (Nat × Nat × Nat)
  /-- The slot replays a recorded unit, with the entries of its log still to come (R462). -/
  replaying : Option (List LogEntry)
  /-- The resident trap code is at work (R412). -/
  trapWork : Option TrapWork
deriving DecidableEq, Repr

/-- An empty slot (Tables 1.2 and 10.1; log entry 3 for the registers without a reset value). -/
def Slot.reset : Slot :=
  { phase := .empty, ctx := Ctx.zero, trapcause := 0, trappc := 0, trapval := 0, trapvec := 0x6000, unitid := 0,
    launchid := 0, jobid := 0, leaseBase := 0, leaseSize := 0, heatcls := 0, origin := 0, coinspent := 0, instret := 0,
    upc := 1, chans := Vector.replicate 8 Chan.reset, nest := Nest.none, marksG := 0, marksV := 0, batch := 0,
    batchUsed := false, fault := none, moreFaults := false, tickets := Vector.replicate 16 none, bwait := none, lastPc := 0, waiting := false, yielded := false,
    stepDue := false, rpt := none, tile := none, lrw := none, leaving := none, incoming := none, restoreOwn := none,
    since := 0, resumed := false, watchMet := false, firstBwait := true, holds := [], replaying := none, trapWork := none }

/-! ### Messages -/

/-- Read-modify-write operations (R160, R178). -/
inductive RmwOp where
  | add | and | or | xor | min | max | minu | maxu | swap | cas
deriving DecidableEq, Repr

/-- The span instructions (Table 7.7). -/
inductive SpanOp where
  | tag | app | com | rej | retHole | retClose | qry | loc | len
deriving DecidableEq, Repr

/-- The sender of a request: core index, slot (4 for a teller), the operation's number, and whose unit it is. -/
structure Req where
  core : Nat
  slot : Nat
  op : Nat
  job : BitVec 24
  launch : BitVec 32
  unit : BitVec 24
deriving DecidableEq, Repr

/-- A request at the distributor root (R310). -/
inductive RootReq where
  | launch (src : Req) (desc : List Byte)
  | cancel (src : Req) (level : Nat) (num : BitVec 32)
  | lstat (src : Req) (num : BitVec 32)
  | treg (src : Req) (record : List Byte)
  | purse (src : Req) (sel : Word)
  | subs (src : Req) (record : List Byte)
  | unsubs (src : Req) (num : BitVec 8)
  | crinit (src : Req) (desc : List Byte)
  | cradd (src : Req) (slot num k : Nat) (data : List Byte)
  | completion (src : Req)
deriving DecidableEq, Repr

/-- A fault that a reply carries: cause, subcode, address. -/
structure FaultInfo where
  cause : BitVec 8
  sub : BitVec 8
  addr : Word
deriving DecidableEq, Repr

/-- A local side of a copy: the core, the local address of the first block, and the core whose till a window of it showed at issue
(R299). -/
structure CopySide where
  core : Nat
  addr : Word
  via : Option Nat
deriving DecidableEq, Repr

/-- Page service requests (Tables 4.18 and 13.4); a PMAP names pages of its sender's job. -/
inductive PageReq where
  | pmap (va : Word) (op : BitVec 4) (arg : BitVec 8) (second : Word) (badBits : Bool)
  | map (job : BitVec 24) (vpn : BitVec 33) (cls : BitVec 2) (rd w : Bool) (key : BitVec 6) (home : Option (BitVec 26))
  | unmap (job : BitVec 24) (vpn : BitVec 33)
  | rehome (job : BitVec 24) (vpn : BitVec 33) (home : BitVec 26)
  | cowbreak (job : BitVec 24) (vpn : BitVec 33)
deriving DecidableEq, Repr

/-- A page entry and a vault map entry (Table 13.2). -/
structure PageEntry where
  job : BitVec 24
  vpn : BitVec 33
  mod : BitVec 8
  core : BitVec 18
  frame : BitVec 8
  share : BitVec 10
  pin : BitVec 8
  key : BitVec 6
  cls : BitVec 2
  cow : Bool
  w : Bool
  rd : Bool
  large : Bool
  /-- 1 mapped, 2 moving, 3 unmapping. -/
  st : BitVec 3
deriving DecidableEq, Repr

/-- What a message between a page's home and its clearing core in another module asks (log entry 8). -/
inductive EntryNews where
  /-- The home enters the page with a zeroed frame, writes the entry as it is given, or removes it. -/
  | enter | write | remove
  /-- The old home begins to copy the page's frame to a new home (Table 13.3, step 3), and sends the status to the requester named. -/
  | move (home : BitVec 26) (frame : BitVec 8) (reply : Option (Req × Option Word))
  /-- The clearing core writes the entry as its home has it; of a move that has been copied, the old home and the move's number there. -/
  | clearing (move : Option (Nat × Nat))
deriving DecidableEq, Repr

/-- What a message holds.  The first group goes to a teller (Table 10.3); the second to a slot, a queue or a channel. -/
inductive Body where
  /-- SEND, SENDM: the payload flits (R180); to a resident handler in system mode, a request in the handler's own layout. -/
  | user (payload : List Byte)
  /-- RLD (n = 1, 2, 4, 8) and VRLD (n = 64). -/
  | load (va : Word) (n : Nat)
  | store (va : Word) (data : List Byte)
  | rmw (va : Word) (dword : Bool) (op : RmwOp) (x y : Word)
  /-- A nest claim (R116). -/
  | claim (va : Word) (n p f cmin : Nat)
  | lrw (va : Word) (dword : Bool)
  | sch (va : Word) (dword : Bool) (x : Word)
  /-- The n bytes of a TCPY or TCPYM whose global source lies in one page: the blocks already sent, whether the next one comes by itself
  from another module, and where they go. -/
  | tileRead (va : Word) (n done : Nat) (one : Bool) (targets : List CopySide) (barrier : Option (Fin 16))
  /-- The n bytes of a TCPY whose global target lies in one page: the blocks already written, whether the next one comes by itself from
  another module, and where they come from, or that block once the message has left its module. -/
  | tileWrite (va : Word) (n done : Nat) (one : Bool) (source : CopySide) (data : List Byte) (barrier : Option (Fin 16))
  /-- TFPR: the blocks already taken in, and the CRC over them; a local range names its side of the copy. -/
  | fpr (va : Word) (n done : Nat) (crc : Word) (source : Option CopySide)
  /-- A span instruction to the pool's entry core, and then to the sequence home (R210). -/
  | span (op : SpanOp) (handle arg : Word) (desc query : List Byte)
  | spanHome (op : SpanOp) (handle arg : Word) (desc query : List Byte)
  /-- Orders of a sequence home to a span home (R374, R376, R378): the slot in the home's own range, and the sequence
  home; their sender is the slot whose instruction they serve. -/
  | spanOpen (pool : BitVec 16) (slot : Nat) (header : List Byte) (home : Nat)
  | spanCount (pool : BitVec 16) (slot count : Nat) (home : Nat)
  | spanRetire (pool : BitVec 16) (slot : Nat) (home : Nat)
  /-- Such an order for a page that moves or has moved: what it writes and where. -/
  | spanStore (va : Word) (data : List Byte) (home : Nat)
  /-- A query message to a user handler: the span record and the query, the sequence home, and whose SPQRY it is (R381). -/
  | query (payload : List Byte) (home : Nat) (sid : BitVec 32) (req : Req)
  /-- A query at its sequence home with the messages still to be sent: the user handler, and each span home with its payload. -/
  | querySend (handler : BitVec 6) (left : List (Nat × List Byte)) (sid : BitVec 32)
  /-- A page service request to a clearing core; the reply goes to an address or to a slot. -/
  | page (r : PageReq) (replyTo : Option Word)
  /-- One copy message of a rehoming or a copy-on-write break, of eight blocks (R354, R364), from an old home: the bytes, and which of its
  blocks are uncorrectable. -/
  | rehomeCopy (job : BitVec 24) (vpn : BitVec 33) (old : Nat) (index : Nat) (data : List Byte) (bad : List Nat)
  /-- A copy message cannot reach the new home of a page, for its old home (R365, R480); a message of a migration cannot reach its
  destination, for its source (R480). -/
  | moveFail (job : BitVec 24) (vpn : BitVec 33) (fault : FaultInfo)
  | migFail (slot : Nat) (fault : FaultInfo)
  /-- COWBREAK's BREAK to the home of the frame (R364). -/
  | cowBreak (job : BitVec 24) (vpn : BitVec 33) (replyTo : Option Word)
  /-- A shoot-down for a clearing core, and its acknowledgement (R358); of a move, with the old home and the move's number there. -/
  | shootdown (job : BitVec 24) (vpn : BitVec 33) (clearing : Nat) (move : Option (Nat × Nat))
  | shootAck (job : BitVec 24) (vpn : BitVec 33) (clearing : Nat) (move : Option (Nat × Nat))
  /-- A page whose home and clearing core lie in two modules: what becomes of its entry at the receiver (R341; log entry 8). -/
  | entryAt (p : PageEntry) (what : EntryNews)
  /-- A request to the distributor root of another module: of a unit whose job was opened there (R341, R481; log entry 8). -/
  | ask (r : RootReq)
  | arrive (b : Fin 16)
  | push (b : Fin 16) (p : BitVec 32)
  /-- Migration: the request of step 4, and the image and lease of step 5 (R285). -/
  | migAsk (slot : Nat) (unit : BitVec 24) (launch : BitVec 32) (upc leaseSize : Nat) (heat : BitVec 2)
  | migAnswer (slot : Nat) (grant : Option (Fin 4)) (answerer : BitVec 26)
  | migImage (slot : Option (Fin 4)) (index : Nat) (last : Bool) (why : Leave) (image : List Byte) (lease : List Host.Cell)
      (leaseBase leaseSize upc : Nat) (beside : Beside) (coins : Nat)
  /-- A restore asks the save record's core for its next chunk (R329): the record, the chunk and the slot that takes it. -/
  | restoreAsk (u : SavedUnit) (index : Nat) (slot : Fin 4)
  /-- Replies: data of a load or read-modify-write, an acknowledgement, a claim's chunk, a granted reservation, a deferred
  result; each with the page's home for the hints (R351), or a fault. -/
  | reply (data : List Byte) (home : Option (Nat × BitVec 26)) (fault : Option FaultInfo)
  | ack (home : Option (Nat × BitVec 26)) (fault : Option FaultInfo)
  /-- The request that a SEND made of a resident handler has faulted (R284). -/
  | sendFault (fault : FaultInfo)
  | claimReply (c size : Nat) (home : Option (Nat × BitVec 26)) (fault : Option FaultInfo)
  | grant (data : List Byte) (home : Option (Nat × BitVec 26)) (fault : Option FaultInfo)
  | deferred (x : Word) (fault : Option FaultInfo)
  /-- The result of a TFPR over a global range, with the coins that its sender still owes for it when it comes from another module. -/
  | fprReply (x : Word) (coins : Nat) (home : Option (Nat × BitVec 26))
  /-- A copied block on its way to a till (R174): the core whose till a window showed at issue, the coins that its sender still owes
  for its step when it comes from another module, and the page that it was read from with the page's home. -/
  | block (dst : Word) (via : Option Nat) (data : List Byte) (coins : Nat) (barrier : Option (Fin 16)) (page : Option (Nat × BitVec 26))
  /-- A block forwarded to a unit that has moved (R287). -/
  | blockFor (launch : BitVec 32) (unit : BitVec 24) (dst : Word) (data : List Byte) (barrier : Option (Fin 16))
      (page : Option (Nat × BitVec 26))
  /-- The home's word on so many blocks of a copy: written, or not for a fault. -/
  | blockAck (blocks : Nat) (barrier : Option (Fin 16)) (home : Option (Nat × BitVec 26)) (fault : Option FaultInfo)
  /-- A queue entry (R182), and so many credits (R248). -/
  | entry (q : Fin 8) (data : Row) (chan : Fin 8) (gen : Nat)
  | credit (chan : Fin 8) (n gen : Nat) (unit : BitVec 24) (launch : BitVec 32)
deriving DecidableEq, Repr

/-- A message in the mesh: destination core index, handler (for a teller), sender, contents. -/
structure Msg where
  dst : Nat
  handler : BitVec 6
  src : Req
  body : Body
deriving DecidableEq, Repr

/-! ### What a core holds -/

/-- A running activation of the teller (R281): the handler, the landing buffer and the message. -/
structure Activation where
  handler : BitVec 6
  buffer : Fin 8
  msg : Msg
  /-- Instructions issued in this activation (R283). -/
  count : Nat
  /-- The job the entry belongs to (Table 10.2). -/
  job : BitVec 24
deriving DecidableEq, Repr

/-- An entry of an inbound queue (R247) and the channel it came from (R248). -/
structure QEntry where
  data : Row
  srcCore : Nat
  srcSlot : Nat
  chan : Fin 8
  gen : Nat
  unit : BitVec 24
  launch : BitVec 32
deriving DecidableEq, Repr

/-- A core barrier (R186). -/
structure Barrier where
  p : BitVec 32
  ea : BitVec 24
  eb : BitVec 40
  ca : Nat
  cb : Nat
  dr : Nat
  mm : BitVec 8
deriving DecidableEq, Repr

def Barrier.reset : Barrier := ⟨0, 0, 0, 0, 0, 0, 0⟩

/-- What has reached a barrier in one cycle (R189): the cycle, the barrier as it was before, and the arrivals, bytes and drops. -/
structure BarSum where
  cycle : Word
  base : Barrier
  ca : Nat
  cb : Nat
  dr : Nat
deriving DecidableEq, Repr

/-- What an outstanding asynchronous operation does when it completes. -/
inductive OpKind where
  /-- RLD, VRLD, LRW: a marked destination; a word result is sign-extended when told so. -/
  | marked (n : Nat) (sext : Bool)
  /-- RFA, RCAS: a marked destination, sign-extended when of a word. -/
  | rmw (n : Nat) (sext : Bool)
  /-- RSTR, VRST, SCH. -/
  | write
  /-- TCPY, TCPYM. -/
  | copy
  /-- TFPR, PMAP and the deferred results of 07 (R193). -/
  | result
  /-- SEND, SENDM, remote ARRIVE, CRADD, span operations without a result. -/
  | sent
  /-- MTX commands. -/
  | matrix
deriving DecidableEq, Repr

/-- A copy with local sides only (R172, R173): its n bytes, of which the first blocks have been read and sent. -/
structure LocalCopy where
  src : Req
  source : CopySide
  targets : List CopySide
  n : Nat
  done : Nat
  barrier : Option (Fin 16)
deriving DecidableEq, Repr

/-- An entry of the in-flight table (R458, Table 20.5). -/
structure Op where
  id : Nat
  slot : Fin 4
  batch : Nat
  kind : OpKind
  addr : Word
  /-- Bytes from that address on that the operation names. -/
  bytes : Nat
  pc : BitVec 15
  /-- The instruction's word, for MAJOR and FN of Table 20.5. -/
  word : InstrWord
  dest : Dest
  barrier : Option (Fin 16)
  /-- Pieces still to complete: blocks, addressees. -/
  left : Nat
  /-- The route hold's VPN key, for a P-class request (R353). -/
  route : Option Nat
  /-- A FAULT entry, or the lowest fault seen so far by an operation of several pieces. -/
  fault : Option FaultInfo
  /-- The entry's STATE is FAULT. -/
  failed : Bool
deriving DecidableEq, Repr

/-- A route hint (R350). -/
structure Hint where
  job : BitVec 24
  vpn : BitVec 33
  home : BitVec 26
deriving DecidableEq, Repr

/-- An entry of the stub table (R287, R357). -/
inductive Stub where
  | page (job : BitVec 24) (vpn : BitVec 33) (home : BitVec 26)
  | context (launch : BitVec 32) (unit : BitVec 24) (part : Nat) (upc : Nat) (core : Nat) (slot : Option (Fin 4))
deriving DecidableEq, Repr

/-- A handler table entry (Table 10.2). -/
structure Handler where
  job : BitVec 24
  valid : Bool
  entry : BitVec 15
deriving DecidableEq, Repr

/-- A reservation queue at a home (R179): the doubleword, its holder and the waiting requests, oldest first. -/
structure Resv where
  job : BitVec 24
  va : Word
  holder : Option (BitVec 32 × BitVec 24 × Nat)
  waiting : List (Req × Word × Bool)
deriving DecidableEq, Repr

/-- A rehoming, or the copy of a copy-on-write break, in progress at the old home (R354, R364). -/
structure Rehome where
  /-- The move's number at its old home. -/
  id : Nat
  job : BitVec 24
  vpn : BitVec 33
  /-- Global core address and frame at the new home. -/
  newHome : BitVec 26
  newFrame : BitVec 8
  oldFrame : BitVec 8
  large : Bool
  /-- Copy messages written at the new home. -/
  copied : Nat
  /-- The step of Table 13.3: 4 copying, 5 copied and, once the new home's entry is mapped, 6 while held requests are forwarded, 7
  waiting for the shoot-down. -/
  step : Nat
  /-- Every page of the frame (R485); for a break, the page alone. -/
  pages : List (BitVec 24 × BitVec 33)
  /-- The request, and where its status goes. -/
  reply : Option (Req × Option Word)
  /-- True for a copy-on-write break, which copies to a new frame (R364). -/
  cow : Bool
  /-- Shoot-downs still to be acknowledged. -/
  acks : Nat
  /-- The job that pays, or none for housekeeping (R356). -/
  payer : Option (BitVec 24)
deriving DecidableEq, Repr

/-- A shoot-down that a core has passed on (R358): whom it tells at the end, and the children still due. -/
structure Shoot where
  job : BitVec 24
  vpn : BitVec 33
  clearing : Nat
  move : Option (Nat × Nat)
  parent : Nat
  due : Nat
deriving DecidableEq, Repr

/-- The matrix configuration block (Table 7.3). -/
structure MCfg where
  afmt : BitVec 8
  bfmt : BitVec 8
  ofmt : BitVec 8
  weight : BitVec 8
  adesc : BitVec 32
  bdesc : BitVec 32
  odesc : BitVec 32
  tscale : BitVec 32
  ostride : BitVec 32
  astride : BitVec 32
  bstride : BitVec 32
deriving DecidableEq, Repr

/-- The defaults of Table 7.3. -/
def MCfg.default : MCfg := ⟨0, 0, 6, 1, 0, 0, 0, 0x3F800000, 32, 4096, 4096⟩

/-- The recurrence microprogram (Table 7.4). -/
structure MProg where
  domain : BitVec 8
  combine : BitVec 8
  reduce : BitVec 8
  accum : BitVec 8
  ident : BitVec 32
deriving DecidableEq, Repr

/-- The defaults of Table 7.4. -/
def MProg.default : MProg := ⟨0, 0, 0, 0, 0⟩

/-- A queued MTX command (R194, R201 to R209). -/
inductive MtxCmd where
  | mma (acc : Fin 4) (a b sa sb : Word) (n : Nat) (bsrc : BitVec 2) (q : Fin 8) (pass scaled rec : Bool) (t : Nat) (op : Nat)
  | mzero (acc : Fin 4)
  | mst (acc : Fin 4) (addr : Word) (op : Nat)
  | mldc (addr : Word) (op : Nat)
  | mcfg (c : MCfg)
  | mprog (p : MProg)
deriving DecidableEq, Repr

/-- A vault bank (R235 to R246; 18_repair_harvest.md). -/
structure Bank where
  /-- The open row. -/
  row : Option (BitVec 8)
  /-- A refresh that met an open row has begun: the row's reopening is still to be charged (R244). -/
  refresh : Bool
  /-- The cycle of the last activation (R238). -/
  lastAct : Nat
  /-- Rows marked as awaiting repair (R246, R430). -/
  awaiting : List (BitVec 8)
  /-- Spare rows used (R431), and rows with no spare left (R432). -/
  sparesUsed : Nat
  withdrawn : List (BitVec 8)
  /-- Lane groups steered (R433). -/
  lanes : List (Fin 9)
  /-- 0 in service, 1 retiring, 2 retired (R434, R436). -/
  spoke : Nat
  /-- The ACTs (of a row) and PREs that a tile instruction's row holds back, oldest first (R241). -/
  held : List (Option (BitVec 8))
  /-- Rows that gave corrections in the last scrub of them (R430). -/
  suspect : List (BitVec 8)
  /-- Lane groups of the corrections of this scrub pass (R433). -/
  laneHits : List Nat
  /-- The cycle in which the last steering ends: until then the bank accepts nothing (R433). -/
  steerEnd : Nat
deriving DecidableEq, Repr

/-- A bank after the boot test: no row open. -/
def Bank.reset : Bank := ⟨none, false, 0, [], 0, [], [], 0, [], [], [], 0⟩

/-- The teller's registers and its activation (R20, R21, R281). -/
structure Teller where
  ctx : Ctx
  act : Option Activation
  /-- TSTOP has stopped it (R455). -/
  stopped : Bool
deriving DecidableEq, Repr

/-- A grant a lit core holds (R296): the direction (0 N, 1 E, 2 S, 3 W), the lender and the launch. -/
structure Grant where
  dir : Fin 4
  lender : Nat
  launch : BitVec 32
deriving DecidableEq, Repr

/-- A span pool as its entry core and its members keep it (R369). -/
structure Pool where
  base : Word
  first : BitVec 18
  nmem : Nat
  layers : Nat
  kvh : Nat
  efmt : Nat
  dh : Nat
  key : BitVec 6
  edesc : BitVec 32
  spm : Nat
  maxseq : Nat
  job : BitVec 24
  pool : BitVec 16
  /-- A POOLSIZE is moving the pool to this member count (R385), and the REPLY of that request. -/
  resizing : Option (Nat × Word)
  /-- The slot at its new home of the span that moves, and the messages of eight blocks copied. -/
  moveTo : Option (Nat × Nat)
  /-- Members that have still to write the status of a POOLSIZE that has ended, with the status and the request's REPLY (R369). -/
  owed : List (Nat × Nat × Word)
deriving DecidableEq, Repr

/-- A directory entry of a sequence (R372), with the slot that holds the span at each layer's home. -/
structure SpanDir where
  first : Nat
  count : Nat
  tagc : BitVec 3
  tagi : BitVec 16
  live : Bool
  slots : List Nat
deriving DecidableEq, Repr

/-- A sequence record (R372). -/
structure Seq where
  job : BitVec 24
  pool : BitVec 16
  sid : BitVec 32
  nextpos : Nat
  cl : Nat
  tl : Nat
  tag : BitVec 3 × BitVec 16
  /-- The open span's index. -/
  openSpan : Option Nat
  dir : List SpanDir
  /-- Slots of the home's own range that hold the directory. -/
  dirSlots : List Nat
  /-- Requests that wait for homes or landings: the request, its result, and what is still due. -/
  pend : List (Req × Word × Nat)
  /-- DROP has deleted the sequence; the record stays until its spans are retired. -/
  dropped : Bool
deriving DecidableEq, Repr

/-- A park record (R289): the image and lease lie in the vault's system area. -/
structure Parked where
  launch : BitVec 32
  unit : BitVec 24
  upc : Nat
  /-- The image record and the first 64-byte granule of the park lease area; none when the device runtime holds the context
  in hub DRAM. -/
  place : Option (Fin 3 × Nat)
  /-- The context as it comes in; one that lies in the park area leaves its image and lease there. -/
  inc : Incoming
  /-- Saved where it lies by a pre-emption (R330). -/
  saved : Bool
deriving DecidableEq, Repr

/-- The debug module (Table 20.3). -/
structure Debug where
  sel : BitVec 2
  tstop : Bool
  brkcap : Bool
  sstep : BitVec 4
  halt : BitVec 4
  /-- DBGSTAT[31:16]: the stop reason of each slot (Table 20.4). -/
  reason : Vector (BitVec 4) 4
  bp : Vector Word 4
  wp : Vector Word 2
  /-- TRCTL[47:16] and TRCTL[3:0]. -/
  trPage : BitVec 32
  trSlots : BitVec 4
  trOver : BitVec 32
  trHead : BitVec 12
  /-- The trace page has been written to its end once. -/
  trWrapped : Bool
  /-- Writes to a stopped slot's image, applied when it resumes: slot, offset, doubleword. -/
  imageWrites : List (Fin 4 × Nat × Word)
deriving DecidableEq, Repr

def Debug.reset : Debug :=
  ⟨0, false, false, 0, 0, Vector.replicate 4 0, Vector.replicate 4 0, Vector.replicate 2 0, 0, 0, 0, 0, false, []⟩

/-- One core: slots, teller and everything its instructions reach (R25; chapters 06, 08, 10, 13, 14, 18, 20). -/
structure Core where
  slots : Vector Slot 4
  teller : Teller
  queues : Vector (List QEntry) 8
  barriers : Vector Barrier 16
  /-- The last cycle's update of each barrier (R189). -/
  barSums : Tab BarSum
  /-- acc0-acc3, 8 x 8 words each, row-major (R25, R488). -/
  acc : Vector (Vector (BitVec 32) 64) 4
  /-- The MTX command queue, oldest first (R25, R194). -/
  mtxQ : List MtxCmd
  /-- The matrix configuration in force, and the one a newly queued command will use (R197, R202). -/
  cfg : MCfg
  cfgQueued : MCfg
  prog : MProg
  owner : Option (Fin 4)
  /-- The ring position at which the next search starts (R39). -/
  ring : Fin 6
  vaultMap : List PageEntry
  /-- Page entries held as clearing core (R342, R343). -/
  pages : List PageEntry
  hints : Vector (Option Hint) 16
  hintPtr : Fin 16
  /-- The wake flag (R359). -/
  wake : Bool
  stubs : List Stub
  handlers : Tab Handler
  resvs : List Resv
  /-- Landed messages that wait for the teller, oldest first, by landing buffer (R278). -/
  landed : List (Fin 8 × Msg)
  /-- The cycle of the last landing, and how many of the youngest landed messages landed in it (R268). -/
  fresh : Word × Nat
  /-- The in-flight table (R458) and the next operation's number. -/
  ops : List Op
  nextOp : Nat
  /-- Copies with local sides only whose blocks are still to be read, oldest first. -/
  copies : List LocalCopy
  /-- The SENDs of the slots here to resident handlers, whose requests may fault after the SEND is complete (R284). -/
  sends : List Op
  banks : Tab Bank
  /-- Requests held for pages that move, in arrival order (R354). -/
  held : List Msg
  /-- Requests held before that may go on, in arrival order: the teller takes them up ahead of what has landed (R259). -/
  ready : List Msg
  rehomes : List Rehome
  /-- Page service requests that wait for an entry to leave moving or unmapping (R126). -/
  pageWait : List Msg
  parked : List Parked
  /-- Image records of saved units in this core's save set: record, launch, unit (R327). -/
  saveSet : List (Fin 4 × BitVec 32 × BitVec 24)
  /-- Grants this core holds as borrower, and the borrowers it lends to (R296). -/
  grants : List Grant
  lentTo : List Nat
  /-- The heat meter's count in this window (R393). -/
  heat : Nat
  /-- A slot's next charge would have taken the count over its limit: every slot is held until the window ends (R393). -/
  heatHeld : Bool
  /-- The kernel image that the program store holds (R317, R448), and the launch whose image code load is still to come. -/
  image : Option (List Byte)
  imageDue : Option (BitVec 32)
  dbgMod : Debug
  /-- The log page (R460), its mark state (R461) and each slot's INSTRET at its first dropped entry. -/
  logPage : Option Word
  logMarked : Bool
  logDropped : Vector (Option Word) 4
  /-- Entries that wait for room under the STALL switch (R461), or for coins (R386): the job and the bytes. -/
  logPend : List (BitVec 24 × List Byte)
  /-- Corrections since the last CORR record, and in this scrub pass (R426, R427, R442). -/
  corr : Nat
  /-- The tick of the last CORR record; none when none has been sent. -/
  corrTick : Option Nat
  passCorr : Nat
  cecnt : Nat
  /-- Patrol scrub positions: vault row number, till line, program store line (R427). -/
  scrubVault : Nat
  scrubTill : Nat
  scrubStore : Nat
  pools : List Pool
  /-- Pools of which this core, a member and the entry core, has done its member's part of a POOLMAKE only (R369). -/
  poolDue : List (BitVec 24 × BitVec 16)
  entryPools : List Pool
  seqs : List Seq
  /-- The discovery tree: HOP, parent direction, child mask (R446). -/
  tree : Option (Nat × Option (Fin 4) × BitVec 4)
  /-- Sleeping for want of coins (R42). -/
  asleep : Bool
  /-- Shoot-downs passed on and not yet acknowledged (R358). -/
  shoots : List Shoot
  /-- The logical number held for a lost core (R440), and whether its page entries are still being rebuilt. -/
  standIn : Option (BitVec 18)
  rebuilding : Bool
deriving DecidableEq, Repr

/-- The handler table after system code is installed: entries 0 to 13 valid (R280; log entry 5 for their ENTRY values). -/
def residentHandlers : Tab Handler := (List.range 14).map (fun i => (i, ⟨0, true, 0x6000⟩))

/-- A core after its column passes the boot test (R14, R280). -/
def Core.reset : Core :=
  { slots := Vector.replicate 4 Slot.reset, teller := ⟨Ctx.zero, none, false⟩, queues := Vector.replicate 8 [],
    barriers := Vector.replicate 16 Barrier.reset, barSums := [], acc := Vector.replicate 4 (Vector.replicate 64 0), mtxQ := [],
    cfg := MCfg.default, cfgQueued := MCfg.default, prog := MProg.default, owner := none, ring := 0,
    vaultMap := [], pages := [], hints := Vector.replicate 16 none, hintPtr := 0, wake := false, stubs := [],
    handlers := residentHandlers, resvs := [], landed := [], fresh := (0, 0), ops := [], nextOp := 0, copies := [], sends := [], banks := [], held := [], ready := [],
    rehomes := [], pageWait := [], parked := [], saveSet := [], grants := [], lentTo := [], heat := 0, heatHeld := false,
    image := none, imageDue := none, dbgMod := Debug.reset, logPage := none, logMarked := false,
    logDropped := Vector.replicate 4 none, logPend := [], corr := 0, corrTick := none, passCorr := 0, cecnt := 0, scrubVault := 0, scrubTill := 0,
    scrubStore := 0, pools := [], poolDue := [], entryPools := [], seqs := [], tree := none, asleep := false, shoots := [], standIn := none,
    rebuilding := false }

/-! ### The distributor -/

/-- A launch descriptor (Table 12.3), as read. -/
structure LaunchDesc where
  image : Word
  isize : Nat
  entry : BitVec 15
  units : Nat
  upc : Nat
  heat : BitVec 2
  pattern : BitVec 2
  coresident : Bool
  preemptible : Bool
  lease : Nat
  prio : Nat
  preds : List (BitVec 32)
  param : Word
  graph : BitVec 32
  phase : BitVec 32
  job : BitVec 24
  dsize : Nat
  data : Word
  notify : Word
deriving DecidableEq, Repr

/-- A launch (R307, Table 7.10). -/
structure Launch where
  num : BitVec 32
  desc : LaunchDesc
  /-- STATE of Table 7.10. -/
  st : Nat
  placed : Nat
  done : Nat
  /-- The next unit number that has never been placed. -/
  next : Nat
  saved : List SavedUnit
  eligible : Bool
  /-- Order of becoming eligible, and ticks waited (R315). -/
  order : Nat
  waited : Nat
  /-- How many whole 10 ms of waiting have lowered the effective priority (R315). -/
  aged : Nat
  cancelling : Bool
  /-- The cycle in which it ended, when its successors' resolutions reach the root (R310). -/
  endedAt : Word
  /-- The distributor's copies of image and data (R312). -/
  code : List Byte
  init : List Byte
  usesMtx : Bool
  /-- The job a PREEMPT charges, with the port and tag that wait (Table 12.9). -/
  preempting : Option (Option (BitVec 24))
  /-- A forced move that was refused saves the launch as a whole (R324, R325). -/
  forcing : Bool
  /-- The pass that places, or restores, a co-resident launch's units has begun (R323). -/
  passing : Bool
deriving DecidableEq, Repr

/-- A job (R307). -/
structure Job where
  num : BitVec 24
  floor : Nat
  /-- STATE of Table 12.2. -/
  st : Nat
  canc : Nat
  comp : Nat
  live : Nat
  coins : Word
  /-- Recording, and the full-log switch: true is STALL (R460, R461). -/
  recording : Bool
  stall : Bool
  /-- Opened by another module's distributor: only the coins counted to it in this module are kept (R387). -/
  away : Bool
deriving DecidableEq, Repr

/-- A graph's or phase's completion counter (R308). -/
structure Scope where
  job : BitVec 24
  phase : Bool
  num : BitVec 32
  st : Nat
  canc : Nat
  comp : Nat
  live : Nat
  /-- The phase an open graph's launches name (R306). -/
  inPhase : BitVec 32
deriving DecidableEq, Repr

/-- An entry of the tensor-lifetime table (R368, Table 7.11). -/
structure Tensor where
  job : BitVec 24
  tensor : BitVec 32
  cls : BitVec 2
  key : BitVec 6
  base : Word
  size : Nat
  first : BitVec 32
  last : BitVec 32
  /-- The core of the unit that issued the TREG (class S). -/
  issuer : BitVec 26
  /-- 64 KiB of the range whose pages have been dealt with at first use, and whether frames were short. -/
  done : Nat
  short : Bool
deriving DecidableEq, Repr

/-- A subscription (R221, R396). -/
structure Sub where
  job : BitVec 24
  num : BitVec 8
  qty : Nat
  dir : BitVec 2
  region : BitVec 16
  thresh : Word
  notify : Word
  hyst : Word
  prev : Word
  armedUp : Bool
  armedDown : Bool
  seq : BitVec 16
  /-- Notify writes still to be stored, oldest first. -/
  pending : List Word
deriving DecidableEq, Repr

/-- A reduction (R224 to R227). -/
structure Reduction where
  job : BitVec 24
  num : BitVec 10
  logs : Nat
  k : Nat
  res : Word
  round : Nat
  failed : Bool
  /-- The slots counted in this round, with their contributions. -/
  slots : List (Nat × List Byte)
  /-- Contributions waiting for the next round, in arrival order. -/
  waiting : List (Req × Nat × List Byte)
  /-- Stores of the result that homes in other modules have not yet answered, and whether one of them has failed. -/
  due : List Nat
  lost : Bool
  /-- The full round's result has gone to RES. -/
  sent : Bool
deriving DecidableEq, Repr

/-- A request as it reached the root, and in which cycle. -/
structure RootEntry where
  cycle : Word
  req : RootReq
deriving DecidableEq, Repr

/-- Who waits for a cancel or a save to end: a slot's operation, or a hub command's reply. -/
inductive Waiter where
  | unit (src : Req)
  | hub (h : Hub) (tag : BitVec 32)
deriving DecidableEq, Repr

/-- A cancel in progress (R331). -/
structure Cancel where
  level : Nat
  job : BitVec 24
  num : BitVec 32
  who : Waiter
  close : Bool
deriving DecidableEq, Repr

/-- A store of the distributor that waits (R312, R397): its number, the job, the address and the value; of a subscription, its number,
and the answer that follows the reference sample; whether it has gone to a home in another module. -/
structure Notice where
  id : Nat
  job : BitVec 24
  va : Word
  value : Word
  sub : Option (BitVec 8)
  answer : Option (Req × Word)
  sent : Bool
  /-- What that home has answered: true for a fault. -/
  heard : Option Bool
deriving DecidableEq, Repr

/-- The distributor root (R313). -/
structure Dist where
  queue : List RootEntry
  launches : List Launch
  jobs : List Job
  scopes : List Scope
  nextLaunch : Nat
  nextJob : Nat
  nextOrder : Nat
  tensors : List Tensor
  subs : List Sub
  reductions : List Reduction
  cancels : List Cancel
  /-- PREEMPT commands that wait: launch, port, tag (Table 12.9). -/
  preempts : List (BitVec 32 × Hub × BitVec 32)
  /-- Stores still to be made, oldest first, and the number of the next one. -/
  notices : List Notice
  nextNotice : Nat
deriving DecidableEq, Repr

def Dist.reset : Dist := ⟨[], [], [], [], 1, 1, 0, [], [], [], [], [], [], 0⟩

/-! ### Hubs, plates and the outside -/

/-- A record or report that the device sends to a hub. -/
inductive HubRec where
  /-- Table 18.4: time, where, kind, bank, address, data. -/
  | event (time : Word) (xy : BitVec 18) (kind : BitVec 8) (bank : BitVec 5) (addr data : Word)
  /-- The 32-byte record of Table 10.5. -/
  | handlerFault (bytes : List Byte)
  /-- A slot stopped by a double trap (R31): core index and slot. -/
  | doubleTrap (core slot : Nat)
  /-- A report the specification gives no layout: a skipped NOTIFY (R312), a failed reduction (R226), a dropped
  subscription (R400), frames short at first use (R368), a bad tag (R468), a coolant fault (R483), a trap that the resident trap code does not
  handle (R412). -/
  | told (what : Nat) (arg : Word)
deriving DecidableEq, Repr

/-- A command port and what else one hub has of the device (Tables 12.7 and 21.1). -/
structure Port where
  cqbase : BitVec 48
  cqsize : BitVec 13
  cqtail : BitVec 12
  cqhead : BitVec 12
  rqbase : BitVec 48
  rqsize : BitVec 13
  rqhead : BitVec 12
  rqtail : BitVec 12
  /-- The cycle in which the command at the head reached the root (R310). -/
  since : Word
  cqerr : Bool
  semerr : Bool
  /-- The bus-error flag (R470). -/
  busErr : Bool
  peer : Bool
  /-- PCIe: the role (true is a root port) and whether the link is up (R474). -/
  rootPort : Bool
  pcieUp : Bool
  /-- Where in hub DRAM the 1 GiB window of BAR2 begins, when the device runtime has set it up (R474). -/
  bar2 : Option Nat
  /-- Records sent to this hub and not yet streamed: events (R442), handler faults (R284) and reports, oldest first. -/
  events : List HubRec
  /-- Cadence records (R454). -/
  cadence : List (List Byte)
  /-- Replies of the management service (R475), newest last. -/
  mgmt : List (List Byte)
  bootLog : List Nat
  /-- This hub's ROM has accepted its images in step 1 of the boot (R443, R465). -/
  firmwareOk : Bool
  /-- Replies that wait for room in the reply ring. -/
  owed : List (List Byte)
  /-- Page service requests of the device runtime that the hub has still to send (R300, R366): what is asked, and the address of the
  reply. -/
  pageReqs : List (PageReq × Option Word)
deriving DecidableEq, Repr

def Port.reset : Port := ⟨0, 0, 0, 0, 0, 0, 0, 0, 0, false, false, false, true, true, false, none, [], [], [], [], true, [], []⟩

/-- A hardware semaphore (R336): acquisitions, owner, and the cycle of the last acquisition. -/
structure Sem where
  count : BitVec 32
  owner : Option Hub
  taken : Word
deriving DecidableEq, Repr

/-- A plate controller (R313, R395, R401, R443). -/
structure Plate where
  /-- The housekeeping pool, which may be negative (R395). -/
  pool : Int
  /-- The ballast floor in mA, and coins spent on ballast in this interval (R401). -/
  floor : Int
  ballast : Nat
  /-- Failed runs of the boot kernel (R450), and the boot unit's progress: 0 not begun, 1 discovered, 2 running, 3 done. -/
  bootRuns : Nat
  bootStage : Nat
  /-- The discovery wave to come (R446). -/
  wave : Nat
deriving DecidableEq, Repr

def Plate.reset : Plate := ⟨0, 0, 0, 0, 0, 0⟩

/-- A key slot (Table 20.10) with its key. -/
structure KeySlot where
  ctr : BitVec 80
  grant : BitVec 24
  gen : BitVec 16
  st : BitVec 2
  key : BitVec 256
deriving DecidableEq, Repr

def KeySlot.reset : KeySlot := ⟨0, 0, 0, 0, 0⟩

/-- A page in a checkpoint manifest (Table 20.8): its contents are the ciphertext, with IV and tag; pages that share a frame have
one group number. -/
structure SavedPage where
  vpn : BitVec 33
  cls : BitVec 2
  rd : Bool
  w : Bool
  key : BitVec 6
  group : Nat
  iv : BitVec 96
  tag : BitVec 128
  contents : List Byte
deriving DecidableEq, Repr

/-- A checkpoint manifest (Table 20.8); the contents of live slots lie in the pages. -/
structure Manifest where
  floor : Nat
  archrev : Nat
  mathrev : Nat
  pages : List SavedPage
  tensors : List Tensor
  pools : List Pool
  seqs : List Seq
  reductions : List Reduction
deriving DecidableEq, Repr

/-- A rim link (R476 to R480). -/
structure Link where
  up : Bool
  training : Bool
  far : Option (BitVec 8)
  txSeq : BitVec 16
  rxSeq : BitVec 16
  /-- Frames sent and not acknowledged (R477), and the messages that they carry, with the number of each one's last frame. -/
  unacked : List (List Byte)
  sent : List (BitVec 16 × Msg)
  discarding : Bool
  /-- Flits of the message being received. -/
  rx : List (List Byte)
  /-- Frames put on the link, oldest first: those of messages, those sent again, and idle ones. -/
  out : List (List Byte)
deriving DecidableEq, Repr

def Link.reset : Link := ⟨false, false, none, 0, 0, [], [], false, [], []⟩

/-- The context that executes: a slot or the teller of a core. -/
inductive Who where
  | slot (t : Fin 4)
  | teller
deriving DecidableEq, Repr

/-- What a hub's own cores, its management port and its PCIe port do that is no machine step of the opcode table. -/
inductive HubAct where
  /-- A load of so many bytes from the device window, and a store into it (R470). -/
  | load (off width : Nat)
  | store (off width : Nat) (v : Word)
  /-- A hub core's store into its own DRAM (R469). -/
  | dram (addr : Nat) (data : List Byte)
  /-- The device runtime sets up the window that BAR2 opens into hub DRAM, and an external host writes through it (R474). -/
  | window (base : Option Nat)
  | bar2 (off : Nat) (data : List Byte)
  /-- A management message with this version and code (R475). -/
  | message (version code : Nat)
deriving DecidableEq, Repr

/-- Which agent moves next: a core's issue ring, a machine step, or a hub (log entry 1). -/
inductive Choice where
  | core (c : Nat)
  | event (i : Instr)
  | hub (h : Hub) (a : HubAct)
deriving DecidableEq, Repr

/-- What an instruction or a reply did that the trace encoder (R459) or a recording (R460) takes up after it. -/
inductive NoteKind where
  | branch (target : BitVec 15)
  | trap (cause : BitVec 16)
  | eret (target : BitVec 15)
  | arrive
  | exit
  /-- A logged event of Table 20.7: kind and payload. -/
  | log (kind : Nat) (payload : List Byte)
deriving DecidableEq, Repr

/-- A note, with the core, the slot, the PC of the event and INSTRET before it. -/
structure Note where
  core : Nat
  slot : Fin 4
  pc : BitVec 15
  instret : Word
  kind : NoteKind
deriving DecidableEq, Repr

/-- The state of one module. -/
structure State where
  /-- The executing core and context. -/
  curCore : Nat
  curWho : Who
  /-- Agents that move before the issue ring of `focus` does (log entry 1). -/
  agenda : List Choice
  focus : Nat
  /-- Set by a meaning that finds its context not ready (R40). -/
  waited : Bool
  /-- What the executing step has done that is traced or logged, oldest first; the step empties it. -/
  notes : List Note
  /-- CYCLE of every core: cycles since the columns passed the boot test (log entry 1). -/
  cycle : Word
  /-- Counter of the free values drawn so far (log entry 6). -/
  free : Nat
  mem : Memory
  cores : Tab Core
  purses : Tab Nat
  /-- Columns that are not active: fused, harvested (R5, R420), and those lost in life (R439). -/
  fused : List Nat
  harvested : List Nat
  lost : List Nat
  /-- Octets whose MTX is not working (R2), and the round of each octet's MTX: position, grants given to it (R294). -/
  mtxBad : List Nat
  octets : Tab (Nat × Nat)
  /-- Blocks with an uncorrectable error, and blocks with a correctable one: wrong bytes and lane group (R426). -/
  bad : List Nat
  weak : Tab (Nat × Nat)
  net : List Msg
  dist : Dist
  portA : Port
  portB : Port
  sems : Vector Sem 32
  plates : Tab Plate
  /-- Boot step reached (Table 19.1), and whether a failed step has stopped the boot (R443). -/
  bootStep : Nat
  bootStopped : Bool
  /-- The hub that the plate controllers took their firmware from (Table 19.1, step 3). -/
  plateHub : Hub
  powered : Bool
  meshStopped : Bool
  /-- Set when step 6 has switched routers to logical addressing (R443). -/
  logical : Bool
  /-- N of R345. -/
  ncores : Nat
  modNo : BitVec 8
  joined : BitVec 8
  routes : List (Nat × Nat)
  /-- The clearing module of each job here that another module has opened (R341). -/
  abroad : Tab (BitVec 8)
  linkKey : Option (Fin 64)
  /-- What the last RIMCONF set, for step 7 of the next boot: module number, routes, link key (R478, R480). -/
  rimNext : Option (BitVec 8 × List (Nat × Nat) × Option (Fin 64))
  links : Vector Link 16
  keys : Vector KeySlot 64
  /-- Ticks since boot (R388), the cap of each tick, the cap waiting for the next tick, the last CAPSET (R389, R483). -/
  tick : Nat
  cap : Nat
  capNext : Nat
  capSet : Nat
  coolantLow : Bool
  coolant : Nat × Nat
  /-- The tick of the first reading within limits after a coolant fault, and whether there has been one (R483). -/
  coolantTick : Nat
  coolantBack : Bool
  /-- Coins counted to the housekeeping account (R387). -/
  housekeeping : Int
  /-- Withholdings (R404): amount per tick, ticks left, and the excess carried. -/
  withhold : List (Nat × Nat)
  withheldCarry : Nat
  overspends : Nat
  ballastOff : Bool
  power : Nat
  /-- Thermal readings by layer, row, column (R437), failed sensors, forced cells (R438). -/
  temps : Tab (BitVec 16)
  badSensors : List Nat
  /-- The refresh rule of a layer's cell (R244): from the cycle named on, double or single; before it the other. -/
  refreshRule : Tab (Nat × Bool)
  forced : List Nat
  /-- The last issue of a slot: core, slot, cycle; and the slots that are ready, by core, as the ring finds them ahead of a cadence pulse (R453). -/
  issued : Option (Nat × Fin 4 × Word)
  readySlots : Tab Nat
  /-- Cadence pulse: period or one shot, and pulses since boot (R453, R454). -/
  cadPeriod : Nat
  cadOnce : Bool
  cadCount : Nat
  /-- The tick that has just run is armed and its pulse has not been taken; heat windows begun (R393). -/
  cadDue : Bool
  windows : Nat
  /-- The capacity map's generation count, and free user frames of the module (Table 18.2). -/
  mapGen : Nat
  /-- Images staged for the next boot and images in force, by kind: 0 the device boot image, 1 the plate firmware, 2 and 3 the
  firmware of hubs A and B; one that is not listed is the one from manufacture (R448, R465). -/
  staged : Tab (List Byte)
  images : Tab (List Byte)
  /-- Boots since manufacture (R466). -/
  boots : Nat
  /-- Checkpoints in storage (R463): manifests by number. -/
  storage : Tab Manifest
deriving DecidableEq, Repr

/-- Why a run can stop: an access the specification gives no place. -/
inductive Fault where
  /-- A machine step names a core, bank or octet outside the module.  Raised by the step's own check.  Safe: no such part
  exists (Table 0.2). -/
  | noSuchPart
deriving DecidableEq, Repr

/-- Why a step is refused. -/
inductive Refusal where
  /-- The instruction has no meaning.  Raised by no arm of `exec`: every instruction has its meaning.  Safe. -/
  | notModelled (mnemonic : String)
deriving DecidableEq, Repr

/-- The cores that the manufacture fuse map removes from plate (0, 0) (Table 19.4); for the other plates log entry 4. -/
def fusedColumns : List Nat := [5, 108, 155, 288, 336, 415, 553, 630, 803, 914, 1021]

/-- The module right after its columns have passed the boot test (R14): boot step 4 of Table 19.1 has ended. -/
def State.reset : State :=
  { curCore := 0, curWho := .slot 0, agenda := [], focus := 0, waited := false, notes := [], cycle := 0, free := 0, mem := [], cores := [],
    purses := [], fused := fusedColumns, harvested := [], lost := [], mtxBad := [], octets := [], bad := [], weak := [], net := [],
    dist := Dist.reset, portA := Port.reset, portB := { Port.reset with rootPort := false },
    sems := Vector.replicate 32 ⟨0, none, 0⟩, plates := [], bootStep := 4, bootStopped := false, plateHub := .a, powered := true, meshStopped := false,
    logical := false, ncores := 262144, modNo := 0, joined := 0, routes := [], abroad := [], linkKey := none, rimNext := none,
    links := Vector.replicate 16 Link.reset, keys := Vector.replicate 64 KeySlot.reset, tick := 0, cap := 8, capNext := 8,
    capSet := 8, coolantLow := false, coolant := (0, 0), coolantTick := 0, coolantBack := false, housekeeping := 0, withhold := [], withheldCarry := 0,
    overspends := 0, ballastOff := false, power := 0, temps := [], badSensors := [], refreshRule := [], forced := [], issued := none, readySlots := [], cadPeriod := 0,
    cadOnce := false, cadCount := 0, cadDue := false, windows := 0, mapGen := 0, staged := [], images := [], boots := 1, storage := [] }

end Sys2Proof.Machine
end

