-- ==== Sys2Proof/Machine/Ops.lean ====
section
/-!
DEFINITION. The named operations of the machine: cores and their addresses, registers of the executing context, coins,
retiring an instruction, taking a trap and returning from it, messages, batches and fault records.
-/
namespace Sys2Proof.Machine

/-- What a meaning answers. -/
abbrev Res := Host.Outcome State Fault Refusal

/-! ### Geometry (R313, Table 1.2) -/

/-- Physical x of a core index. -/
def coreX (c : Nat) : Nat := (c / 1024 % 16) * 32 + c % 32

/-- Physical y of a core index. -/
def coreY (c : Nat) : Nat := (c / 1024 / 16) * 32 + c % 1024 / 32

/-- The core index at physical x, y. -/
def coreAt (x y : Nat) : Nat := ((y / 32) * 16 + x / 32) * 1024 + (y % 32) * 32 + x % 32

/-- The orthogonal neighbour in a direction (0 N, 1 E, 2 S, 3 W), when the wafer has one. -/
def neighbour (c : Nat) (d : Fin 4) : Option Nat :=
  let x := coreX c
  let y := coreY c
  match d with
  | 0 => if y = 0 then none else some (coreAt x (y - 1))
  | 1 => if x = 511 then none else some (coreAt (x + 1) y)
  | 2 => if y = 511 then none else some (coreAt x (y + 1))
  | 3 => if x = 0 then none else some (coreAt (x - 1) y)

/-- Hops between two cores of the module: the mesh routes X, then Y (R478). -/
def hops (a b : Nat) : Nat :=
  (coreX a - coreX b) + (coreX b - coreX a) + (coreY a - coreY b) + (coreY b - coreY a)

/-- OCTET[17:3] (Table 1.2). -/
def octetOf (c : Nat) : Nat := (coreY c / 2) * 128 + coreX c / 4

/-- OCTET[2:0]. -/
def octetPos (c : Nat) : Nat := (coreY c % 2) * 4 + coreX c % 4

/-- The core at a position of an octet. -/
def octetCore (o p : Nat) : Nat := coreAt ((o % 128) * 4 + p % 4) ((o / 128) * 2 + p / 4)

/-- The plate of a core index. -/
def plateOf (c : Nat) : Nat := c / 1024

/-! ### Memory keys (Machine/State.lean) -/

def vaultKey (c off : Nat) : Nat := c * 2 ^ 25 + off
def tillKey (c off : Nat) : Nat := c * 2 ^ 25 + 2 ^ 24 + off
def storeKey (c off : Nat) : Nat := c * 2 ^ 25 + 2 ^ 24 + 2 ^ 17 + off
def latchKey (c off : Nat) : Nat := c * 2 ^ 25 + 2 ^ 24 + 2 ^ 18 + off
def hubKey (h : Hub) (a : Nat) : Nat := 2 ^ 50 + (match h with | .a => 0 | .b => 1) * 2 ^ 48 + a

/-- n bytes of a hub's DRAM of 128 GiB (R469); a range that leaves it reads zero (log entry 52). -/
def hubGet (m : Memory) (h : Hub) (a n : Nat) : List Byte := if a + n ≤ 2 ^ 37 then m.readBytes (hubKey h a) n else List.replicate n 0

/-- Bytes written to a hub's DRAM; a range that leaves it is not written (log entry 52). -/
def hubPut (m : Memory) (h : Hub) (a : Nat) (bs : List Byte) : Memory :=
  if a + bs.length ≤ 2 ^ 37 then m.writeBytes (hubKey h a) bs else m

/-- A list of naturals with one more, rising. -/
def insertNat (x : Nat) : List Nat → List Nat
  | [] => [x]
  | y :: r => if x < y then x :: y :: r else if x = y then y :: r else y :: insertNat x r

/-- The first element of a list that meets a test, and the list without it. -/
def takeFirst {α : Type} (p : α → Bool) : List α → Option (α × List α)
  | [] => none
  | x :: r =>
    if p x then some (x, r)
    else
      match takeFirst p r with
      | some (y, r') => some (y, x :: r')
      | none => none

/-- A list with the first element that meets a test replaced. -/
def mapFirst {α : Type} (p : α → Bool) (f : α → α) : List α → List α
  | [] => []
  | x :: r => if p x then f x :: r else x :: mapFirst p f r

/-- A g register of a register file written; a write to g0 is discarded. -/
def Ctx.putG (c : Ctx) (i : BitVec 5) (x : Word) : Ctx := { c with g := if i = 0 then c.g else c.g.set i.toNat x i.isLt }

/-- A mask register of a register file written; a write to m0 is discarded. -/
def Ctx.putM (c : Ctx) (i : BitVec 3) (x : Word) : Ctx := { c with m := if i = 0 then c.m else c.m.set i.toNat x i.isLt }

namespace State

/-! ### Cores and contexts -/

def core (s : State) (c : Nat) : Core := Tab.get s.cores c Core.reset

def setCore (s : State) (c : Nat) (k : Core) : State := { s with cores := Tab.put s.cores c k }

def updCore (s : State) (c : Nat) (f : Core → Core) : State := s.setCore c (f (s.core c))

/-- The executing core. -/
def here (s : State) : Core := s.core s.curCore

def updHere (s : State) (f : Core → Core) : State := s.updCore s.curCore f

def slotAt (s : State) (c : Nat) (t : Fin 4) : Slot := (s.core c).slots.get t

def setSlotAt (s : State) (c : Nat) (t : Fin 4) (x : Slot) : State :=
  s.updCore c (fun k => { k with slots := k.slots.set t x t.isLt })

def updSlotAt (s : State) (c : Nat) (t : Fin 4) (f : Slot → Slot) : State := s.setSlotAt c t (f (s.slotAt c t))

/-- The executing slot; slot 0 stands in for the teller, whose uses of it are guarded. -/
def curSlotNo (s : State) : Fin 4 := match s.curWho with | .slot t => t | .teller => 0

def slot (s : State) : Slot := s.slotAt s.curCore s.curSlotNo

def updSlot (s : State) (f : Slot → Slot) : State := s.updSlotAt s.curCore s.curSlotNo f

def isTeller (s : State) : Bool := match s.curWho with | .slot _ => false | .teller => true

/-- The register file of the executing context. -/
def ctx (s : State) : Ctx :=
  match s.curWho with
  | .slot t => (s.slotAt s.curCore t).ctx
  | .teller => s.here.teller.ctx

def setCtx (s : State) (x : Ctx) : State :=
  match s.curWho with
  | .slot t => s.updSlotAt s.curCore t (fun l => { l with ctx := x })
  | .teller => s.updHere (fun k => { k with teller := { k.teller with ctx := x } })

def updCtx (s : State) (f : Ctx → Ctx) : State := s.setCtx (f s.ctx)

/-! ### Registers (Table 1.1) -/

/-- g[i]; g0 reads zero. -/
def g (s : State) (i : BitVec 5) : Word := if i = 0 then 0 else s.ctx.g.get i.toFin

/-- g[i] written; a write to g0 is discarded. -/
def setG (s : State) (i : BitVec 5) (x : Word) : State :=
  s.updCtx (fun r => r.putG i x)

def v (s : State) (i : BitVec 5) : Row := s.ctx.v.get i.toFin

def setV (s : State) (i : BitVec 5) (x : Row) : State :=
  s.updCtx (fun r => { r with v := r.v.set i.toNat x i.isLt })

/-- m[i]; m0 reads all ones. -/
def m (s : State) (i : BitVec 3) : Word := if i = 0 then BitVec.allOnes 64 else s.ctx.m.get i.toFin

/-- m[i] written; a write to m0 is discarded. -/
def setM (s : State) (i : BitVec 3) (x : Word) : State :=
  s.updCtx (fun r => r.putM i x)

def fdReg (s : State) (i : BitVec 3) : BitVec 32 := s.ctx.fd.get i.toFin

def pc (s : State) : BitVec 15 := s.ctx.pc

def setPc (s : State) (x : BitVec 15) : State := s.updCtx (fun r => { r with pc := x })

/-- STATUS.MODE of the executing context is unit mode (R29); the teller is in system mode (R20). -/
def unitMode (s : State) : Bool := !s.isTeller && !s.ctx.status.getLsbD 0

/-! ### Numbers of cores (R443 step 6, R444, R440) -/

/-- Columns that take no logical number. -/
def unnumbered (s : State) : List Nat := s.harvested.foldl (fun l c => insertNat c l) (s.fused.foldl (fun l c => insertNat c l) [])

/-- An active core (R2). -/
def isActive (s : State) (c : Nat) : Bool :=
  c < 262144 && !s.fused.contains c && !s.harvested.contains c && !s.lost.contains c

/-- The core's number in [17:0] of a core address: its logical number, or its boot address before step 6. -/
def coreNo (s : State) (c : Nat) : BitVec 18 :=
  if s.logical then BitVec.ofNat 18 (c - (s.unnumbered.filter (fun x => x < c)).length)
  else BitVec.ofNat 18 (coreY c * 512 + coreX c)

/-- The global core address of a core of this module (Table 1.2, COREID). -/
def coreId (s : State) (c : Nat) : BitVec 26 := s.modNo ++ s.coreNo c

/-- The core index with a logical number. -/
def ofLogical (s : State) (n : Nat) : Nat := s.unnumbered.foldl (fun i x => if x ≤ i then i + 1 else i) n

/-- The column with a number, whatever its state. -/
def columnOf (s : State) (n : BitVec 18) : Nat := if s.logical then s.ofLogical n.toNat else coreAt (n.toNat % 512) (n.toNat / 512)

/-- The core that answers to a number of this module: a lost core's number is its spare core's (R440). -/
def ofNumber (s : State) (n : BitVec 18) : Option Nat :=
  let c := s.columnOf n
  if s.isActive c then some c
  else if s.lost.contains c then
    (s.cores.find? (fun p => p.2.standIn == some n)).map (fun p => p.1)
  else none

/-- The link that the route table names for a module (R478). -/
def linkTo (s : State) (m : BitVec 8) : Option Nat := (s.routes.find? (fun r => r.1 == m.toNat)).map (fun r => r.2)

/-- The module is this one or a joined one: the table names a link for it that is up (R478). -/
def isJoined (s : State) (m : BitVec 8) : Bool :=
  m == s.modNo || (s.linkTo m).any (fun l => (s.links.toList.getD l Link.reset).up)

/-- The core a global core address names, when it lies in this module. -/
def ofId (s : State) (a : BitVec 26) : Option Nat :=
  if a.extractLsb' 18 8 == s.modNo then s.ofNumber (a.extractLsb' 0 18) else none

/-- "Active, in a joined module" for a global core address (Table 6.1, REMOTEREF 0x02); before step 6 the plate is a
boundary (R444). -/
def isReachable (s : State) (a : BitVec 26) : Bool :=
  if a.extractLsb' 18 8 == s.modNo then
    match s.ofNumber (a.extractLsb' 0 18) with
    | some c => s.logical || plateOf c == plateOf s.curCore
    | none => false
  else s.isJoined (a.extractLsb' 18 8) && Config.remoteActive (a.extractLsb' 18 8) (a.extractLsb' 0 18)

/-- The edge router of a rim link (R476). -/
def linkCore (l : Nat) : Nat :=
  let p := 128 * (l % 4) + 64
  match l / 4 with
  | 0 => coreAt p 0
  | 1 => coreAt 511 p
  | 2 => coreAt p 511
  | _ => coreAt 0 p

/-- Hops from a core to a global core address; a link counts as eight (R478). -/
def hopsFrom (s : State) (c : Nat) (a : BitVec 26) : Nat :=
  match s.ofId a with
  | some _ => hops c (s.columnOf (a.extractLsb' 0 18))
  | none => hops c (linkCore ((s.linkTo (a.extractLsb' 18 8)).getD 0)) + 8 +
      Config.remoteHops (a.extractLsb' 18 8) (a.extractLsb' 0 18)

/-- Hops from the executing core. -/
def hopsTo (s : State) (a : BitVec 26) : Nat := s.hopsFrom s.curCore a

/-- Hops from a core to a message destination: a core's index, or 2^20 above another module's core address. -/
def hopsDst (s : State) (c dst : Nat) : Nat := if dst < 2 ^ 20 then hops c dst else s.hopsFrom c (BitVec.ofNat 26 (dst - 2 ^ 20))

/-- Where a message to a global core address goes: the core's index, or 2^20 above the address for another module, whose
messages leave over the rim (log entry 8). -/
def dstOf (s : State) (a : BitVec 26) : Nat := (s.ofId a).getD (2 ^ 20 + a.toNat)

/-- Where the mesh takes a message to a number: to the column that has it, whose router sends it on when the core is lost (R440). -/
def placeOf (s : State) (a : BitVec 26) : Nat := if (s.ofId a).isSome then s.columnOf (a.extractLsb' 0 18) else 2 ^ 20 + a.toNat

/-! ### Coins (R16, R157, R386 to R394) -/

def purse (s : State) (c : Nat) : Nat := Tab.get s.purses c 0

def setPurse (s : State) (c n : Nat) : State := { s with purses := Tab.put s.purses c n }

/-- Coins counted to a job's account, or to housekeeping; job 0 is the boot program's (R387, R445). -/
def countTo (s : State) (job : Option (BitVec 24)) (n : Nat) : State :=
  match job with
  | none => { s with housekeeping := s.housekeeping + (n : Int) }
  | some j =>
    if j = 0 then { s with housekeeping := s.housekeeping + (n : Int) }
    else
      let js := mapFirst (fun x : Job => x.num == j) (fun x => { x with coins := x.coins + BitVec.ofNat 64 n }) s.dist.jobs
      { s with dist := { s.dist with jobs := js } }

/-- The clearing module of a job that another module opened becomes known: the coins counted to it here are kept from now on (R341, R387). -/
def learnJob (s : State) (job : BitVec 24) (m : BitVec 8) : State :=
  { s with
    abroad := Tab.put s.abroad job.toNat m
    dist := if s.dist.jobs.any (fun x => x.num == job) then s.dist
      else { s.dist with jobs := s.dist.jobs ++ [⟨job, 0, 0, 0, 0, 0, 0, false, false, true⟩] } }

/-- 10 x L of Table 15.3. -/
def heatLimit (cls : BitVec 2) : Nat :=
  match cls.toNat with
  | 0 => 150000
  | 1 => 325000
  | 2 => 650000
  | _ => 1000000

/-- A slot's next charge of n coins is covered by the purse and by the heat meter (R40 item 2, R393). -/
def slotCanPay (s : State) (c : Nat) (t : Fin 4) (n : Nat) : Bool :=
  n ≤ s.purse c && !(s.core c).heatHeld && (s.core c).heat + n ≤ heatLimit (s.slotAt c t).heatcls

/-- A charge that the purse covers and the heat meter does not holds every slot of the core until the next window (R393). -/
def heatStop (s : State) (c : Nat) (t : Fin 4) (n : Nat) : State :=
  if n ≤ s.purse c && !(s.core c).heatHeld && heatLimit (s.slotAt c t).heatcls < (s.core c).heat + n then
    s.updCore c (fun k => { k with heatHeld := true })
  else s

/-- Draws n coins for a slot's work: purse, heat meter, COINSPENT and the job's account (Table 15.4). -/
def chargeSlot (s : State) (c : Nat) (t : Fin 4) (n : Nat) : State :=
  let s1 := s.setPurse c (s.purse c - n)
  let s2 := s1.updCore c (fun k => { k with heat := k.heat + n })
  let s3 := s2.updSlotAt c t (fun l => { l with coinspent := l.coinspent + BitVec.ofNat 64 n })
  s3.countTo (some (s.slotAt c t).jobid) n

/-- The executing context can pay n coins. -/
def canPay (s : State) (n : Nat) : Bool :=
  match s.curWho with
  | .slot t => s.slotCanPay s.curCore t n
  | .teller => n ≤ s.purse s.curCore

/-- The executing context pays n coins; a user handler's are counted to its entry's job (Table 15.4). -/
def charge (s : State) (n : Nat) : State :=
  match s.curWho with
  | .slot t => s.chargeSlot s.curCore t n
  | .teller =>
    (s.setPurse s.curCore (s.purse s.curCore - n)).countTo (s.here.teller.act.map (fun a => a.job)) n

/-- Coins of a slot's charge return to its core's purse, which holds at most 2^20 (R243). -/
def refund (s : State) (c : Nat) (t : Fin 4) (n : Nat) : State :=
  let j := (s.slotAt c t).jobid
  let s1 := (s.setPurse c (min (2 ^ 20) (s.purse c + n))).updSlotAt c t (fun l => { l with coinspent := l.coinspent - BitVec.ofNat 64 n })
  if j = 0 then { s1 with housekeeping := s1.housekeeping - (n : Int) }
  else { s1 with dist := { s1.dist with
    jobs := mapFirst (fun x : Job => x.num == j) (fun x => { x with coins := x.coins - BitVec.ofNat 64 n }) s1.dist.jobs } }

/-- Coins of a plate's housekeeping pool, counted to the housekeeping account (Table 15.4). -/
def housePay (s : State) (c n : Nat) : State :=
  let p := Tab.get s.plates (plateOf c) Plate.reset
  { s with plates := Tab.put s.plates (plateOf c) { p with pool := p.pool - n }, housekeeping := s.housekeeping + n }

/-- A core pays n coins for work of its own on a message of a job (R157), when its purse covers them. -/
def payFor (s : State) (c : Nat) (job : Option (BitVec 24)) (n : Nat) : Option State :=
  if n ≤ s.purse c then some ((s.setPurse c (s.purse c - n)).countTo job n) else none

/-- A free value, and the state that counts it as drawn (log entry 6). -/
def draw (s : State) : Word × State := (Config.freeWord s.free, { s with free := s.free + 1 })

/-- One of several things that the specification leaves open: any of them, by a free value (log entry 6). -/
def pick {α : Type} (s : State) (xs : List α) : Option (α × State) :=
  match xs with
  | [] => none
  | x :: r =>
    match r with
    | [] => some (x, s)
    | _ => some (((x :: r)[s.draw.1.toNat % (r.length + 1)]?).getD x, s.draw.2)

/-- Not ready in this cycle (R40): nothing changes. -/
def wait (s : State) : State := { s with waited := true }

/-! ### Notes for the trace encoder and the recorder -/

/-- Adds a note of the executing slot. -/
def note (s : State) (k : NoteKind) : State :=
  match s.curWho with
  | .slot t => { s with notes := s.notes ++ [⟨s.curCore, t, s.pc, s.slot.instret, k⟩] }
  | .teller => s

/-- A logged value of Table 20.7. -/
def logged (s : State) (kind : Nat) (payload : List Byte) : State := s.note (.log kind payload)

/-- A range lies in the executing unit's lease. -/
def inLease (s : State) (va : Word) (n : Nat) : Bool :=
  s.slot.leaseBase.toNat * 64 ≤ va.toNat && va.toNat + n ≤ (s.slot.leaseBase.toNat + s.slot.leaseSize.toNat) * 64

/-- A read outside the lease is logged (Table 20.7, kind 2). -/
def loggedRead (s : State) (va : Word) (n : Nat) (payload : List Byte) : State :=
  if s.inLease va n then s else s.logged 2 payload

/-! ### Retiring -/

/-- The progress value of Table 4.12. -/
def progress (rem i j : Nat) : Word := BitVec.ofNat 64 (rem % 2 ^ 32 + (i % 32) * 2 ^ 32 + (j % 16) * 2 ^ 40)

/-- The executing context's instruction count rises: INSTRET of a slot, the activation's count of the teller (R283); a
STEP trap falls due after a unit-mode instruction under STATUS.STEP (R121). -/
def counted (s : State) : State :=
  match s.curWho with
  | .slot t => s.updSlotAt s.curCore t (fun l =>
      { l with instret := l.instret + 1, resumed := false, watchMet := false, stepDue := l.ctx.status.getLsbD 3 && !l.ctx.status.getLsbD 0 })
  | .teller => s.updHere (fun k => { k with teller := { k.teller with
      act := k.teller.act.map (fun a => { a with count := a.count + 1 }) } })

/-- A frame word of an RPT has executed: the progress value is written in the same step, and when no replay is left the PC
leaves the RPT, which then counts once itself (R111, R112). -/
def frameDone (s : State) (r : Rpt) (x : Word) : State :=
  let n := r.n.toNat + 1
  let rem := (x.extractLsb' 0 32).toNat
  let i := (x.extractLsb' 32 5).toNat
  let j := (x.extractLsb' 40 4).toNat + 1
  let s' := s.counted
  if j < n then s'.setG r.c (progress rem i j)
  else
    let s'' := s'.setG r.c (progress (rem - 1) (i + 1) 0)
    if rem ≤ 1 then
      ((s''.setPc (s.pc + 4 + 4 * BitVec.ofNat 15 n)).updSlot (fun l => { l with rpt := none, instret := l.instret + 1, lastPc := s.pc }))
    else s''

/-- The executing instruction ends at a PC of its own. -/
def retireTo (s : State) (x : BitVec 15) : State :=
  let old := s.pc
  let s1 := s.counted.setPc x
  match s.curWho with
  | .slot _ => s1.updSlot (fun l => { l with lastPc := old })
  | .teller => s1

/-- The executing instruction ends: the PC moves to the next word, or an RPT's progress advances.  `before` is the state
in which the instruction read its registers. -/
def retire (s before : State) : State :=
  match s.curWho with
  | .slot _ =>
    match before.slot.rpt with
    | some r => s.frameDone r (before.g r.c)
    | none => s.retireTo (before.pc + 4)
  | .teller => s.retireTo (before.pc + 4)

/-! ### Records to the hubs -/

/-- A record sent to both hubs. -/
def toHubs (s : State) (r : HubRec) : State :=
  { s with portA := { s.portA with events := s.portA.events ++ [r] }, portB := { s.portB with events := s.portB.events ++ [r] } }

/-- The WHERE field of an event record (Table 18.4). -/
def xyOf (c : Nat) : BitVec 18 := BitVec.ofNat 18 (coreY c * 512 + coreX c)

/-- An event record of a core (R442), which updates the capacity map (R423); TIME is the plate controller's CYCLE, which
counts as its core's does. -/
def event (s : State) (c : Nat) (kind : BitVec 8) (bank : BitVec 5) (addr data : Word) : State :=
  { s.toHubs (.event s.cycle (xyOf c) kind bank addr data) with mapGen := s.mapGen + 1 }

/-! ### Messages -/

/-- The executing context as a sender. -/
def me (s : State) (op : Nat) : Req :=
  match s.curWho with
  | .slot t =>
    let l := s.slotAt s.curCore t
    ⟨s.curCore, t.val, op, l.jobid, l.launchid, l.unitid⟩
  | .teller => ⟨s.curCore, 4, op, 0, 0, 0⟩

/-- A slot as a sender. -/
def reqOf (s : State) (c : Nat) (t : Fin 4) (op : Nat) : Req :=
  let l := s.slotAt c t
  ⟨c, t.val, op, l.jobid, l.launchid, l.unitid⟩

/-- A message put into the mesh. -/
def post (s : State) (dst : Nat) (h : BitVec 6) (src : Req) (b : Body) : State :=
  { s with net := s.net ++ [⟨dst, h, src, b⟩] }

/-- A launch of this module, by number. -/
def launchNo (s : State) (n : BitVec 32) : Option Launch := s.dist.launches.find? (fun l => l.num == n)

/-- A slot's launch is being cancelled: the unit stops at its next instruction boundary (R331). -/
def stopping (s : State) (c : Nat) (t : Fin 4) : Bool := (s.launchNo (s.slotAt c t).launchid).any (fun l => l.cancelling)

end State

/-- The module on which a job has been opened (R341); a job of which nothing else is known is this module's. -/
def clearingMod (s : State) (job : BitVec 24) : BitVec 8 := s.abroad.get job.toNat s.modNo

/-- The sender of a request. -/
def RootReq.src : RootReq → Req
  | .launch q _ => q
  | .cancel q _ _ => q
  | .lstat q _ => q
  | .treg q _ => q
  | .purse q _ => q
  | .subs q _ => q
  | .unsubs q _ => q
  | .crinit q _ => q
  | .cradd q _ _ _ _ => q
  | .completion q => q

/-- A request with its sender's core index replaced. -/
def RootReq.recore (f : Nat → Nat) : RootReq → RootReq
  | .launch q d => .launch { q with core := f q.core } d
  | .cancel q l n => .cancel { q with core := f q.core } l n
  | .lstat q n => .lstat { q with core := f q.core } n
  | .treg q r => .treg { q with core := f q.core } r
  | .purse q x => .purse { q with core := f q.core } x
  | .subs q r => .subs { q with core := f q.core } r
  | .unsubs q n => .unsubs { q with core := f q.core } n
  | .crinit q d => .crinit { q with core := f q.core } d
  | .cradd q i n k d => .cradd { q with core := f q.core } i n k d
  | .completion q => .completion { q with core := f q.core }

/-- A request about this module's own readings, whatever module its job was opened on (R220 to R222). -/
def RootReq.here : RootReq → Bool
  | .purse _ _ => true
  | .subs _ _ => true
  | .unsubs _ _ => true
  | _ => false

/-- The destination of a message to the root of a job's clearing module. -/
def rootAbroad (s : State) (job : BitVec 24) : Nat := 2 ^ 20 + (clearingMod s job ++ (0#18)).toNat

/-- A request joins the queue of this module's root (R310). -/
def State.enqueue (s : State) (r : RootReq) : State := { s with dist := { s.dist with queue := s.dist.queue ++ [⟨s.cycle, r⟩] } }

/-- A request goes to the distributor root; of a unit whose job was opened on another module, to that module's (R341, R481; log
entry 8). -/
def State.toRoot (s : State) (r : RootReq) : State :=
  if r.here || clearingMod s r.src.job == s.modNo then s.enqueue r
  else s.post (rootAbroad s r.src.job) 63 r.src (.ask r)

/-- The handler that serves a request body (Table 10.3). -/
def Body.handler : Body → BitVec 6
  | .load _ _ => 0
  | .store _ _ => 1
  | .rmw _ _ _ _ _ => 2
  | .claim _ _ _ _ _ => 2
  | .lrw _ _ => 3
  | .sch _ _ _ => 3
  | .tileRead _ _ _ _ _ _ => 4
  | .tileWrite _ _ _ _ _ _ _ => 4
  | .fpr _ _ _ _ _ => 5
  | .span _ _ _ _ _ => 6
  | .spanHome _ _ _ _ _ => 6
  | .spanOpen _ _ _ _ => 6
  | .spanCount _ _ _ _ => 6
  | .spanRetire _ _ _ => 6
  | .spanStore _ _ _ => 6
  | .querySend _ _ _ => 6
  | .page _ _ => 7
  | .rehomeCopy _ _ _ _ _ _ => 7
  | .moveFail _ _ _ => 7
  | .cowBreak _ _ _ => 7
  | .shootdown _ _ _ _ => 7
  | .shootAck _ _ _ _ => 7
  | .entryAt _ _ => 7
  | .arrive _ => 8
  | .push _ _ => 8
  | .migAsk _ _ _ _ _ _ => 10
  | .migAnswer _ _ _ => 10
  | .migImage _ _ _ _ _ _ _ _ _ _ _ => 10
  | .restoreAsk _ _ _ => 10
  | .migFail _ _ => 10
  | _ => 63

/-- The body of the reply that tells a requester of a fault (R170, R284). -/
def Body.faultReply (b : Body) (f : FaultInfo) : Option Body :=
  match b with
  | .load _ _ => some (.reply [] none (some f))
  | .rmw _ _ _ _ _ => some (.reply [] none (some f))
  | .store _ _ => some (.ack none (some f))
  | .sch _ _ _ => some (.ack none (some f))
  | .claim _ _ _ _ _ => some (.claimReply 0 0 none (some f))
  | .lrw _ _ => some (.grant [] none (some f))
  | .tileRead _ n done one targets r => some (.blockAck ((if one then 1 else n / 64 - done) * targets.length) r none (some f))
  | .tileWrite _ n done one _ _ r => some (.blockAck (if one then 1 else n / 64 - done) r none (some f))
  | .fpr _ _ _ _ _ => some (.deferred 0 (some f))
  | .span _ _ _ _ _ => some (.deferred 0 (some f))
  | .spanHome _ _ _ _ _ => some (.deferred 0 (some f))
  | .page _ none => some (.deferred 0 (some f))
  | .arrive _ => some (.ack none (some f))
  | _ => none

namespace State

/-! ### Handler faults (R284) -/

/-- The global core address of a sender; a sender of another module bears it in its core field, above 2^20. -/
def reqId (s : State) (q : Req) : BitVec 26 := if q.core < 2 ^ 20 then s.coreId q.core else BitVec.ofNat 26 (q.core - 2 ^ 20)

/-- The 32 bytes of Table 10.5. -/
def handlerFaultRec (s : State) (c : Nat) (handler : BitVec 6) (pc : BitVec 15) (cause sub : BitVec 8) (kind : Nat)
    (val : Word) (src : Req) : List Byte :=
  bytesOf 8 (s.coreId c).toNat ++ bytesOf 2 handler.toNat ++ bytesOf 2 pc.toNat ++ bytesOf 2 (sub ++ cause).toNat ++
  bytesOf 1 kind ++ bytesOf 1 0 ++ bytesOf 8 val.toNat ++
  bytesOf 8 ((s.reqId src).toNat + src.slot * 2 ^ 32 + src.job.toNat * 2 ^ 40)

/-- Ends the activation of a core's teller and frees its landing buffer (R278, R283). -/
def endActivation (s : State) (c : Nat) : State :=
  s.updCore c (fun k => { k with teller := { k.teller with act := none, stopped := k.teller.stopped || k.dbgMod.tstop } })

/-- What tells the requester of a resident handler's fault (R284): of a request that a SEND made, or the faulting reply of its own. -/
def requestFault (s : State) (m : Msg) (f : FaultInfo) : Option Body :=
  let bySend := match m.body with
    | .user _ => true
    | _ => m.src.slot < 4 && (s.core m.src.core).sends.any (fun o => o.id == m.src.op)
  if bySend then (if m.src.slot < 4 then some (.sendFault f) else none) else m.body.faultReply f

/-- An activation that ends on a fault (R284): the record goes to both hubs, and a resident handler's request completes
with a fault record of the same cause. -/
def handlerFault (s : State) (c : Nat) (kind : Nat) (cause sub : BitVec 8) (val : Word) : State :=
  match (s.core c).teller.act with
  | none => s
  | some a =>
    let s1 := s.toHubs (.handlerFault (s.handlerFaultRec c a.handler (s.core c).teller.ctx.pc cause sub kind val a.msg.src))
    let s2 :=
      if a.handler.toNat < 16 then
        match s.requestFault a.msg ⟨cause, sub, val⟩ with
        | some b => s1.post a.msg.src.core 63 a.msg.src b
        | none => s1
      else s1
    s2.endActivation c

/-! ### Traps (R30, R31) -/

/-- A trap taken by a slot in unit mode (R30), in one step. -/
def enterTrap (s : State) (c : Nat) (t : Fin 4) (cause sub : BitVec 8) (val : Word) : State :=
  s.updSlotAt c t (fun l =>
    { l with
      trappc := l.ctx.pc
      trapcause := sub ++ cause
      trapval := val
      ctx := { l.ctx with
        status := (l.ctx.status &&& 0b01110#5) ||| (if l.ctx.status.getLsbD 0 then 0b10001#5 else 0b00001#5)
        pc := l.trapvec }
      rpt := none
      tile := none
      bwait := none
      waiting := false
      resumed := false
      watchMet := false
      stepDue := false
      trapWork := none })

/-- A double trap (R31): the slot stops with every register intact, and the debug module reports it to both hubs. -/
def doubleTrap (s : State) (c : Nat) (t : Fin 4) : State :=
  (s.updCore c (fun k => { k with
      slots := k.slots.set t { k.slots.get t with rpt := none, tile := none, bwait := none, waiting := false } t.isLt
      dbgMod := { k.dbgMod with reason := k.dbgMod.reason.set t 6 t.isLt } })).toHubs (.doubleTrap c t.val)

/-- Raises a trap in a slot. -/
def trapAt (s : State) (c : Nat) (t : Fin 4) (cause sub : BitVec 8) (val : Word) : State :=
  if (s.slotAt c t).ctx.status.getLsbD 0 then s.doubleTrap c t
  else
    let l := s.slotAt c t
    let s' := s.enterTrap c t cause sub val
    { s' with notes := s'.notes ++ [⟨c, t, l.ctx.pc, l.instret, .trap (sub ++ cause)⟩] }

/-- Raises a trap in the executing context: R30 or R31 in a slot; in the teller it ends the handler (R31, R284). -/
def trap (s : State) (cause sub : BitVec 8) (val : Word) : State :=
  match s.curWho with
  | .slot t => s.trapAt s.curCore t cause sub val
  | .teller => s.handlerFault s.curCore 0 cause sub val

/-- ERET (R120): STATUS.MODE from PMODE, and the PC from TRAPPC, whose bits [1:0] the PC does not hold (Table 1.1).  It retires in
system mode, so no STEP trap follows it (R121). -/
def eretState (s : State) : State :=
  (s.retireTo (s.slot.trappc &&& ~~~3)).updSlot (fun l => { l with ctx := { l.ctx with
    status := (l.ctx.status &&& 0b11110#5) ||| (if l.ctx.status.getLsbD 4 then 1 else 0) } })

end State

/-! ### Trap causes (Table 1.6) -/

abbrev causeILLOP : BitVec 8 := 0x01
abbrev causePRIV : BitVec 8 := 0x02
abbrev causeMISALIGN : BitVec 8 := 0x03
abbrev causeLOCALBOUND : BitVec 8 := 0x04
abbrev causeREMOTEREF : BitVec 8 := 0x05
abbrev causePAGEFAULT : BitVec 8 := 0x06
abbrev causeSPANCROSS : BitVec 8 := 0x07
abbrev causeVAULTEV : BitVec 8 := 0x08
abbrev causeUNCORR : BitVec 8 := 0x09
abbrev causeQUEUE : BitVec 8 := 0x0A
abbrev causeBARRIER : BitVec 8 := 0x0B
abbrev causeSPAN : BitVec 8 := 0x0C
abbrev causeBREAK : BitVec 8 := 0x0D
abbrev causeSTEP : BitVec 8 := 0x0E
abbrev causeTRAPI : BitVec 8 := 0x0F
abbrev causeLAUNCH : BitVec 8 := 0x10
abbrev causeLEASE : BitVec 8 := 0x11

/-! ### Ways for a meaning to end -/

/-- The instruction waits: its context is not ready (R40). -/
def notReady (s : State) : Res := .next s.wait

/-- The instruction traps. -/
def trapped (s : State) (cause sub : BitVec 8) (val : Word) : Res := .next (s.trap cause sub val)

/-- The word is no instruction in this context (R85, R86): ILLOP with subcode 0 and the word in TRAPVAL.  For a frame word on a replay
after the first, R86 does not say whether the word is the one that is stored or the staggered one (R84); TRAPVAL gets the staggered one
(DESIGN CHOICE, log entry 71). -/
def illegal (s : State) (i : Instr) : Res := trapped s causeILLOP 0 ((encode i).zeroExtend 64)

/-- Continues when the context can pay n coins, with the coins drawn; otherwise it is not ready (R16, R40 item 2). -/
def paying (s : State) (n : Nat) (k : State → Res) : Res := if s.canPay n then k (s.charge n) else notReady s

/-- The common end of an instruction with one result: pay, write, retire (R98, R100). -/
def finish (s : State) (n : Nat) (w : State → State) : Res := paying s n (fun p => .next ((w p).retire s))

namespace State

/-! ### Batches and the in-flight table (R167 to R171, R458) -/

/-- Batches of a slot that are outstanding: those with an operation not complete, and a non-empty open batch. -/
def outstanding (s : State) (c : Nat) (t : Fin 4) : Nat :=
  let l := s.slotAt c t
  let live := ((s.core c).ops.filter (fun o => o.slot == t && !o.failed)).map (fun o => o.batch)
  (live.foldl (fun a b => insertNat b a) (if l.batchUsed then [l.batch] else [])).length

/-- The executing slot may start an operation that joins its open batch (R40 item 7, R458). -/
def canJoin (s : State) : Bool :=
  s.here.ops.length < 64 && (s.slot.batchUsed || s.outstanding s.curCore s.curSlotNo < 8)

/-- The number the next operation of a core takes. -/
def nextOpId (s : State) : Nat := s.here.nextOp

/-- Starts an operation of the executing slot in its open batch. -/
def startOp (s : State) (kind : OpKind) (addr : Word) (word : InstrWord) (dest : Dest) (barrier : Option (Fin 16))
    (left : Nat) (route : Option Nat) (bytes : Nat := 1) : State :=
  let t := s.curSlotNo
  let l := s.slot
  let o : Op := ⟨s.here.nextOp, t, l.batch, kind, addr, bytes, l.ctx.pc, word, dest, barrier, left, route, none, false⟩
  (s.updHere (fun k => { k with ops := k.ops ++ [o], nextOp := k.nextOp + 1 })).updSlot (fun l => { l with batchUsed := true })

/-- Closes the open batch; an empty one is left as it is (R167). -/
def closeBatch (s : State) : State :=
  s.updSlot (fun l => if l.batchUsed then { l with batch := l.batch + 1, batchUsed := false } else l)

/-- Sets the scoreboard mark of a destination (R27). -/
def mark (s : State) (d : Dest) : State :=
  match d with
  | .none | .code => s
  | .g r => s.updSlot (fun l => { l with marksG := l.marksG ||| (1#32 <<< r.toNat) })
  | .v r => s.updSlot (fun l => { l with marksV := l.marksV ||| (1#32 <<< r.toNat) })

/-- Clears the scoreboard mark of a destination. -/
def unmark (s : State) (c : Nat) (t : Fin 4) (d : Dest) : State :=
  match d with
  | .none | .code => s
  | .g r => s.updSlotAt c t (fun l => { l with marksG := l.marksG &&& ~~~(1#32 <<< r.toNat) })
  | .v r => s.updSlotAt c t (fun l => { l with marksV := l.marksV &&& ~~~(1#32 <<< r.toNat) })

/-- A slot's route holds after one request to a page is done (R353). -/
def dropHold (l : Slot) (route : Option Nat) : Slot :=
  match route with
  | none => l
  | some v => { l with holds := (l.holds.map (fun h => if h.1 == v then (h.1, h.2.1, h.2.2 - 1) else h)).filter (fun h => h.2.2 != 0) }

/-- The fault record of an operation (R170). -/
def recordOf (o : Op) (f : FaultInfo) : FaultRec := ⟨f.addr, f.cause, f.sub, o.pc, o.batch, o.barrier, o.dest⟩

/-- An operation of a core completes: with a fault, the slot holds the record, or the entry becomes FAULT when the slot
holds one already (R170, R458). -/
def completeOp (s : State) (c : Nat) (o : Op) (f : Option FaultInfo) : State :=
  let marked := match o.kind with | .marked _ _ => true | .rmw _ _ => true | _ => false
  let s1 := (if marked then s.unmark c o.slot o.dest else s).updSlotAt c o.slot (fun l => dropHold l o.route)
  match f with
  | none => s1.updCore c (fun k => { k with ops := k.ops.filter (fun x => x.id != o.id) })
  | some fi =>
    match (s.slotAt c o.slot).fault with
    | none =>
      (s1.updCore c (fun k => { k with ops := k.ops.filter (fun x => x.id != o.id) })).updSlotAt c o.slot
        (fun l => { l with fault := some (recordOf o fi) })
    | some _ =>
      s1.updCore c (fun k => { k with ops := k.ops.map (fun x =>
        if x.id == o.id then { x with failed := true, fault := some fi, addr := fi.addr } else x) })

/-- The lower of two faults' addresses (R172). -/
def lowerFault (a b : Option FaultInfo) : Option FaultInfo :=
  match a, b with
  | none, y => y
  | x, none => x
  | some x, some y => if y.addr.toNat < x.addr.toNat then some y else some x

/-- One of an operation's pieces is done, perhaps with a fault; the last one completes it. -/
def pieceDone (s : State) (c : Nat) (id : Nat) (f : Option FaultInfo) : State :=
  match (s.core c).ops.find? (fun o => o.id == id && !o.failed) with
  | none => s
  | some o =>
    let f' := lowerFault o.fault f
    if o.left ≤ 1 then s.completeOp c o f'
    else s.updCore c (fun k => { k with ops := k.ops.map (fun x => if x.id == id then { x with left := x.left - 1, fault := f' } else x) })

/-- The request that a SEND made of a resident handler has faulted (R284): the operation completes with the fault, or, complete already,
leaves it as its fault record. -/
def sentFault (s : State) (c id : Nat) (f : FaultInfo) : State :=
  match (s.core c).sends.find? (fun o => o.id == id) with
  | none => s
  | some o =>
    let s1 := s.updCore c (fun k => { k with sends := k.sends.filter (fun x => x.id != id) })
    if (s.core c).ops.any (fun x => x.id == id) then
      s1.updCore c (fun k => { k with ops := k.ops.map (fun x => if x.id == id then { x with fault := lowerFault x.fault (some f) } else x) })
    else
      match (s.slotAt c o.slot).fault with
      | none => s1.updSlotAt c o.slot (fun l => { l with fault := some (recordOf o f) })
      | some _ => s1.updCore c (fun k => { k with ops := k.ops ++ [{ o with failed := true, fault := some f, addr := f.addr }] })

/-- So many pieces are done alike. -/
def piecesDone (s : State) (c id : Nat) (f : Option FaultInfo) : Nat → State
  | 0 => s
  | k + 1 => (s.pieceDone c id f).piecesDone c id f k

/-- Raises the executing slot's fault record as a trap and clears it; the oldest FAULT entry becomes the record (R170,
R458). -/
def trapRecord (s : State) (r : FaultRec) : State :=
  let t := s.curSlotNo
  let next := s.here.ops.find? (fun o => o.slot == t && o.failed)
  let s1 :=
    match next with
    | none => s.updSlot (fun l => { l with fault := none, moreFaults := false })
    | some o =>
      (s.updHere (fun k => { k with ops := k.ops.filter (fun x => x.id != o.id) })).updSlot
        (fun l => { l with fault := o.fault.map (recordOf o) })
  let s2 := (s1.note (.log 7 (bytesOf 8 (r.sub ++ r.cause).toNat ++ bytesOf 8 r.addr.toNat))).trap r.cause r.sub r.addr
  if s.unitMode then s2.updSlot (fun l => { l with trapWork := some ⟨0, 0, 0, true⟩ }) else s2

end State

end Sys2Proof.Machine
end

