-- ==== Sys2Proof/Machine/Flags.lean ====
section
/-!
DEFINITION. The FPMODE flags and the rounding mode of the executing context (R35, R47, R54, Table 1.4).
-/
namespace Sys2Proof.Machine

/-- FPMODE.RM. -/
def State.rm (s : State) : Rm := Rm.ofBits (s.ctx.fpmode.extractLsb' 0 3)

/-- The sticky flags NV, DZ, OF, UF, NX are set where an operation raises them and are never cleared by it (R54). -/
def State.raise (s : State) (f : FpFlags) : State :=
  s.updCtx (fun r => { r with fpmode := r.fpmode ||| (f ++ 0#8) })

/-- The OR of the flags of several results. -/
def orFlags (xs : List FOut) : FpFlags := xs.foldl (fun a x => a ||| x.fl) flNone

/-- The precision codes of the FPU major (R106): 0 fp32, 1 fp64, 2 fp16, 3 bf16. -/
def fmtOfP (p : BitVec 2) : FFmt :=
  match p.toNat with
  | 0 => .fp32
  | 1 => .fp64
  | 2 => .fp16
  | _ => .bf16

/-- The low bits of a g register that hold a value of a format (R99). -/
def fSrc (f : FFmt) (x : Word) : Nat := x.toNat % 2 ^ f.width

/-- A floating-point result in the low bits of a g register, zero above (R99). -/
def fDst (x : FOut) : Word := BitVec.ofNat 64 x.bits

end Sys2Proof.Machine
end

