-- ==== Sys2Proof/Machine/Operands.lean ====
section
/-!
DEFINITION. Operand forms: vector elements and masks (R22, R128, R129), queue operands (R132), immediates (R105), and the
rows and elements that instructions read and write.
-/
namespace Sys2Proof.Machine

/-! ### Immediates -/

/-- imm sign-extended to 64 bits. -/
abbrev sext {n : Nat} (x : BitVec n) : Word := x.signExtend 64

/-- imm zero-extended to 64 bits. -/
abbrev zext {n : Nat} (x : BitVec n) : Word := x.zeroExtend 64

/-! ### Elements -/

/-- The element size in bytes of an integer ew code (R81). -/
def intSize (ew : BitVec 2) : Nat := 2 ^ ew.toNat

/-- The floating-point format of an ew code (R81). -/
def ewFmt (ew : BitVec 2) : FFmt := FFmt.ofCode ew

/-- The element size in bytes of a floating-point ew code (R128). -/
def fltSize (ew : BitVec 2) : Nat := (ewFmt ew).width / 8

/-- Element i of a row of e-byte elements. -/
def lane (e : Nat) (r : Row) (i : Nat) : Nat := (r.extractLsb' (8 * e * i) (8 * e)).toNat

/-- A row from its e-byte elements, element 0 first; missing ones are zero. -/
def packLanes (e : Nat) (xs : List Nat) : Row :=
  BitVec.ofNat 512 (xs.foldr (fun x a => x % 2 ^ (8 * e) + a * 2 ^ (8 * e)) 0)

/-- Element i of e bytes is selected by bit i x e of a mask (R22). -/
def active (mask : Word) (e i : Nat) : Bool := mask.getLsbD (i * e)

/-- A row whose active elements are given and whose other elements are the old ones (R129). -/
def mergeLanes (e : Nat) (mask : Word) (old : Row) (f : Nat → Nat) : Row :=
  packLanes e ((List.range (64 / e)).map (fun i => if active mask e i then f i else lane e old i))

/-- As `mergeLanes`, for results that raise flags: the flags are the OR over the active elements (R54). -/
def mergeFlags (e : Nat) (mask : Word) (old : Row) (f : Nat → FOut) : Row × FpFlags :=
  let rs := (List.range (64 / e)).map (fun i => if active mask e i then f i else ⟨lane e old i, flNone⟩)
  (packLanes e (rs.map (fun r => r.bits)), orFlags rs)

/-- The bits of a mask register written by a compare: all e bits of each active element's range (R147). -/
def maskBits (e : Nat) (mask old : Word) (f : Nat → Bool) : Word :=
  BitVec.ofNat 64 ((List.range 64).foldr (fun j a =>
    let i := j / e
    let b := if active mask e i then f i else old.getLsbD j
    (if b then 1 else 0) + 2 * a) 0)

/-- The bytes of a row, lowest address first (R11, Table 1.1). -/
def rowBytes (r : Row) : List Byte := bytesOf 64 r.toNat

/-- A row from 64 bytes. -/
def rowOf (bs : List Byte) : Row := BitVec.ofNat 512 (natOfBytes bs)

/-! ### Queue operands (R132, R182) -/

namespace State

/-- The head entry of an inbound queue of the executing core. -/
def qHead (s : State) (q : Fin 8) : Option QEntry := (s.here.queues.get q).head?

/-- The channels that sent some entries, each named by its first entry, with how many each sent. -/
def creditsOf : List QEntry → List (QEntry × Nat)
  | [] => []
  | e :: r =>
    let same := fun (x : QEntry) =>
      x.srcCore == e.srcCore && x.srcSlot == e.srcSlot && x.chan == e.chan && x.gen == e.gen && x.unit == e.unit && x.launch == e.launch
    match takeFirst (fun x => same x.1) (creditsOf r) with
    | some (x, rest) => (e, x.2 + 1) :: rest
    | none => (e, 1) :: creditsOf r

/-- A credit flit to a channel, at the cost of the receiver's plate (R248, Table 15.4). -/
def returnCredit (s : State) (c : Nat) (x : QEntry × Nat) : State :=
  (s.housePay c (s.hopsDst c x.1.srcCore)).post x.1.srcCore 63 ⟨c, x.1.srcSlot, 0, 0, 0, 0⟩
    (.credit x.1.chan x.2 x.1.gen x.1.unit x.1.launch)

/-- Removes the first n entries of a core's queue; the credits of one channel return in one flit (R248). -/
def popMany (s : State) (c : Nat) (q : Fin 8) (n : Nat) : State :=
  let xs := (s.core c).queues.get q
  (creditsOf (xs.take n)).foldl (fun t x => t.returnCredit c x) (s.updCore c (fun k => { k with queues := k.queues.set q (xs.drop n) q.isLt }))

/-- Removes the head entry of a core's queue. -/
def popAt (s : State) (c : Nat) (q : Fin 8) : State := s.popMany c q 1

/-- Pops a queue of the executing core; a recording logs the entry (Table 20.7, kind 3). -/
def popQ (s : State) (q : Fin 8) : State :=
  match s.qHead q with
  | none => s
  | some e => (s.note (.log 3 (rowBytes e.data))).popAt s.curCore q

/-- As `popQ`, when an instruction names a queue. -/
def popOpt (s : State) : Option (Fin 8) → State
  | none => s
  | some q => s.popQ q

end State

/-- The queue that a register field names (R81). -/
def queueOf (x : BitVec 5) : Fin 8 := ⟨x.toNat % 8, Nat.mod_lt _ (by decide)⟩

/-- The vector sources of a V-format word: the rows and the queue to pop, or the queue that is empty. -/
inductive VSources where
  | got (a b : Row) (pop : Option (Fin 8))
  | empty (q : Fin 8)
deriving DecidableEq, Repr

/-- R81: which sources are queues. -/
def vSources (s : State) (qs : BitVec 2) (va vb : BitVec 5) : VSources :=
  match qs.toNat with
  | 1 =>
    match s.qHead (queueOf va) with
    | some e => .got e.data (s.v vb) (some (queueOf va))
    | none => .empty (queueOf va)
  | 2 =>
    match s.qHead (queueOf vb) with
    | some e => .got (s.v va) e.data (some (queueOf vb))
    | none => .empty (queueOf vb)
  | _ => .got (s.v va) (s.v vb) none

/-- An empty queue: the slot is not ready (R40 item 4); in the teller it is the trap QUEUE 0x04 (R41, R156). -/
def emptyQueue (s : State) (q : Fin 8) : Res :=
  if s.isTeller then trapped s causeQUEUE 4 (BitVec.ofNat 64 q.val) else notReady s

/-- The common shape of a vector instruction: sources, then the coins, the pop, the result, and the end. -/
def vecFinish (s : State) (n : Nat) (qs : BitVec 2) (va vb : BitVec 5) (w : Row → Row → State → State) : Res :=
  match vSources s qs va vb with
  | .empty q => emptyQueue s q
  | .got a b pop => paying s n (fun p => .next ((w a b (p.popOpt pop)).retire s))

end Sys2Proof.Machine
end

