-- ==== Sys2Proof/Machine/Alu.lean ====
section
/-!
DEFINITION. The ALU major (04_scalar_control.md, R98 to R104, Tables 4.1 to 4.4).
-/
namespace Sys2Proof.Machine

/-- One integer result, two coins (Table 4.1). -/
def putG (s : State) (d : BitVec 5) (x : Word) : Res := finish s 2 (fun p => p.setG d x)

/-- sh of R102. -/
def shOf (b : Word) : Nat := b.toNat % 64

/-- A truth value as a word. -/
def boolWord (b : Bool) : Word := if b then 1 else 0

/-- The number of leading zero bits. -/
def clz64 (a : Word) : Nat := if a = 0 then 64 else 63 - Nat.log2 a.toNat

/-- The number of trailing zero bits. -/
def ctz64 (a : Word) : Nat := ((List.range 64).find? (fun i => a.getLsbD i)).getD 64

/-- The number of one bits. -/
def popc64 (a : Word) : Nat := ((List.range 64).filter (fun i => a.getLsbD i)).length

/-- The bytes reversed. -/
def bswap64 (a : Word) : Word := BitVec.ofNat 64 (natOfBytes (bytesOf 8 a.toNat).reverse)

/-- The position and effective width of R103. -/
def fieldOf (b : Word) : Nat × Nat :=
  let p := b.toNat % 64
  (p, min (b.toNat / 2 ^ 8 % 2 ^ 7) (64 - p))

/-- EXTU (R103). -/
def extractU (a b : Word) : Word := BitVec.ofNat 64 (a.toNat / 2 ^ (fieldOf b).1 % 2 ^ (fieldOf b).2)

/-- EXTS (R103). -/
def extractS (a b : Word) : Word := BitVec.ofInt 64 (signedOf (fieldOf b).2 (a.toNat / 2 ^ (fieldOf b).1))

/-- INSF (R103). -/
def insertField (a b d : Word) : Word :=
  let mask : Word := BitVec.ofNat 64 ((2 ^ (fieldOf b).2 - 1) * 2 ^ (fieldOf b).1)
  (d &&& ~~~mask) ||| ((a <<< (fieldOf b).1) &&& mask)

/-- DIV (Tables 4.3 and 4.4): the overflowing quotient wraps to -2^63. -/
def divS (a b : Word) : Word := if b = 0 then BitVec.allOnes 64 else BitVec.ofInt 64 (a.toInt.tdiv b.toInt)

/-- DIVU (Tables 4.3 and 4.4). -/
def divU (a b : Word) : Word := if b = 0 then BitVec.allOnes 64 else a / b

/-- REM (Tables 4.3 and 4.4). -/
def remS (a b : Word) : Word := if b = 0 then a else BitVec.ofInt 64 (a.toInt.tmod b.toInt)

/-- REMU (Tables 4.3 and 4.4). -/
def remU (a b : Word) : Word := if b = 0 then a else a % b

def execAdd (d a b : BitVec 5) (s : State) : Res := putG s d (s.g a + s.g b)
def execSub (d a b : BitVec 5) (s : State) : Res := putG s d (s.g a - s.g b)
def execAnd (d a b : BitVec 5) (s : State) : Res := putG s d (s.g a &&& s.g b)
def execOr (d a b : BitVec 5) (s : State) : Res := putG s d (s.g a ||| s.g b)
def execXor (d a b : BitVec 5) (s : State) : Res := putG s d (s.g a ^^^ s.g b)
def execAndn (d a b : BitVec 5) (s : State) : Res := putG s d (s.g a &&& ~~~(s.g b))
def execSll (d a b : BitVec 5) (s : State) : Res := putG s d (s.g a <<< shOf (s.g b))
def execSrl (d a b : BitVec 5) (s : State) : Res := putG s d (s.g a >>> shOf (s.g b))
def execSra (d a b : BitVec 5) (s : State) : Res := putG s d ((s.g a).sshiftRight (shOf (s.g b)))
def execRotr (d a b : BitVec 5) (s : State) : Res := putG s d ((s.g a).rotateRight (shOf (s.g b)))
def execSlt (d a b : BitVec 5) (s : State) : Res := putG s d (boolWord ((s.g a).slt (s.g b)))
def execSltu (d a b : BitVec 5) (s : State) : Res := putG s d (boolWord ((s.g a).ult (s.g b)))
def execMin (d a b : BitVec 5) (s : State) : Res := putG s d (if (s.g b).slt (s.g a) then s.g b else s.g a)
def execMax (d a b : BitVec 5) (s : State) : Res := putG s d (if (s.g a).slt (s.g b) then s.g b else s.g a)
def execMinu (d a b : BitVec 5) (s : State) : Res := putG s d (if (s.g b).ult (s.g a) then s.g b else s.g a)
def execMaxu (d a b : BitVec 5) (s : State) : Res := putG s d (if (s.g a).ult (s.g b) then s.g b else s.g a)
def execMul (d a b : BitVec 5) (s : State) : Res := putG s d (s.g a * s.g b)
def execMulh (d a b : BitVec 5) (s : State) : Res :=
  putG s d (BitVec.ofInt 64 (((s.g a).toInt * (s.g b).toInt) / 2 ^ 64))
def execMulhu (d a b : BitVec 5) (s : State) : Res :=
  putG s d (BitVec.ofNat 64 (((s.g a).toNat * (s.g b).toNat) / 2 ^ 64))
def execDiv (d a b : BitVec 5) (s : State) : Res := putG s d (divS (s.g a) (s.g b))
def execDivu (d a b : BitVec 5) (s : State) : Res := putG s d (divU (s.g a) (s.g b))
def execRem (d a b : BitVec 5) (s : State) : Res := putG s d (remS (s.g a) (s.g b))
def execRemu (d a b : BitVec 5) (s : State) : Res := putG s d (remU (s.g a) (s.g b))
def execClz (d a : BitVec 5) (s : State) : Res := putG s d (BitVec.ofNat 64 (clz64 (s.g a)))
def execCtz (d a : BitVec 5) (s : State) : Res := putG s d (BitVec.ofNat 64 (ctz64 (s.g a)))
def execPopc (d a : BitVec 5) (s : State) : Res := putG s d (BitVec.ofNat 64 (popc64 (s.g a)))
def execBswap (d a : BitVec 5) (s : State) : Res := putG s d (bswap64 (s.g a))
def execSel (d a b : BitVec 5) (s : State) : Res :=
  putG s d ((s.g a &&& s.g d) ||| (s.g b &&& ~~~(s.g d)))
/-- The shift is fn[7:6] + 1. -/
def execShadd (d a b : BitVec 5) (n : BitVec 2) (s : State) : Res := putG s d ((s.g a <<< (n.toNat + 1)) + s.g b)
def execExtu (d a b : BitVec 5) (s : State) : Res := putG s d (extractU (s.g a) (s.g b))
def execExts (d a b : BitVec 5) (s : State) : Res := putG s d (extractS (s.g a) (s.g b))
def execInsf (d a b : BitVec 5) (s : State) : Res := putG s d (insertField (s.g a) (s.g b) (s.g d))

/-! ### The immediate majors (R105, Table 4.6) -/

/-- The address of the executing word: a frame word's own address while an RPT runs, otherwise the PC (R111). -/
def State.ownPc (s : State) : BitVec 15 :=
  match s.curWho with
  | .teller => s.pc
  | .slot _ =>
    match s.slot.rpt with
    | none => s.pc
    | some r => s.pc + 4 + 4 * ((s.g r.c).extractLsb' 40 4).zeroExtend 15

/-- (PC + offset x 4) mod 2^15. -/
def pcPlus (p : BitVec 15) (off : Int) : BitVec 15 := BitVec.ofInt 15 ((p.toNat : Int) + off * 4)

def execAddi (d a : BitVec 5) (i : BitVec 16) (s : State) : Res := putG s d (s.g a + sext i)
def execAndi (d a : BitVec 5) (i : BitVec 16) (s : State) : Res := putG s d (s.g a &&& zext i)
def execOri (d a : BitVec 5) (i : BitVec 16) (s : State) : Res := putG s d (s.g a ||| zext i)
def execXori (d a : BitVec 5) (i : BitVec 16) (s : State) : Res := putG s d (s.g a ^^^ zext i)
def execSlti (d a : BitVec 5) (i : BitVec 16) (s : State) : Res := putG s d (boolWord ((s.g a).slt (sext i)))
def execSltiu (d a : BitVec 5) (i : BitVec 16) (s : State) : Res := putG s d (boolWord ((s.g a).ult (sext i)))
def execSlli (d a : BitVec 5) (n : BitVec 6) (s : State) : Res := putG s d (s.g a <<< n.toNat)
def execSrli (d a : BitVec 5) (n : BitVec 6) (s : State) : Res := putG s d (s.g a >>> n.toNat)
def execSrai (d a : BitVec 5) (n : BitVec 6) (s : State) : Res := putG s d ((s.g a).sshiftRight n.toNat)
def execRotri (d a : BitVec 5) (n : BitVec 6) (s : State) : Res := putG s d ((s.g a).rotateRight n.toNat)
/-- LIH: bits [16h + 15 : 16h] of the old g[d] replaced. -/
def execLih (d : BitVec 5) (h : BitVec 2) (i : BitVec 16) (s : State) : Res :=
  putG s d ((s.g d &&& ~~~((0xFFFF : Word) <<< (16 * h.toNat))) ||| (zext i <<< (16 * h.toNat)))
def execAdpc (d : BitVec 5) (i : BitVec 16) (s : State) : Res := putG s d ((pcPlus s.ownPc i.toInt).zeroExtend 64)

end Sys2Proof.Machine
end

