-- ==== Sys2Proof/Machine/BootKernel.lean ====
section
/-!
DEFINITION. The plate boot program of R448, instruction by instruction; `li` takes the words that R97 gives it, and shadd.n holds n - 1 (Table 3.7).
-/
namespace Sys2Proof.Machine

/-- li with 0x1D000 or an offset from it: four words. -/
def liRec (g : BitVec 5) (low : BitVec 16) : List Instr := [.addi g 0 low, .lih g 1 1, .lih g 2 0, .lih g 3 0]

/-- li with 0x15000: two words. -/
def liStage (g : BitVec 5) : List Instr := [.addi g 0 0x5000, .lih g 1 1]

/-- Labels entry, blk, sd and sn: the seed sends the image to its children. -/
def bootSend : List Instr :=
  liRec 24 0xD000 ++ liStage 25 ++
  [.addi 26 0 0, .slli 11 26 9, .add 11 11 25, .addi 12 0 0, .shadd 13 12 24 2, .ld 14 13 6 2, .beq 14 0 3, .addi 15 0 8,
   .send 15 14 11 16, .addi 12 12 1, .slti 13 12 4, .bne 13 0 (-7), .addi 26 26 1, .slti 13 26 32, .bne 13 0 (-13)]

/-- Label wt: the seed waits for every other core, and marks itself present. -/
def bootWait : List Instr :=
  [.ld 16 24 3 3, .addi 16 16 (-1), .ld 17 24 6 9, .bne 17 16 (-1), .ld 21 24 3 0, .srli 22 21 6, .shadd 22 22 24 2,
   .ld 17 22 6 16, .addi 23 0 1, .sll 23 23 21, .or 17 17 23, .st 17 22 6 16]

/-- Labels mp, no and nx: the seed numbers the present cores. -/
def bootMap : List Instr :=
  [.addi 18 0 0, .addi 19 0 0, .addi 20 0 (-1), .srli 21 18 6, .shadd 21 21 24 2, .ld 22 21 6 16, .shadd 23 18 24 0,
   .bbc 22 18 4, .st 19 23 2 128, .addi 19 19 1, .jal 0 2, .st 20 23 2 128, .addi 18 18 1, .slti 21 18 1024, .bne 21 0 (-11),
   .st 19 24 6 10, .exit]

/-- The kernel's .text. -/
def bootText : List Instr := bootSend ++ bootWait ++ bootMap

/-- Handler 16: label img. -/
def bootImg : List Instr :=
  liRec 8 0xD000 ++ [.ld 9 8 6 8, .slli 10 9 9] ++ liStage 11 ++
  [.add 10 10 11, .addi 12 0 8, .or 13 3 0, .ldv 0 13 0 0, .stv 0 10 0 0, .addi 13 13 64, .addi 10 10 64, .addi 12 12 (-1),
   .bne 12 0 (-5), .addi 9 9 1, .st 9 8 6 8, .addi 12 0 0, .shadd 13 12 8 2, .ld 14 13 6 2, .beq 14 0 2, .send 4 14 3 16,
   .addi 12 12 1, .slti 15 12 4, .bne 15 0 (-6), .slti 15 9 32, .bne 15 0 4, .fence 2 0, .ld 14 8 6 6, .send 0 14 3 17, .exit]

/-- Handler 17: label done. -/
def bootDone : List Instr :=
  [.andi 8 5 31, .srli 9 5 9, .andi 9 9 31, .slli 9 9 5, .or 9 9 8, .srli 10 9 6] ++ liRec 11 0xD080 ++
  [.shadd 10 10 11 2, .andi 9 9 63, .addi 12 0 1, .sll 12 12 9, .amoOr 0 10 12 0 1] ++ liRec 11 0xD048 ++
  [.addi 12 0 1, .amoAdd 0 11 12 0 1, .exit]

/-- Instructions as the bytes of a program store. -/
def codeBytes (is : List Instr) : List Byte := is.flatMap (fun i => bytesOf 4 (encode i).toNat)

end Sys2Proof.Machine
end

