-- ==== Sys2Proof/Machine/Access.lean ====
section
/-!
DEFINITION. Addresses and the checks every access makes (06_memory_messages.md, R153 to R155, R486; 08, R228 to R246; 13,
R339 to R353).
-/
namespace Sys2Proof.Machine

/-! ### Global addresses and clearing cores (R339, R345) -/

/-- The virtual page number of a global address (Table 13.1). -/
def vpnOf (va : Word) : BitVec 33 :=
  if va.toNat < 0x800000000000 then BitVec.ofNat 33 (va.toNat / 2 ^ 16) else BitVec.ofNat 33 (2 ^ 32 + va.toNat / 2 ^ 21)

/-- The bytes of a page (Table 13.1). -/
def pageSize (large : Bool) : Nat := if large then 2 ^ 21 else 2 ^ 16

/-- A VPN of the 2 MiB region. -/
def vpnLarge (v : BitVec 33) : Bool := v.getLsbD 32

/-- The first address of a page. -/
def vpnBase (v : BitVec 33) : Word :=
  if vpnLarge v then BitVec.ofNat 64 ((v.toNat - 2 ^ 32) * 2 ^ 21) else BitVec.ofNat 64 (v.toNat * 2 ^ 16)

/-- A global address (R153). -/
def isGlobal (va : Word) : Bool := 0x100000000 ≤ va.toNat && va.toNat < 2 ^ 48

/-- fold64 (R345). -/
def fold64 (x : Word) : Word :=
  let x := x ^^^ (x >>> 31)
  let x := x * 0x9E6C63D0676A9A99
  let x := x ^^^ (x >>> 29)
  let x := x * 0x8A5CD789635D2DFF
  x ^^^ (x >>> 32)

/-- floor(fp64((b + 1) x fp64(2^31 / d))), each fp64 rounded by RNE (R345). -/
def jumpNext (b d : Nat) : Nat :=
  let q := divSticky (2 ^ 31) d 60
  match unpack .fp64 (roundFixed .fp64 .rne false q.1 (-(q.2 : Int))).bits with
  | .fin _ m e =>
    match unpack .fp64 (roundFixed .fp64 .rne false ((b + 1) * m) e).bits with
    | .fin _ m2 e2 => if 0 ≤ e2 then m2 <<< e2.toNat else m2 >>> (-e2).toNat
    | _ => 0
  | _ => 0

/-- The loop of jump (R345); each round raises j by at least one, so n rounds are enough. -/
def jumpLoop (n : Nat) : Nat → Word → Nat → Nat → Nat
  | 0, _, b, _ => b
  | fuel + 1, key, b, j =>
    if n ≤ j then b
    else
      let key' := key * 2862933555777941757 + 1
      jumpLoop n fuel key' j (jumpNext j ((key' >>> 33).toNat + 1))

/-- jump (R345): the jump consistent hash. -/
def jump (key : Word) (n : Nat) : Nat := jumpLoop n (n + 1) key 0 0

/-- N of a module (R345). -/
def coresOf (s : State) (m : BitVec 8) : Nat := if m == s.modNo then s.ncores else Config.remoteCores m

/-- The logical number of a page's clearing core (R345). -/
def clearingNo (s : State) (job : BitVec 24) (vpn : BitVec 33) : BitVec 18 :=
  BitVec.ofNat 18 (jump (fold64 (vpn.zeroExtend 64 ^^^ (job.zeroExtend 64 <<< 40))) (coresOf s (clearingMod s job)))

/-- The core with a number on a job's clearing module, as a message destination: a lost core's number passes to its spare (R440). -/
def coreOn (s : State) (m : BitVec 8) (n : BitVec 18) : Nat := if m == s.modNo then (s.ofNumber n).getD 0 else 2 ^ 20 + (m ++ n).toNat

/-- The core that answers as a page's clearing core. -/
def clearingCore (s : State) (job : BitVec 24) (vpn : BitVec 33) : Nat := coreOn s (clearingMod s job) (clearingNo s job vpn)

/-- Where a message to a page's clearing core goes: its number's place (R440). -/
def clearingPlace (s : State) (job : BitVec 24) (vpn : BitVec 33) : Nat := s.placeOf (clearingMod s job ++ clearingNo s job vpn)

/-- An entry of a vault map or of a clearing core's entries. -/
def findPage (ps : List PageEntry) (job : BitVec 24) (vpn : BitVec 33) : Option PageEntry :=
  ps.find? (fun p => p.job == job && p.vpn == vpn)

/-- The page's entry at its clearing core. -/
def pageEntry (s : State) (job : BitVec 24) (vpn : BitVec 33) : Option PageEntry :=
  findPage (s.core (clearingCore s job vpn)).pages job vpn

/-- The global core address of a page's home. -/
def PageEntry.home (p : PageEntry) : BitVec 26 := p.mod ++ p.core

/-- The clearing cores of a job lie in this module. -/
def clearsHere (s : State) (job : BitVec 24) : Bool := clearingMod s job == s.modNo

/-- A page's entry as this module has it: its clearing core's, or, for a job of another module, that of the vault map of a home. -/
def knownPage (s : State) (job : BitVec 24) (vpn : BitVec 33) : Option PageEntry :=
  if clearsHere s job then pageEntry s job vpn else s.cores.findSome? (fun k => findPage k.2.vaultMap job vpn)

/-- A page whose home was lost without a plan (R441). -/
def homeGone (s : State) (p : PageEntry) : Bool := p.mod == s.modNo && s.logical && s.lost.contains (s.ofLogical p.core.toNat)

/-- The home of an entry in this module, when it is not lost. -/
def entryHome (s : State) (p : PageEntry) : Option Nat := if homeGone s p then none else s.ofId (p.mod ++ p.core)

/-- The vault physical offset of an address in a page (R235). -/
def vaultOff (p : PageEntry) (va : Word) : Nat :=
  if p.large then (p.frame.toNat / 32) * 2 ^ 21 + va.toNat % 2 ^ 21 else p.frame.toNat * 2 ^ 16 + va.toNat % 2 ^ 16

/-- The bank index z of a vault offset (R237). -/
def bankOf (off : Nat) : Nat := off / 2 ^ 19 % 32

/-- The row of a vault offset in its bank (R235). -/
def rowOfOff (off : Nat) : BitVec 8 := BitVec.ofNat 8 (off / 2 ^ 11)

def State.bank (s : State) (c z : Nat) : Bank := Tab.get (s.core c).banks z Bank.reset

def State.setBank (s : State) (c z : Nat) (b : Bank) : State :=
  s.updCore c (fun k => { k with banks := Tab.put k.banks z b })

/-! ### The local address space (Table 8.1) -/

/-- The till of the direction's lender, when the core holds a grant there (LWINMASK). -/
def lenderOf (k : Core) (d : Nat) : Option Nat := (k.grants.find? (fun g => g.dir.val == d)).map (fun g => g.lender)

/-- LWINMASK of a core (Table 1.2). -/
def winMask (k : Core) : BitVec 4 :=
  BitVec.ofNat 4 (((List.range 4).filter (fun d => (lenderOf k d).isSome)).foldl (fun a d => a + 2 ^ d) 0)

/-- Where a local address of a core lies: its own till, or a lender's (R228). -/
def localKey (s : State) (c : Nat) (a : Nat) : Option Nat :=
  if a < 0x20000 then some (tillKey c a)
  else if a < 0xA0000 then (lenderOf (s.core c) ((a - 0x20000) / 0x20000)).map (fun l => tillKey l (a % 0x20000))
  else none

/-- Who makes an access, for check 3: unit mode, system mode, or a user handler with its landing buffer (R154, R282). -/
inductive Rights where
  | unit
  | system
  | handler (buffer : Fin 8)
deriving DecidableEq, Repr

/-- The rights of the executing context; the teller sees no window (R229). -/
def State.rights (s : State) : Rights :=
  match s.curWho with
  | .slot _ => if s.unitMode then .unit else .system
  | .teller =>
    match s.here.teller.act with
    | some a => if a.handler.toNat < 16 then .system else .handler a.buffer
    | none => .system

/-- The landing buffer i (R278). -/
def bufferAddr (i : Fin 8) : Nat := 0x1F000 + 512 * i.val

/-- Check 3 of R154 for a local address: the LOCALBOUND subcode it fails with. -/
def localCheck (s : State) (a : Nat) : Option (BitVec 8) :=
  if a < 0x1E000 then none
  else if a < 0x20000 then
    match s.rights with
    | .unit => some 2
    | .system => none
    | .handler b => if bufferAddr b ≤ a && a < bufferAddr b + 512 then none else some 2
  else if a < 0xA0000 then
    if s.isTeller || (lenderOf s.here ((a - 0x20000) / 0x20000)).isNone then some 1
    else if 0x1E000 ≤ a % 0x20000 then some 2
    else none
  else some 0

/-- Why an access does not go on. -/
inductive Stop where
  | trap (cause sub : BitVec 8) (val : Word)
  /-- A page not homed here: REMOTEREF, or a migration (R155). -/
  | remote (va : Word)
  /-- Not ready: a moving page, a refreshing bank, a row that awaits repair, a pacing rule. -/
  | wait
  /-- The debug module stops the slot at a watchpoint (R455). -/
  | watch
  /-- Uncorrectable data in the block at a key (R428). -/
  | uncorr (va : Word) (key : Nat)
deriving DecidableEq, Repr

/-- The lowest address of a local range that fails check 3 (R486): regions change only at multiples of 512 here. -/
def rangeScan (s : State) : Nat → Nat → Nat → Option (Nat × BitVec 8)
  | 0, _, _ => none
  | fuel + 1, a, hi =>
    if hi ≤ a then none
    else
      match localCheck s a with
      | some sub => some (a, sub)
      | none => rangeScan s fuel ((a / 512 + 1) * 512) hi

/-- The lowest uncorrectable block that a local range of a core touches. -/
def localBad (s : State) (c a n : Nat) : Option Nat :=
  if s.bad.isEmpty || n == 0 then none
  else
    ((List.range ((a + n - 1) / 64 - a / 64 + 1)).map (fun i => (a / 64 + i) * 64)).find? (fun b =>
      match localKey s c b with
      | some k => s.bad.contains k
      | none => false)

/-- R486 and checks 1, 3 and 6 of R154 on a local operand range. -/
def localRange (s : State) (a : Word) (n : Nat) (reads : Bool) : Option Stop :=
  if n == 0 then none
  else if a.toNat ≥ 2 ^ 48 then some (.trap causeLOCALBOUND 3 a)
  else if isGlobal a then some (.trap causeLOCALBOUND 6 a)
  else
    match rangeScan s 1300 a.toNat (a.toNat + n) with
    | some (b, sub) => some (.trap causeLOCALBOUND sub (BitVec.ofNat 64 b))
    | none =>
      if reads then
        match localBad s s.curCore a.toNat n with
        | some b => some (.uncorr (BitVec.ofNat 64 b) ((localKey s s.curCore b).getD 0))
        | none => none
      else none

/-- Bytes of a core's local address space. -/
def readLocal (s : State) (c a : Nat) : Nat → List Byte
  | 0 => []
  | n + 1 => (match localKey s c a with | some k => s.mem.read k | none => 0) :: readLocal s c (a + 1) n

/-- The side of a copy at a local address of a core (R299): the copied range meets one window at most, which its end shows. -/
def copySide (s : State) (c : Nat) (a : Word) (n : Nat) : CopySide :=
  ⟨c, a, if n = 0 || a.toNat + n ≤ 0x20000 then none else lenderOf (s.core c) ((a.toNat + n - 1 - 0x20000) / 0x20000)⟩

/-- Where a block at a local address of a copy's side lies: in the core's own till, or in that of the lender that its window showed,
while the lender is not gone (R299). -/
def sideKey (s : State) (c : Nat) (a : Nat) (via : Option Nat) : Option Nat :=
  if a < 0x20000 then some (tillKey c a)
  else match via with
    | some l => if s.isActive l then some (tillKey l (a % 0x20000)) else none
    | none => none

/-- Bytes stored into a core's local address space. -/
def writeLocal (s : State) (c a : Nat) : List Byte → State
  | [] => s
  | b :: bs =>
    writeLocal (match localKey s c a with
      | some k => { s with mem := s.mem.write k b }
      | none => s) c (a + 1) bs

/-! ### Accesses of class L (R153, R154) -/

/-- Where a checked access goes: the memory key, the coins beyond the issue's (Table 6.2), and the vault row it needs. -/
structure Loc where
  key : Nat
  /-- 0 till, 1 window, 2 vault. -/
  space : Fin 3
  /-- The row to open, when it is not open. -/
  act : Option (Nat × BitVec 8)
deriving DecidableEq, Repr

/-- Kinds of access. -/
inductive Acc where
  | read | write | both
deriving DecidableEq, Repr

def Acc.reads : Acc → Bool
  | .write => false
  | _ => true

def Acc.writes : Acc → Bool
  | .read => false
  | _ => true

/-- The job of the executing context. -/
def State.job (s : State) : BitVec 24 :=
  match s.curWho with
  | .slot _ => s.slot.jobid
  | .teller => (s.here.teller.act.map (fun a => a.job)).getD 0

/-- Row steps left of a tile instruction of a slot (R164). -/
def stepsLeft (l : Slot) (t : Tile) : Nat := (l.ctx.g.get t.b.toFin).toNat % 2 ^ 32

/-- The vault address of a tile instruction's next row step to request. -/
def nextRow (l : Slot) (t : Tile) : Word := l.ctx.g.get (if t.kind == 2 then t.d else t.a).toFin + BitVec.ofNat 64 (64 * t.data.length)

/-- A running tile instruction of the core keeps the row that its implied activation opened for its following steps in that row,
against a change of the bank to `row` (R241). -/
def tileHolds (s : State) (c z : Nat) (row : Option (BitVec 8)) : Bool :=
  (s.core c).slots.toList.any (fun l => l.tile.any (fun t => t.opened.any (fun o =>
    o.1 == z && (s.bank c z).row == some o.2 && row != some o.2 && t.data.length < stepsLeft l t &&
    (findPage (s.core c).vaultMap l.jobid (vpnOf (nextRow l t))).any (fun p =>
      bankOf (vaultOff p (nextRow l t)) == z && rowOfOff (vaultOff p (nextRow l t)) == o.2))))

/-! ### Refresh (R244, R437) -/

/-- A sensor's key: layer, cell row, cell column. -/
def cellKey (layer row col : Nat) : Nat := layer * 4096 + row * 64 + col

/-- The cell of a core in a layer. -/
def coreCell (layer c : Nat) : Nat := cellKey layer (coreY c / 8) (coreX c / 8)

/-- The double rule is in force for a sensor's layer in this cycle. -/
def fastRefresh (s : State) (key : Nat) : Bool :=
  let r := Tab.get s.refreshRule key (0, false)
  if r.1 ≤ s.cycle.toNat then r.2 else !r.2

/-- Cycles since the last start of a bank's refresh by the rule in force. -/
def refreshAge (s : State) (c z : Nat) : Nat :=
  if fastRefresh s (coreCell (z / 4) c) then (s.cycle.toNat + 1365 - 42 * z) % 1365 else (s.cycle.toNat + 2730 - 85 * z) % 2730

/-- A bank in service accepts nothing in this cycle: it refreshes (R244), or a lane group is being steered (R433). -/
def refreshing (s : State) (c z : Nat) : Bool :=
  (s.bank c z).spoke != 2 && (refreshAge s c z < 36 || s.cycle.toNat < (s.bank c z).steerEnd)

/-- Class 3 pacing of a lit core's activations (R163). -/
def pacing (s : State) (c : Nat) : Bool :=
  (s.core c).slots.toList.any (fun l => l.phase != .empty && l.heatcls == 3) &&
  (s.core c).banks.any (fun b => s.cycle.toNat < b.2.lastAct + 64 && b.2.lastAct != 0)

/-- The row an access to a vault offset must open, or that it must wait. -/
def needRow (s : State) (c off : Nat) : Except Stop (Option (Nat × BitVec 8)) :=
  let z := bankOf off
  let row := rowOfOff off
  let b := s.bank c z
  if refreshing s c z || b.awaiting.contains row then .error .wait
  else if b.row == some row then .ok none
  else if tileHolds s c z (some row) || !b.held.isEmpty || pacing s c then .error .wait
  else .ok (some (z, row))

/-- Check 5 of R154. -/
def permCheck (p : PageEntry) (acc : Acc) (va : Word) : Option Stop :=
  if acc.reads && !p.rd then some (.trap causePAGEFAULT 2 va)
  else if acc.writes && !p.w then some (.trap causePAGEFAULT 2 va)
  else if acc.writes && p.cow then some (.trap causePAGEFAULT 3 va)
  else none

/-- A range of n bytes has a byte in a page. -/
def meetsPage (va : Word) (n : Nat) (v : BitVec 33) : Bool :=
  va.toNat < (vpnBase v).toNat + pageSize (vpnLarge v) && (vpnBase v).toNat < va.toNat + n

/-- A PMAP of the executing slot that names a page of a range is outstanding: a later access to the range waits for it (R126). -/
def pmapPending (s : State) (va : Word) (n : Nat := 1) : Bool :=
  !s.isTeller && s.here.ops.any (fun o => o.slot == s.curSlotNo && !o.failed && o.word.extractLsb' 26 6 == 0x14 &&
    (meetsPage va n (vpnOf o.addr) || o.route.any (fun v => meetsPage va n (BitVec.ofNat 33 v))))

/-- The vault map entry of a global address for the executing context; a user handler that names a page of another job
traps PAGEFAULT PERM (R282). -/
def homedHere (s : State) (va : Word) : Except Stop PageEntry :=
  match findPage s.here.vaultMap s.job (vpnOf va) with
  | some p =>
    if p.st == 2 || pmapPending s va then .error .wait
    else if p.st == 1 then .ok p
    else .error (.remote va)
  | none =>
    match s.rights with
    | .handler _ =>
      if s.here.vaultMap.any (fun p => p.vpn == vpnOf va) then .error (.trap causePAGEFAULT 2 va) else .error (.remote va)
    | _ => .error (.remote va)

/-- A copy-on-write break copies the page's frame, so that writes to it are held (R364). -/
def copyBusy (k : Core) (p : PageEntry) : Bool :=
  k.rehomes.any (fun r => r.cow && r.large == p.large && r.oldFrame == p.frame)

/-- Check 6 of R154, and the write rule of R428, for an access of n bytes inside one 64-byte block. -/
def badCheck (s : State) (acc : Acc) (va : Word) (key n : Nat) : Option Stop :=
  if s.bad.contains (key / 64 * 64) && (acc.reads || n < 64) then
    some (.uncorr (va &&& ~~~63) (key / 64 * 64))
  else none

/-- A watchpoint on the address's 64-byte line that applies to the access (Table 20.3). -/
def watched (s : State) (va : Word) (acc : Acc) : Bool :=
  !s.isTeller && !s.slot.watchMet &&
  s.here.dbgMod.wp.toList.any (fun w =>
    w.extractLsb' 6 42 == va.extractLsb' 6 42 && va.toNat < 2 ^ 48 &&
    ((acc.reads && w.getLsbD 62) || (acc.writes && w.getLsbD 63)))

/-- Checks 1 to 6 of R154, in order, for an access of class L of n bytes that must be a multiple of `align`. -/
def access (s : State) (va : Word) (n align : Nat) (acc : Acc) : Except Stop Loc :=
  if 2 ^ 48 ≤ va.toNat then .error (.trap causeLOCALBOUND 3 va)
  else if va.toNat % align ≠ 0 then .error (.trap causeMISALIGN 0 va)
  else if isGlobal va then
    match homedHere s va with
    | .error e => .error e
    | .ok p =>
      match (if acc.writes && copyBusy s.here p then some .wait else permCheck p acc va) with
      | some e => .error e
      | none =>
        let off := vaultOff p va
        match needRow s s.curCore off with
        | .error e => .error e
        | .ok act =>
          match badCheck s acc va (vaultKey s.curCore off) n with
          | some e => .error e
          | none => if watched s va acc then .error .watch else .ok ⟨vaultKey s.curCore off, 2, act⟩
  else
    match localCheck s va.toNat with
    | some sub => .error (.trap causeLOCALBOUND sub va)
    | none =>
      match localKey s s.curCore va.toNat with
      | none => .error (.trap causeLOCALBOUND 0 va)
      | some key =>
        match badCheck s acc va key n with
        | some e => .error e
        | none =>
          if watched s va acc then .error .watch
          else .ok ⟨key, if va.toNat < 0x20000 then 0 else 1, none⟩

/-- The coins of an access beyond those of the issue: window 6, vault 40, and 250 for a row to open (Table 6.2). -/
def Loc.coins (l : Loc) : Nat :=
  match l.space with
  | 0 => 0
  | 1 => 6
  | 2 => 40 + (if l.act.isSome then 250 else 0)

/-- Opens a row: the implied activation of R239. -/
def State.openRow (s : State) (c : Nat) (a : Option (Nat × BitVec 8)) : State :=
  match a with
  | none => s
  | some (z, row) => s.setBank c z { s.bank c z with row := some row, lastAct := s.cycle.toNat }

/-- The core and offset of a memory key. -/
def keyCore (key : Nat) : Nat := key / 2 ^ 25
def keyOff (key : Nat) : Nat := key % 2 ^ 25

/-- A row is marked as awaiting repair (R430): cause 0 two bytes, 1 two passes, 2 uncorrectable. -/
def State.markRow (s : State) (c off cause : Nat) : State :=
  let z := bankOf off
  let row := rowOfOff off
  let b := s.bank c z
  if b.awaiting.contains row then s
  else (s.setBank c z { b with awaiting := b.awaiting ++ [row] }).event c 3 (BitVec.ofNat 5 z)
    (BitVec.ofNat 64 (off / 2048 * 2048)) (BitVec.ofNat 64 cause)

/-- A correctable block was read: the correction count rises, and two wrong bytes mark the row (R426, R430). -/
def State.corrected (s : State) (key : Nat) : State :=
  match Tab.find s.weak (key / 64 * 64) with
  | none => s
  | some w =>
    let c := keyCore key
    let off := keyOff key
    let s1 := s.updCore c (fun k => { k with corr := k.corr + 1, passCorr := k.passCorr + 1 })
    if off < 2 ^ 24 then
      let b := s1.bank c (bankOf off)
      let s2 := s1.setBank c (bankOf off) { b with laneHits := b.laneHits ++ [w.2] }
      if w.1 == 2 then s2.markRow c off 0 else s2
    else s1

/-- An uncorrectable block was found: the UNCORR record (R428), and the row mark for a vault row (R430). -/
def State.foundBad (s : State) (key : Nat) : State :=
  let c := keyCore key
  let off := keyOff key
  if off < 2 ^ 24 then (s.event c 2 (BitVec.ofNat 5 (bankOf off)) (BitVec.ofNat 64 off) 0).markRow c off 2
  else if off < 2 ^ 24 + 2 ^ 17 then s.event c 2 0 (BitVec.ofNat 64 (off - 2 ^ 24)) 1
  else s.event c 2 0 (BitVec.ofNat 64 (off - 2 ^ 24 - 2 ^ 17)) 2

/-- The blocks that n bytes from a key meet. -/
def blockKeys (key n : Nat) : List Nat := if n = 0 then [] else (List.range ((key + n - 1) / 64 - key / 64 + 1)).map (fun i => (key / 64 + i) * 64)

/-- A read of n bytes: each correctable block that it meets counts once (R426). -/
def State.correctedIn (s : State) (key n : Nat) : State := if s.weak.isEmpty then s else (blockKeys key n).foldl State.corrected s

/-- A read of n bytes of a core's local address space counts its correctable blocks (R426). -/
def State.correctedLocal (s : State) (c a n : Nat) : State :=
  if s.weak.isEmpty then s
  else (blockKeys a n).foldl (fun t b => match localKey s c b with | some k => t.corrected k | none => t) s

/-- A 64-byte aligned write makes a block sound again (R428); a scrub rewrites a correctable one. -/
def State.sound (s : State) (key : Nat) : State :=
  if s.bad.isEmpty && s.weak.isEmpty then s
  else { s with bad := s.bad.filter (fun b => b != key), weak := Tab.erase s.weak key }

/-- Every block that a write of n bytes from a key covers is sound (R428). -/
def State.soundIn (s : State) (key n : Nat) : State :=
  if s.bad.isEmpty && s.weak.isEmpty then s
  else { s with
    bad := s.bad.filter (fun b => !(key ≤ b && b + 64 ≤ key + n))
    weak := s.weak.filter (fun x => !(key ≤ x.1 && x.1 + 64 ≤ key + n)) }

/-- Bytes written at a key; the whole blocks among them are sound. -/
def State.putBytes (s : State) (key : Nat) (bs : List Byte) : State :=
  ({ s with mem := s.mem.writeBytes key bs } : State).soundIn key bs.length

/-- n bytes from a key written zero. -/
def State.clearBytes (s : State) (key n : Nat) : State := ({ s with mem := s.mem.clear key n } : State).soundIn key n

/-- A part of a lease written at a key; the whole blocks among it are sound. -/
def State.putPart (s : State) (key n : Nat) (cells : List Host.Cell) : State := ({ s with mem := s.mem.putSlice key n cells } : State).soundIn key n


/-- Whole blocks copied: a correctable one counts (R426), and an uncorrectable one stays uncorrectable where it is copied. -/
def State.copyBlocks (s : State) (src dst n : Nat) : State :=
  let t := ({ s.correctedIn src n with mem := s.mem.copy src dst n } : State).soundIn dst n
  if s.bad.isEmpty then t
  else { t with bad := t.bad ++ (s.bad.filter (fun b => src ≤ b && b < src + n)).map (fun b => b - src + dst) }


/-- The debug module stops a slot for a reason, unless a higher one of Table 20.4 stands. -/
def State.stopSlot (s : State) (c : Nat) (t : Fin 4) (reason : BitVec 4) : State :=
  let rank (r : BitVec 4) : Nat := if r == 6 then 7 else if r == 3 then 6 else if r == 4 then 5 else if r == 5 then 4 else r.toNat
  let old := (s.core c).dbgMod.reason.get t
  if rank reason ≤ rank old then s
  else s.updCore c (fun k => { k with dbgMod := { k.dbgMod with reason := k.dbgMod.reason.set t reason t.isLt } })

/-! ### Debug stops (R455, R456) -/

/-- A slot is between two frame words of one replay (Table 4.12: J is not 0). -/
def inReplay (l : Slot) : Bool :=
  match l.rpt with
  | none => false
  | some r => (if r.c = 0 then (0 : Word) else l.ctx.g.get r.c.toFin).extractLsb' 40 4 != 0

/-- An instruction boundary: an RPT only between replays, a tile instruction only between row steps, once every step that it has
requested is written (R243, R456). -/
def atBoundary (l : Slot) : Bool := !inReplay l && l.tile.all (fun t => t.data.isEmpty)

/-- A slot is stopped by the debug module, unless it has one step to make. -/
def isStopped (s : State) (c : Nat) (t : Fin 4) : Bool :=
  let d := (s.core c).dbgMod
  let r := d.reason.get t
  r != 0 && (r == 6 || !d.sstep.getLsbD t.val)

/-- A tile instruction has issued and requested no row step: a single step goes on to its first (R456). -/
def justBegun (l : Slot) : Bool := l.tile.any (fun t => t.first)

/-- HALT takes a slot at a boundary; a single step that is still to be made comes first, and stops its slot itself (R456). -/
def State.haltBoundary (s : State) (c : Nat) (t : Fin 4) : State :=
  let d := (s.core c).dbgMod
  if d.halt.getLsbD t.val && !d.sstep.getLsbD t.val && atBoundary (s.slotAt c t) then s.stopSlot c t 1 else s

/-- A slot has come to a boundary by a step of its own: the end of a single step stops it, and HALT (R456). -/
def State.debugBoundary (s : State) (c : Nat) (t : Fin 4) : State :=
  if (s.core c).dbgMod.sstep.getLsbD t.val && atBoundary (s.slotAt c t) && !justBegun (s.slotAt c t) then
    (s.updCore c (fun k => { k with dbgMod := { k.dbgMod with
      sstep := k.dbgMod.sstep &&& ~~~(1#4 <<< t.val)
      reason := if k.dbgMod.reason.get t == 1 then k.dbgMod.reason.set t 0 t.isLt else k.dbgMod.reason } })).stopSlot c t 2
  else s.haltBoundary c t

/-- A slot that left in the middle of a replay enters DRAIN where the replay ends (R112, R285). -/
def State.drainBoundary (s : State) (c : Nat) (t : Fin 4) : State :=
  let l := s.slotAt c t
  if l.phase == .run && l.leaving.isSome && !inReplay l then s.updSlotAt c t (fun l => { l with phase := .drain }) else s

/-- How an instruction that may not migrate ends on a stop. -/
def stopped (s : State) : Stop → Res
  | .trap c sub val => trapped s c sub val
  | .remote va => trapped s causeREMOTEREF 0 va
  | .wait => notReady s
  | .watch => .next (s.stopSlot s.curCore s.curSlotNo 5)
  | .uncorr va key => trapped ((s.foundBad key).note (.log 7 (bytesOf 8 9 ++ bytesOf 8 va.toNat))) causeUNCORR 0 va

end Sys2Proof.Machine
end

