-- ==== Sys2Proof/Machine/Order.lean ====
section
/-!
DEFINITION. What releases and fences wait for (06_memory_messages.md, R185, Table 6.8; 09_consistency.md, R262 to R264,
Table 9.2).
-/
namespace Sys2Proof.Machine

/-- The major opcode of a word. -/
def majorOf (w : InstrWord) : Nat := w.toNat / 2 ^ 26

/-- The global core addresses of the named positions of a core's octet; none for a position that is not active. -/
def octetIds (s : State) (a : BitVec 26) (mask : BitVec 8) : List (Option (BitVec 26)) :=
  ((List.range 8).filter (fun i => mask.getLsbD i)).map (fun i =>
    match s.ofId a with
    | some c => if s.isActive (octetCore (octetOf c) i) then some (s.coreId (octetCore (octetOf c) i)) else none
    | none => (Config.remoteOctet (a.extractLsb' 18 8) (a.extractLsb' 0 18) i).map (fun n => a.extractLsb' 18 8 ++ n))

/-- The core that a request to a page is addressed to: the page's home; where no core of this module has an entry, the page's clearing core,
which lies in the job's module (log entry 22). -/
def pageTarget (s : State) (job : BitVec 24) (vpn : BitVec 33) : BitVec 26 :=
  match knownPage s job vpn with
  | some p => p.home
  | none => clearingMod s job ++ clearingNo s job vpn

/-- The cores that an outstanding operation is addressed to: the addressees of a message, a page's home, or the operation's own core. -/
def opTargets (s : State) (o : Op) : List (Option (BitVec 26)) :=
  if majorOf o.word == 0x24 then
    (if o.word.extractLsb' 0 3 == 1 then octetIds s (o.addr.extractLsb' 0 26) (o.addr.extractLsb' 32 8) else [some (o.addr.extractLsb' 0 26)])
  else if isGlobal o.addr then [some (pageTarget s (s.slotAt s.curCore o.slot).jobid (vpnOf o.addr))]
  else [some (s.coreId s.curCore)]

/-- A core lies in the scope of a fence: 0 core, 1 octet, 2 plate, 3 module, 4 anywhere, with the other modules (R185, R266).  An
addressee that is not known here counts as inside (log entry 22). -/
def inScope (s : State) (scope : Nat) (a : Option (BitVec 26)) : Bool :=
  match a with
  | none => true
  | some a =>
    if a.extractLsb' 18 8 != s.modNo then 4 ≤ scope
    else
      match scope, s.ofId a with
      | 0, c => c == some s.curCore
      | 1, c => c.any (fun x => octetOf x == octetOf s.curCore)
      | 2, c => c.any (fun x => plateOf x == plateOf s.curCore)
      | _, _ => true

/-- What each kind of fence waits for (Table 6.8): acquire for marked replies, release for writes, updates and sends.
TCPY, TCPYM, TFPR and PMAP are never covered. -/
def fenceCovers (acq rel : Bool) (o : Op) : Bool :=
  match o.kind with
  | .marked _ _ => acq
  | .rmw _ _ => acq || rel
  | .write => rel
  | .sent => rel && majorOf o.word == 0x24
  | _ => false

/-- A fence of the executing slot has nothing left to wait for; the teller has no outstanding operation. -/
def fenceDone (s : State) (scope : Nat) (acq rel : Bool) : Bool :=
  s.isTeller ||
  s.here.ops.all (fun o => o.slot != s.curSlotNo || o.failed || !fenceCovers acq rel o || !(opTargets s o).any (inScope s scope))

/-- A release access may be performed: it waits for earlier loads too (Table 9.2). -/
def releaseDone (s : State) (scope : Nat) : Bool := fenceDone s scope true true

/-- An order field: bit 0 acquire, bit 1 release (R160, Table 3.11). -/
def orderAcq (o : BitVec 2) : Bool := o.getLsbD 0
def orderRel (o : BitVec 2) : Bool := o.getLsbD 1

/-- An outstanding operation is an acquire (Table 9.2). -/
def isAcquire (o : Op) : Bool :=
  match majorOf o.word with
  | 0x22 => o.word.getLsbD 6
  | 0x23 => o.word.extractLsb' 0 4 == 2 || o.word.getLsbD 9
  | _ => false

/-- The executing slot waits for an acquire to be performed (R262). -/
def acquirePending (s : State) : Bool := s.here.ops.any (fun o => o.slot == s.curSlotNo && !o.failed && isAcquire o)

end Sys2Proof.Machine
end

