-- ==== Sys2Proof/Machine/Route.lean ====
section
/-!
DEFINITION. Where a request to a page goes: route hints and route holds (13_translation_placement.md, R350 to R353), and how
a slot starts such a request.
-/
namespace Sys2Proof.Machine

/-- A valid hint of a core for a page (R350). -/
def findHint (k : Core) (job : BitVec 24) (vpn : BitVec 33) : Option (BitVec 26) :=
  (k.hints.toList.filterMap id).find? (fun h => h.job == job && h.vpn == vpn) |>.map (fun h => h.home)

/-- R350 for a job's page, from a core: the vault map, then a hint, then the clearing core. -/
def routeFrom (s : State) (c : Nat) (job : BitVec 24) (vpn : BitVec 33) : Nat :=
  match findPage (s.core c).vaultMap job vpn with
  | some _ => c
  | none =>
    match findHint (s.core c) job vpn with
    | some h => s.dstOf h
    | none => clearingPlace s job vpn

/-- R350 for the executing context. -/
def routeOf (s : State) (va : Word) : Nat := routeFrom s s.curCore s.job (vpnOf va)

/-- R353: the route of an earlier request of the slot to the page that is outstanding, otherwise R350. -/
def heldRoute (s : State) (va : Word) : Nat :=
  match s.slot.holds.find? (fun h => h.1 == (vpnOf va).toNat) with
  | some h => h.2.1
  | none => routeOf s va

/-- A ninth page with outstanding requests is not accepted (R353). -/
def holdFree (s : State) (va : Word) : Bool :=
  s.slot.holds.any (fun h => h.1 == (vpnOf va).toNat) || s.slot.holds.length < 8

/-- One more request on a page's route. -/
def addHold (hs : List (Nat × Nat × Nat)) (vpn dst : Nat) : List (Nat × Nat × Nat) :=
  if hs.any (fun h => h.1 == vpn) then hs.map (fun h => if h.1 == vpn then (h.1, h.2.1, h.2.2 + 1) else h)
  else hs ++ [(vpn, dst, 1)]

/-- Hops to a routed destination. -/
def routeHops (s : State) (dst : Nat) : Nat := s.hopsDst s.curCore dst

/-- A P-class request of the executing slot (R158): the operation joins the batch, takes its route, and its message goes. -/
def State.request (s : State) (va : Word) (h : BitVec 6) (kind : OpKind) (w : InstrWord) (d : Dest) (b : Body) : State :=
  let dst := heldRoute s va
  let s1 := s.startOp kind va w d none 1 (some (vpnOf va).toNat)
  let s2 := s1.updSlot (fun l => { l with holds := addHold l.holds (vpnOf va).toNat dst })
  (s2.mark d).post dst h (s.me s.nextOpId) b

/-- The issue checks of R176: the class of the address, its alignment, and the 64 KiB boundary of a vector access. -/
def remoteCheck (va : Word) (n align : Nat) : Option (BitVec 8 × BitVec 8) :=
  if 2 ^ 48 ≤ va.toNat then some (causeLOCALBOUND, 3)
  else if va.toNat < 0xA0000 then some (causeLOCALBOUND, 5)
  else if !isGlobal va then some (causeLOCALBOUND, 0)
  else if va.toNat % align ≠ 0 then some (causeMISALIGN, 0)
  else if 2 ^ 16 < va.toNat % 2 ^ 16 + n then some (causeSPANCROSS, 0)
  else none

/-- The shape of RMEM and RATOM: checks, a release's wait, a place in the batch, 42 coins and the flit-hops, the request. -/
def remoteOp (s : State) (i : Instr) (va : Word) (n align : Nat) (release : Bool) (flits : Nat) (h : BitVec 6)
    (kind : OpKind) (d : Dest) (b : Body) : Res :=
  if s.isTeller then illegal s i
  else
    match remoteCheck va n align with
    | some f => trapped s f.1 f.2 va
    | none =>
      if (release && !releaseDone s 4) || !s.canJoin || !holdFree s va || pmapPending s va then notReady s
      else paying s (42 + flits * routeHops s (heldRoute s va)) (fun p => .next ((p.request va h kind (encode i) d b).retire s))

/-- A g register as a marked destination; a result for g0 is discarded. -/
def destG (d : BitVec 5) : Dest := if d = 0 then .none else .g d

end Sys2Proof.Machine
end

