-- ==== Sys2Proof/Machine/Barrier.lean ====
section
/-!
DEFINITION. Core barriers (06_memory_messages.md, R186 to R190): the atomic update, and the core that a message names.
-/
namespace Sys2Proof.Machine

/-- The counts of an update (R189): arrivals, bytes, drops. -/
def Barrier.count (b : Barrier) (ca cb dr : Nat) : Barrier := { b with ca := b.ca + ca, cb := b.cb + cb, dr := b.dr + dr }

/-- The phase may complete (R189). -/
def Barrier.full (b : Barrier) : Bool :=
  b.ea.toNat ≤ b.ca && b.eb.toNat ≤ b.cb && (b.ea != 0 || b.eb != 0)

/-- The completion of a phase (R189). -/
def Barrier.complete (b : Barrier) : Barrier :=
  { b with p := b.p + 1, ca := b.ca - b.ea.toNat, cb := b.cb - b.eb.toNat, ea := BitVec.ofNat 24 (b.ea.toNat - b.dr), dr := 0 }

/-- The orthogonal position of a mirror mask's bits: the cores of the octet. -/
def mirrorCores (c : Nat) (mm : BitVec 8) : List Nat :=
  ((List.range 8).filter (fun i => mm.getLsbD i)).map (octetCore (octetOf c))

def State.barrier (s : State) (c : Nat) (n : Fin 16) : Barrier := (s.core c).barriers.get n

def State.setBarrier (s : State) (c : Nat) (n : Fin 16) (b : Barrier) : State :=
  s.updCore c (fun k => { k with barriers := k.barriers.set n b n.isLt })

/-- The barrier that a cycle's update leaves (R189): at most one phase completes. -/
def BarSum.result (x : BarSum) : Barrier :=
  let b := x.base.count x.ca x.cb x.dr
  if b.full then b.complete else b

/-- What this cycle has brought to a barrier so far; a barrier that something else has written since begins again. -/
def State.barSum (s : State) (c : Nat) (n : Fin 16) : BarSum :=
  let x := Tab.get (s.core c).barSums n.val ⟨0, Barrier.reset, 0, 0, 0⟩
  if x.cycle == s.cycle && x.result == s.barrier c n then x else ⟨s.cycle, s.barrier c n, 0, 0, 0⟩

/-- A part of a cycle's atomic update of a barrier (R189); on completion the new phase is pushed to the mirrors, and the slots that wait
on the old one find it past (R190). -/
def State.barrierUpdate (s : State) (c : Nat) (n : Fin 16) (ca cb dr : Nat) : State :=
  let x := s.barSum c n
  let y : BarSum := { x with ca := x.ca + ca, cb := x.cb + cb, dr := x.dr + dr }
  let d := y.result
  let t := (s.setBarrier c n d).updCore c (fun k => { k with barSums := Tab.put k.barSums n.val y })
  if d.p == (s.barrier c n).p then t
  else (mirrorCores c d.mm).foldl (fun t m => t.post m 8 ⟨c, 4, 0, 0, 0, 0⟩ (.push n d.p)) t

/-- A phase of a barrier has completed in this cycle. -/
def State.phaseEnded (s : State) (c : Nat) (n : Fin 16) : Bool :=
  (Tab.find (s.core c).barSums n.val).any (fun x => x.cycle == s.cycle && x.result == s.barrier c n && x.result.p != x.base.p)

/-- The TRAPVAL of REMOTEREF 0x02 for an octet position or a mirror (Table 6.1). -/
def positionVal (s : State) (c : Nat) : Word :=
  BitVec.ofNat 64 (2 ^ 63 + s.modNo.toNat * 2 ^ 18 + coreY c * 512 + coreX c)

/-- The first named octet position that is not active (R173, R180, R187). -/
def inactivePos (s : State) (c : Nat) (mask : BitVec 8) : Option Nat :=
  (mirrorCores c mask).find? (fun x => !s.isActive x)

end Sys2Proof.Machine
end

