-- ==== Sys2Proof/Machine/Leave.lean ====
section
/-!
DEFINITION. A slot that sets out for another core (06_memory_messages.md, R155, R183; 10_kernel_execution.md, R285), and how
an access that may migrate ends.
-/
namespace Sys2Proof.Machine

/-- The home of a page of the executing job, as its clearing core's entry states it (log entry 10). -/
def homeOf (s : State) (va : Word) : Option (BitVec 26) :=
  let m := clearingMod s s.job
  if m == s.modNo then (pageEntry s s.job (vpnOf va)).map (fun p => p.mod ++ p.core)
  else if (findPage s.here.vaultMap s.job (vpnOf va)).isSome then some (s.coreId s.curCore)
  else Config.remoteHome m s.job (vpnOf va) s.cycle

/-- The lease of a slot in bytes. -/
def Slot.leaseBytes (l : Slot) : Nat := l.leaseSize.toNat * 64

/-- A slot enters DRAIN (Table 10.6, step 2); one in the middle of a replay runs to its end first (R112). -/
def State.leave (s : State) (c : Nat) (t : Fin 4) (why : Leave) (dest : BitVec 26) : State :=
  s.updSlotAt c t (fun l => { l with phase := if inReplay l then l.phase else .drain, leaving := some ⟨why, dest, 0, none, 0, none⟩ })

/-- R155: the slot migrates to a page's home and executes the instruction again there; a lost home is uncorrectable (R441). -/
def autoMigrate (s : State) (va : Word) : Res :=
  match homeOf s va with
  | none => trapped s causePAGEFAULT 1 va
  | some h =>
    if (pageEntry s s.job (vpnOf va)).any (homeGone s) then trapped s causeUNCORR 0 (va &&& ~~~63)
    else if h = s.coreId s.curCore then notReady s
    else if 32768 < s.slot.leaseBytes then trapped s causeLEASE 0 (BitVec.ofNat 64 s.slot.leaseBytes)
    else .next (s.leave s.curCore s.curSlotNo .automig h)

/-- How LD, ST, AMO, TLD and TST end on a stop: a remote page migrates the slot when STATUS.AUTOMIG is 1 (R155). -/
def stoppedMig (s : State) : Stop → Res
  | .remote va => if !s.isTeller && s.ctx.status.getLsbD 1 then autoMigrate s va else trapped s causeREMOTEREF 0 va
  | e => stopped s e

end Sys2Proof.Machine
end

