-- ==== Sys2Proof/Machine/Msg.lean ====
section
/-!
DEFINITION. Messages, queues, migration and HOME as they issue (06_memory_messages.md, R180 to R184).
-/
namespace Sys2Proof.Machine

/-- The global core address of an operand. -/
def coreOperand (x : Word) : BitVec 26 := x.extractLsb' 0 26

/-- SEND names a resident handler from unit mode or from a user handler (R180, R282). -/
def sendPriv (s : State) (h : BitVec 6) : Bool :=
  h.toNat < 16 && (s.unitMode || (match s.rights with | .handler _ => true | _ => false))

/-- The issue checks of SEND and SENDM before the addressees (R180). -/
def sendCheck (s : State) (h : BitVec 6) (n pay : Word) : Option Stop :=
  if sendPriv s h then some (.trap causePRIV 0 (h.zeroExtend 64))
  else if 8 < n.toNat then some (.trap causeQUEUE 2 n)
  else if pay.toNat % 64 ≠ 0 then some (.trap causeMISALIGN 0 pay)
  else localRange s pay (64 * n.toNat) true

/-- A SEND to a resident handler is kept in case its request faults (R284). -/
def State.keepSend (s : State) (h : BitVec 6) : State :=
  if h.toNat < 16 then s.updHere (fun k => { k with sends := k.sends ++ k.ops.filter (fun o => o.id + 1 == k.nextOp) }) else s

/-- The message leaves for its addressees (R180): the payload is read now; a slot's operation joins its batch. -/
def sendTo (s : State) (i : Instr) (core : Word) (dsts : List (Nat × Nat)) (n pay : Word) (h : BitVec 6) : Res :=
  if !s.isTeller && !dsts.isEmpty && !s.canJoin then notReady s
  else
    let body := Body.user (readLocal s s.curCore pay.toNat (64 * n.toNat))
    let src := s.me s.nextOpId
    paying s (2 + (1 + n.toNat) * (dsts.map (fun d => d.2)).sum) (fun p =>
      let p := p.correctedLocal s.curCore pay.toNat (64 * n.toNat)
      let q := if s.isTeller || dsts.isEmpty then p
        else (p.startOp .sent core (encode i) .none none dsts.length none).keepSend h
      .next ((dsts.foldl (fun t d => t.post d.1 h src body) q).retire s))

def execSend (d a b : BitVec 5) (h : BitVec 6) (s : State) : Res :=
  let c := coreOperand (s.g a)
  match sendCheck s h (s.g d) (s.g b) with
  | some e => stopped s e
  | none =>
    if !s.isReachable c then trapped s causeREMOTEREF 2 (c.zeroExtend 64)
    else sendTo s (.send d a b h) (c.zeroExtend 64) [(s.placeOf c, s.hopsTo c)] (s.g d) (s.g b) h

/-- The TRAPVAL of a named position of an octet that is not active (Table 6.1). -/
def positionTrap (s : State) (a : BitVec 26) (i : Nat) : Word :=
  match s.ofId a with
  | some c => positionVal s (octetCore (octetOf c) i)
  | none => BitVec.ofNat 64 (2 ^ 63 + (a.extractLsb' 18 8).toNat * 2 ^ 18 + (Config.remotePlace (a.extractLsb' 18 8) (a.extractLsb' 0 18) i).toNat)

/-- SENDM: every named position of the octet of the named core must be active; the octet of a core of another module is known by that
module's own map (log entry 8). -/
def execSendm (d a b : BitVec 5) (h : BitVec 6) (s : State) : Res :=
  let c := coreOperand (s.g a)
  let mask := (s.g a).extractLsb' 32 8
  let ids := octetIds s c mask
  match sendCheck s h (s.g d) (s.g b) with
  | some e => stopped s e
  | none =>
    if !s.isReachable c then trapped s causeREMOTEREF 2 (c.zeroExtend 64)
    else
      match (((List.range 8).filter (fun i => mask.getLsbD i)).zip ids).find? (fun x => x.2.isNone) with
      | some x => trapped s causeREMOTEREF 2 (positionTrap s c x.1)
      | none =>
        sendTo s (.sendm d a b h) (BitVec.ofNat 64 (c.toNat + mask.toNat * 2 ^ 32)) ((ids.filterMap id).map (fun x => (s.placeOf x, s.hopsTo x)))
          (s.g d) (s.g b) h

/-! ### Queues -/

/-- The channel or queue number of a field. -/
def chanOf (x : BitVec 3) : Fin 8 := x.toFin

def State.setChan (s : State) (o : Fin 8) (c : Chan) : State :=
  s.updSlot (fun l => { l with chans := l.chans.set o c o.isLt })

def execQpush (d : BitVec 5) (c : BitVec 3) (s : State) : Res :=
  let o := chanOf c
  let ch := s.slot.chans.get o
  let core := ch.mod ++ ch.core
  if s.isTeller then illegal s (.qpush d c)
  else if !ch.bound then trapped s causeQUEUE 1 (c.zeroExtend 64)
  else if ch.free = 0 then notReady s
  else
    finish s (2 + s.hopsTo core) (fun p =>
      (p.setChan o { ch with free := ch.free - 1 }).post (s.placeOf core) 63 (s.me 0) (.entry (chanOf ch.queue) (s.v d) o ch.gen))

def execQpop (d : BitVec 5) (q : BitVec 3) (s : State) : Res :=
  match s.qHead (chanOf q) with
  | none => emptyQueue s (chanOf q)
  | some e => finish s 4 (fun p => (p.popQ (chanOf q)).setV d e.data)

def execQpeek (d : BitVec 5) (q : BitVec 3) (s : State) : Res :=
  match s.qHead (chanOf q) with
  | none => emptyQueue s (chanOf q)
  | some e => finish s 4 (fun p => (p.logged 3 (rowBytes e.data)).setV d e.data)

/-- QBIND (R181): a new binding with 16 free entries. -/
def execQbind (a b : BitVec 5) (c : BitVec 3) (s : State) : Res :=
  let core := coreOperand (s.g a)
  let o := chanOf c
  if s.isTeller then illegal s (.qbind a b c)
  else if !s.isReachable core then trapped s causeREMOTEREF 2 (core.zeroExtend 64)
  else
    finish s 2 (fun p => p.setChan o
      ⟨true, core.extractLsb' 18 8, core.extractLsb' 0 18, (s.g b).extractLsb' 0 3, 16, (s.slot.chans.get o).gen + 1⟩)

/-! ### Migration -/

/-- Steps 1, 3 and 4 of R183. -/
def migrate (s : State) (dest : BitVec 26) : Res :=
  if dest = s.coreId s.curCore then finish s 2 id
  else if 32768 < s.slot.leaseBytes then trapped s causeLEASE 0 (BitVec.ofNat 64 s.slot.leaseBytes)
  else paying s 2 (fun p => .next ((p.retire s).leave s.curCore s.curSlotNo .mig dest))

def execMig (a : BitVec 5) (s : State) : Res :=
  let va := s.g a
  if s.isTeller then illegal s (.mig a)
  else
    match remoteCheck va 1 1 with
    | some f => trapped s f.1 f.2 va
    | none =>
      match homeOf s va with
      | none => trapped s causePAGEFAULT 1 va
      | some h => migrate s h

def execMigo (s : State) : Res := if s.isTeller then illegal s .migo else migrate s s.slot.origin

/-- HOME (R184): what the core knows now. -/
def homeWord (s : State) (va : Word) : Word :=
  let vpn := vpnOf va
  match findPage s.here.vaultMap s.job vpn with
  | some _ => (s.coreId s.curCore).zeroExtend 64
  | none =>
    match findHint s.here s.job vpn with
    | some h => BitVec.ofNat 64 (2 ^ 62 + h.toNat)
    | none => BitVec.ofNat 64 (2 ^ 63 + (clearingMod s s.job).toNat * 2 ^ 18 + (clearingNo s s.job vpn).toNat)

def execHome (d a : BitVec 5) (s : State) : Res :=
  let va := s.g a
  if s.isTeller then illegal s (.home d a)
  else
    match remoteCheck va 1 1 with
    | some f => trapped s f.1 f.2 va
    | none => finish s 2 (fun p => (p.logged 5 (bytesOf 8 (homeWord s va).toNat)).setG d (homeWord s va))

end Sys2Proof.Machine
end

