-- ==== Sys2Proof/Machine/LdSt.lean ====
section
/-!
DEFINITION. LD, ST and AMO (06_memory_messages.md, R159, R160, Tables 6.2 and 6.3).
-/
namespace Sys2Proof.Machine

/-- The size in bytes of a size code (Table 6.3). -/
def ldSize (z : BitVec 4) : Nat := 2 ^ (z.toNat / 2)

/-- g[d] after LD: odd codes and the doubleword are not sign-extended. -/
def ldExtend (z : BitVec 4) (x : Nat) : Word :=
  if z.toNat % 2 = 0 then BitVec.ofInt 64 (signedOf (8 * ldSize z) x) else BitVec.ofNat 64 x

/-- The access address: g[a] + sext(imm[11:0]) x size, modulo 2^64. -/
def ldAddr (s : State) (a : BitVec 5) (z : BitVec 4) (o : BitVec 12) : Word :=
  s.g a + BitVec.ofInt 64 (o.toInt * ldSize z)

/-- A checked access: its coins, its row, the correction count of a read, then the effect. -/
def accessing (s : State) (va : Word) (n : Nat) (acc : Acc) (k : Loc → State → State) : Res :=
  match access s va n n acc with
  | .error e => stoppedMig s e
  | .ok l =>
    paying s (2 + l.coins) (fun p =>
      let q := p.openRow s.curCore l.act
      let q' := if acc.reads then q.corrected l.key else q
      .next ((k l q').retire s))

/-- Bytes stored at a key. -/
def State.store (s : State) (key n x : Nat) : State := { s with mem := s.mem.writeNat key n x }

def execLd (d a : BitVec 5) (z : BitVec 4) (o : BitVec 12) (s : State) : Res :=
  accessing s (ldAddr s a z o) (ldSize z) .read (fun l p =>
    let x := ldExtend z (s.mem.readNat l.key (ldSize z))
    (p.loggedRead (ldAddr s a z o) (ldSize z) (bytesOf 8 x.toNat)).setG d x)

def execSt (d a : BitVec 5) (z : BitVec 4) (o : BitVec 12) (s : State) : Res :=
  accessing s (ldAddr s a z o) (ldSize z) .write (fun l p => p.store l.key (ldSize z) (s.g d).toNat)

/-! ### Read-modify-write (R160) -/

/-- The new value of a read-modify-write of w bits: x is the old value, y and c the operands. -/
def rmwValue (op : RmwOp) (w x y c : Nat) : Nat :=
  match op with
  | .add => (x + y) % 2 ^ w
  | .and => x &&& y
  | .or => x ||| y
  | .xor => x ^^^ y
  | .min => if signedOf w y < signedOf w x then y else x
  | .max => if signedOf w x < signedOf w y then y else x
  | .minu => min x y
  | .maxu => max x y
  | .swap => y
  | .cas => if x = c then y else x

/-- The bytes of an AMO: 4 or 8. -/
def rmwSize (z : BitVec 1) : Nat := if z = 0 then 4 else 8

/-- An old value as the destination holds it: sign-extended for a word. -/
def rmwResult (n x : Nat) : Word := BitVec.ofInt 64 (signedOf (8 * n) x)

/-- AMO (R160), in one step; its order is that of a fence of scope core. -/
def amo (op : RmwOp) (d a b : BitVec 5) (o : BitVec 2) (z : BitVec 1) (s : State) : Res :=
  if orderRel o && !releaseDone s 0 then notReady s
  else
    let n := rmwSize z
    accessing s (s.g a) n .both (fun l p =>
      let x := s.mem.readNat l.key n
      ((p.loggedRead (s.g a) n (bytesOf 8 (rmwResult n x).toNat)).store l.key n (rmwValue op (8 * n) x ((s.g b).toNat % 2 ^ (8 * n)) ((s.g d).toNat % 2 ^ (8 * n)))).setG d (rmwResult n x))

def execAmoAdd (d a b : BitVec 5) (o : BitVec 2) (z : BitVec 1) (s : State) : Res := amo .add d a b o z s
def execAmoAnd (d a b : BitVec 5) (o : BitVec 2) (z : BitVec 1) (s : State) : Res := amo .and d a b o z s
def execAmoOr (d a b : BitVec 5) (o : BitVec 2) (z : BitVec 1) (s : State) : Res := amo .or d a b o z s
def execAmoXor (d a b : BitVec 5) (o : BitVec 2) (z : BitVec 1) (s : State) : Res := amo .xor d a b o z s
def execAmoMin (d a b : BitVec 5) (o : BitVec 2) (z : BitVec 1) (s : State) : Res := amo .min d a b o z s
def execAmoMax (d a b : BitVec 5) (o : BitVec 2) (z : BitVec 1) (s : State) : Res := amo .max d a b o z s
def execAmoMinu (d a b : BitVec 5) (o : BitVec 2) (z : BitVec 1) (s : State) : Res := amo .minu d a b o z s
def execAmoMaxu (d a b : BitVec 5) (o : BitVec 2) (z : BitVec 1) (s : State) : Res := amo .maxu d a b o z s
def execAmoSwap (d a b : BitVec 5) (o : BitVec 2) (z : BitVec 1) (s : State) : Res := amo .swap d a b o z s
def execAmoCas (d a b : BitVec 5) (o : BitVec 2) (z : BitVec 1) (s : State) : Res := amo .cas d a b o z s

end Sys2Proof.Machine
end

