-- ==== Sys2Proof/Machine/Vault.lean ====
section
/-!
DEFINITION. ACT, PRE and the issue of TLD, TLDL and TST (06_memory_messages.md, R163 to R166); their row steps are machine
steps (Machine/TileRun.lean).
-/
namespace Sys2Proof.Machine

/-- Checks 1, 3 and 4 of R154 for ACT and PRE: the vault offset. -/
def vaultCheck (s : State) (va : Word) : Except Stop Nat :=
  if 2 ^ 48 ≤ va.toNat then .error (.trap causeLOCALBOUND 3 va)
  else if va.toNat < 0xA0000 then .error (.trap causeLOCALBOUND 5 va)
  else if !isGlobal va then .error (.trap causeLOCALBOUND 0 va)
  else
    match homedHere s va with
    | .error e => .error e
    | .ok p => .ok (vaultOff p va)

/-- An ACT or PRE reaches its bank: the row becomes open, or closed; one that a tile instruction's row holds back, and every one
behind it, is left for the bank to perform (R241). -/
def State.setRow (s : State) (c off : Nat) (row : Option (BitVec 8)) : State :=
  let z := bankOf off
  let b := s.bank c z
  if tileHolds s c z row || !b.held.isEmpty then s.setBank c z { b with held := b.held ++ [row] }
  else
    match row with
    | some r => s.openRow c (some (z, r))
    | none => s.setBank c z { b with row := none }

/-- ACT (R163): 250 coins, or 2 when the row is already open; class 3 pacing and a refreshing bank make it wait. -/
def execAct (a : BitVec 5) (s : State) : Res :=
  match vaultCheck s (s.g a) with
  | .error e => stopped s e
  | .ok off =>
    if (s.bank s.curCore (bankOf off)).row == some (rowOfOff off) then finish s 2 id
    else if refreshing s s.curCore (bankOf off) || pacing s s.curCore then notReady s
    else finish s 250 (fun p => p.setRow s.curCore off (some (rowOfOff off)))

/-- PRE (R163). -/
def execPre (a : BitVec 5) (s : State) : Res :=
  match vaultCheck s (s.g a) with
  | .error e => stopped s e
  | .ok off =>
    if (s.bank s.curCore (bankOf off)).row.isNone then finish s 2 id
    else if refreshing s s.curCore (bankOf off) then notReady s
    else finish s 2 (fun p => p.setRow s.curCore off none)

/-- The row steps left (R164). -/
def tileCount (s : State) (b : BitVec 5) : Nat := (s.g b).toNat % 2 ^ 32

/-- The first checks of R165, after the charge. -/
def tileChecks (s : State) (kind : Fin 3) (d a b : BitVec 5) : Option Stop :=
  let n := tileCount s b
  let x := s.g d
  let y := s.g a
  if x.toNat % 64 ≠ 0 || y.toNat % 64 ≠ 0 then
    let v := if x.toNat % 64 = 0 then y else if y.toNat % 64 = 0 then x else if y.toNat < x.toNat then y else x
    some (.trap causeMISALIGN 0 v)
  else
    match kind with
    | 0 => localRange s x (64 * n) false
    | 1 => if 4096 < x.toNat + 64 * n then some (.trap causeLOCALBOUND 4 x) else none
    | 2 => localRange s y (64 * n) false

/-- The octet's MTX is working (R2). -/
def mtxWorks (s : State) (c : Nat) : Bool := !s.mtxBad.contains (octetOf c)

/-- A TLDL that waits no longer runs on the core: it has its place in the order of the MTX commands (R252). -/
def latchBusy (k : Core) : Bool := k.slots.toList.any (fun l => l.tile.any (fun t => t.kind == 1 && !t.waits))

/-- What a TLDL waits for: the MTX commands that the core has queued, and a TLDL that runs (R165, R252). -/
def latchTaken (k : Core) : Bool := !k.mtxQ.isEmpty || latchBusy k

/-- TLD, TLDL or TST (R165) issues: two coins, its checks, and then it runs; with no row step left and nothing to wait for it ends at
once. -/
def tile (s : State) (kind : Fin 3) (d a b : BitVec 5) (i : Instr) : Res :=
  if s.isTeller then illegal s i
  else if kind == 1 && !mtxWorks s s.curCore then trapped s causeILLOP 8 ((encode i).zeroExtend 64)
  else if kind == 1 && s.here.owner.isSome && s.here.owner != some s.curSlotNo then notReady s
  else
    paying s 2 (fun p =>
      match tileChecks s kind d a b with
      | some e => stopped p e
      | none =>
        let waits := kind == 1 && latchTaken s.here
        if tileCount s b = 0 && !waits then .next (p.retire s)
        else .next (p.updSlot (fun l => { l with tile := some ⟨kind, d, a, b, true, [], false, none, none, waits⟩ })))

def execTld (d a b : BitVec 5) (s : State) : Res := tile s 0 d a b (.tld d a b)
def execTldl (d a b : BitVec 5) (s : State) : Res := tile s 1 d a b (.tldl d a b)
def execTst (d a b : BitVec 5) (s : State) : Res := tile s 2 d a b (.tst d a b)

end Sys2Proof.Machine
end

