-- ==== Sys2Proof/Machine/Mtx.lean ====
section
/-!
DEFINITION. FDSET, MCFG, MPROG, MMA, MZERO, MST and MLDC as they issue (07_matrix_spans_work.md, R191 to R209); the MTX
performs the queued commands in machine steps (Machine/MtxRun.lean).
-/
namespace Sys2Proof.Machine

/-- A local operand whose address must be a multiple of `align`, in the order of R154: checks 1 and 2, then the range. -/
def recordCheck (s : State) (a : Word) (n align : Nat) : Option Stop :=
  if 2 ^ 48 ≤ a.toNat then some (.trap causeLOCALBOUND 3 a)
  else if a.toNat % align ≠ 0 then some (.trap causeMISALIGN 0 a)
  else localRange s a n true

/-- FDSET (R196). -/
def execFdset (n : BitVec 3) (a : BitVec 5) (s : State) : Res :=
  let x := s.g a
  if s.isTeller then illegal s (.fdset n a)
  else if x.extractLsb' 32 32 != 0 || !fdValid (x.extractLsb' 0 32) then trapped s causeILLOP 4 x
  else finish s 2 (fun p => p.updCtx (fun r => { r with fd := r.fd.set n.toNat (x.extractLsb' 0 32) n.isLt }))

/-! ### The configuration and the microprogram -/

/-- Table 7.3. -/
def mcfgOf (bs : List Byte) : MCfg :=
  let f := fun o => BitVec.ofNat 32 (natOfBytes ((bs.drop o).take 4))
  ⟨bs.getD 0 0, bs.getD 1 0, bs.getD 2 0, bs.getD 3 0, f 4, f 8, f 12, f 16, f 20, f 24, f 28⟩

/-- The storage size in bits that a format code and its descriptor give (R198). -/
def storageBits (fmt : BitVec 8) (desc : BitVec 32) : Nat :=
  match fmt.toNat with
  | 0 => 8
  | 1 => 8
  | 2 => (NarrowFmt.ofBits desc).stride
  | 3 => 16
  | 4 => 16
  | _ => 32

/-- An integer format (R198). -/
def mtxInt (fmt : BitVec 8) (desc : BitVec 32) : Bool :=
  fmt.toNat ≤ 1 || (fmt == 2 && (NarrowFmt.ofBits desc).e == 0)

/-- A selected descriptor is valid, and an unselected one is zero (R198). -/
def descOk (fmt : BitVec 8) (desc : BitVec 32) : Bool := if fmt == 2 then fdValid desc else desc == 0

/-- A stride is a multiple of a number, and at most 65 536. -/
def strideOk (x : BitVec 32) (k : Nat) : Bool := x.toNat % k == 0 && x.toNat ≤ 65536

/-- R198. -/
def mcfgValid (c : MCfg) : Bool :=
  c.afmt.toNat ≤ 5 && c.bfmt.toNat ≤ 5 && c.ofmt.toNat ≤ 6 &&
  descOk c.afmt c.adesc && descOk c.bfmt c.bdesc && descOk c.ofmt c.odesc &&
  storageBits c.afmt c.adesc == storageBits c.bfmt c.bdesc &&
  mtxInt c.afmt c.adesc == mtxInt c.bfmt c.bdesc &&
  1 ≤ c.weight.toNat && c.weight.toNat ≤ 8 &&
  strideOk c.astride 64 && strideOk c.bstride 64 && strideOk c.ostride 4

/-- Table 7.4. -/
def mprogOf (bs : List Byte) : MProg :=
  ⟨bs.getD 0 0, bs.getD 1 0, bs.getD 2 0, bs.getD 3 0, BitVec.ofNat 32 (natOfBytes ((bs.drop 4).take 4))⟩

/-- R199. -/
def mprogValid (bs : List Byte) : Bool :=
  let p := mprogOf bs
  p.domain.toNat ≤ 1 && p.combine.toNat ≤ 8 && p.reduce.toNat ≤ 8 && p.accum.toNat ≤ 8 && (bs.drop 8).all (fun x => x == 0)

/-- Table 7.3 as bytes. -/
def mcfgBytes (c : MCfg) : List Byte :=
  [c.afmt, c.bfmt, c.ofmt, c.weight] ++
    ([c.adesc, c.bdesc, c.odesc, c.tscale, c.ostride, c.astride, c.bstride].map (fun x => bytesOf 4 x.toNat)).flatten

/-- Table 7.4 as bytes. -/
def mprogBytes (p : MProg) : List Byte :=
  [p.domain, p.combine, p.reduce, p.accum] ++ bytesOf 4 p.ident.toNat ++ List.replicate 24 0

/-! ### The command queue (R26, R194, R200) -/

/-- The configuration that the next command will use: that of the last MCFG queued, or the one in force; a slot that is
not yet the owner begins with the defaults (R200, R202). -/
def nextCfg (s : State) : MCfg := if s.here.owner.isSome then s.here.cfgQueued else MCfg.default

/-- A command is queued; a slot that finds no owner becomes the owner (R26, R200). -/
def State.queueMtx (s : State) (c : MtxCmd) : State :=
  s.updHere (fun k =>
    let k1 := if k.owner.isSome then k
      else { k with
        owner := some s.curSlotNo, acc := Vector.replicate 4 (Vector.replicate 64 0), cfg := MCfg.default,
        cfgQueued := MCfg.default, prog := MProg.default }
    { k1 with mtxQ := k1.mtxQ ++ [c], cfgQueued := match c with | .mcfg x => x | _ => k1.cfgQueued })

/-- What every MTX command needs first: a slot, a working MTX, room in the queue and no other owner (R2, R40 item 8,
R191). -/
def mtxIssue (s : State) (i : Instr) (k : Res) : Res :=
  if s.isTeller then illegal s i
  else if !mtxWorks s s.curCore then trapped s causeILLOP 8 ((encode i).zeroExtend 64)
  else if 4 ≤ s.here.mtxQ.length || (s.here.owner.isSome && s.here.owner != some s.curSlotNo) then notReady s
  else k

/-- A command that joins no batch. -/
def mtxPlain (s : State) (coins : Nat) (c : MtxCmd) : Res := finish s coins (fun p => p.queueMtx c)

/-- A command read from the 32-byte record at a local address. -/
def mtxRecord (s : State) (a : Word) (c : MtxCmd) : Res := finish s 6 (fun p => (p.correctedLocal s.curCore a.toNat 32).queueMtx c)

/-- A command that joins the open batch. -/
def mtxBatch (s : State) (i : Instr) (addr : Word) (c : Nat → MtxCmd) : Res :=
  if !s.canJoin then notReady s
  else
    finish s 2 (fun p => (p.queueMtx (c s.nextOpId)).startOp .matrix addr (encode i) .none none 1 none)

def execMcfg (a : BitVec 5) (s : State) : Res :=
  mtxIssue s (.mcfg a) (
    match recordCheck s (s.g a) 32 32 with
    | some e => stopped s e
    | none =>
      let c := mcfgOf (readLocal s s.curCore (s.g a).toNat 32)
      if !mcfgValid c then trapped s causeILLOP 5 (s.g a) else mtxRecord s (s.g a) (.mcfg c))

def execMprog (a : BitVec 5) (s : State) : Res :=
  mtxIssue s (.mprog a) (
    match recordCheck s (s.g a) 32 32 with
    | some e => stopped s e
    | none =>
      let bs := readLocal s s.curCore (s.g a).toNat 32
      if !mprogValid bs then trapped s causeILLOP 6 (s.g a) else mtxRecord s (s.g a) (.mprog (mprogOf bs)))

def execMzero (n : BitVec 2) (s : State) : Res := mtxIssue s (.mzero n) (mtxPlain s 2 (.mzero n.toFin))

/-- The bytes of a stored row (R208). -/
def outRow (c : MCfg) : Nat :=
  match c.ofmt.toNat with
  | 2 => (NarrowFmt.ofBits c.odesc).stride
  | 6 => 32
  | _ => storageBits c.ofmt c.odesc

/-- The first stop among eight ranges, in order. -/
def eightRanges (s : State) (base : Word) (stride n : Nat) : Option Stop :=
  (List.range 8).findSome? (fun i => localRange s (base + BitVec.ofNat 64 (i * stride)) n false)

def execMst (n : BitVec 2) (a : BitVec 5) (s : State) : Res :=
  let va := s.g a
  mtxIssue s (.mst n a) (
    if va.toNat % 4 ≠ 0 then trapped s causeMISALIGN 0 va
    else
      match eightRanges s va (nextCfg s).ostride.toNat (outRow (nextCfg s)) with
      | some e => stopped s e
      | none => mtxBatch s (.mst n a) va (fun op => .mst n.toFin va op))

def execMldc (a : BitVec 5) (s : State) : Res :=
  let va := s.g a
  mtxIssue s (.mldc a) (
    if va.toNat % 64 ≠ 0 then trapped s causeMISALIGN 0 va
    else
      match localRange s va 1024 false with
      | some e => stopped s e
      | none => mtxBatch s (.mldc a) va (fun op => .mldc va op))

/-- The checks of MMA on the operands of its K-steps (R202). -/
def mmaOperands (s : State) (a b : BitVec 5) (src : BitVec 2) (scaled : Bool) (n : Nat) : Option Stop :=
  let c := nextCfg s
  let x := s.g a
  let y := s.g b
  if x.toNat % 64 ≠ 0 then some (.trap causeMISALIGN 0 x)
  else
    match eightRanges s x c.astride.toNat (64 * n) with
    | some e => some e
    | none =>
      let second :=
        if src != 1 && y.toNat % 64 ≠ 0 then some (.trap causeMISALIGN 0 y)
        else if src == 0 then eightRanges s y c.bstride.toNat (64 * n)
        else if src == 2 && 4096 < y.toNat + 7 * c.bstride.toNat + 64 * n then some (.trap causeLOCALBOUND 4 y)
        else none
      match second with
      | some e => some e
      | none =>
        if !scaled then none
        else
          match localRange s (s.g (a + 1)) (8 * n) false with
          | some e => some e
          | none => localRange s (s.g (b + 1)) (8 * n) false

/-- An MMA that names an empty inbound queue as its operand B, or passes rows on a channel without a free entry, is not ready
(R40, items 4 and 5). -/
def mmaHeld (s : State) (b : BitVec 5) (src : BitVec 2) (pass : BitVec 1) : Bool :=
  (src == 1 && (s.qHead (queueOf b)).isNone) ||
  (pass == 1 && (s.slot.chans.get (queueOf b)).bound && (s.slot.chans.get (queueOf b)).free == 0)

/-- MMA (R202). -/
def execMma (c : BitVec 2) (a b k : BitVec 5) (src : BitVec 2) (pass scaled : BitVec 1) (mode : BitVec 2) (s : State) : Res :=
  let i := Instr.mma c a b k src pass scaled mode
  let n := s.g k
  let cfg := nextCfg s
  let o : Fin 8 := queueOf b
  mtxIssue s i (
    if mmaHeld s b src pass then notReady s
    else if 4096 < n.toNat then trapped s causeILLOP 7 n
    else if scaled = 1 && mtxInt cfg.afmt cfg.adesc then trapped s causeILLOP 7 0
    else
      match (if n = 0 then none else mmaOperands s a b src (scaled = 1) n.toNat) with
      | some e => stopped s e
      | none =>
        if pass = 1 && !(s.slot.chans.get o).bound then trapped s causeQUEUE 1 (BitVec.ofNat 64 o.val)
        else
          mtxBatch s i (s.g a) (fun op =>
            .mma c.toFin (s.g a) (s.g b) (s.g (a + 1)) (s.g (b + 1)) n.toNat src o (pass = 1) (scaled = 1) (mode = 1) 0 op))

end Sys2Proof.Machine
end

