-- ==== Sys2Proof/Machine/Record.lean ====
section
/-!
DEFINITION. The trace encoder and the recording log (20_observation_replay.md, R459 to R461), which take up the notes of a
step.
-/
namespace Sys2Proof.Machine

/-- The vault key of a 64 KiB page that a core's own module writes: the page must be homed on the core. -/
def ownPage (s : State) (c : Nat) (va : Word) : Option Nat :=
  ((s.core c).vaultMap.find? (fun p => p.vpn == vpnOf va && p.st == 1 && !p.large)).map (fun p => vaultKey c (vaultOff p (vpnBase (vpnOf va))))

/-- Jobs that this module's distributor has open. -/
def openJobs (s : State) : Nat := (s.dist.jobs.filter (fun x => !x.away)).length

/-- A job's entry at the root. -/
def jobOf (s : State) (j : BitVec 24) : Option Job := s.dist.jobs.find? (fun x => x.num == j && !x.away)

/-! ### Trace (R459) -/

/-- Kind and value of Table 20.6. -/
def traceOf (s : State) (n : Note) : Option (Nat × Nat) :=
  match n.kind with
  | .branch t => some (1, t.toNat)
  | .trap c => some (2, c.toNat)
  | .eret t => some (3, t.toNat)
  | .arrive => some (4, (s.coreId n.core).toNat)
  | .exit => some (5, 0)
  | .log _ _ => none

/-- INSTRET of a slot after an event; a unit that has left its slot counted the event's instruction last. -/
def instretAfter (s : State) (n : Note) : Word :=
  let l := s.slotAt n.core n.slot
  if l.phase == .empty then n.instret + 1 else l.instret

/-- A record of 16 bytes at TRHEAD; a page that is not homed on the core turns tracing off. -/
def State.traceRecord (s : State) (c : Nat) (t : Fin 4) (instret : Word) (kind : Nat) (pc : BitVec 15) (val : Nat) : State :=
  let d := (s.core c).dbgMod
  if !d.trSlots.getLsbD t.val then s
  else
    match ownPage s c (d.trPage.zeroExtend 64 <<< 16) with
    | none => s.updCore c (fun k => { k with dbgMod := { k.dbgMod with trSlots := 0 } })
    | some key =>
      let bs := bytesOf 8 instret.toNat ++ bytesOf 1 kind ++ bytesOf 1 t.val ++ bytesOf 2 pc.toNat ++ bytesOf 4 val
      let block := (key + 16 * d.trHead.toNat) / 64 * 64
      let s1 := if s.bad.contains block then s.foundBad block else { s with mem := s.mem.writeBytes (key + 16 * d.trHead.toNat) bs }
      (s1.updCore c (fun k => { k with dbgMod := { k.dbgMod with
        trHead := d.trHead + 1
        trWrapped := d.trWrapped || d.trHead.toNat == 4095
        trOver := if d.trWrapped && d.trOver != BitVec.allOnes 32 then d.trOver + 1 else d.trOver } })).housePay c 40

/-- TRCTL[3:0] as it reads: a trace page that is not homed on the core turns tracing off (R459). -/
def traceSlots (s : State) (c : Nat) : BitVec 4 :=
  let d := (s.core c).dbgMod
  if (ownPage s c (d.trPage.zeroExtend 64 <<< 16)).isSome then d.trSlots else 0

/-! ### The log (R460, R461) -/

/-- Bytes of the ring. -/
def logSize : Nat := 0xFFC0

/-- A ring offset moved on. -/
def logMove (o n : Nat) : Nat := 0x40 + (o - 0x40 + n) % logSize

/-- Bytes at a ring offset. -/
def logWrite (m : Memory) (key : Nat) : Nat → List Byte → Memory
  | _, [] => m
  | o, b :: bs => logWrite (m.write (key + o) b) key (logMove o 1) bs

/-- Write and read offset of a log page; a page not yet used begins at 0x40. -/
def logOffsets (s : State) (key : Nat) : Nat × Nat := (max 0x40 (s.mem.readNat key 8), max 0x40 (s.mem.readNat (key + 8) 8))

/-- Bytes in use. -/
def logUsed (s : State) (key : Nat) : Nat :=
  let o := logOffsets s key
  (o.1 + logSize - o.2) % logSize

/-- The vault beats of an entry, in coins. -/
def logCoins (s : State) (key : Nat) (bs : List Byte) : Nat :=
  let o := (logOffsets s key).1
  40 * ((o + bs.length - 1) / 64 - o / 64 + 1)

/-- An entry goes into the ring: vault beats from the core's purse, counted to the job. -/
def State.logPut (s : State) (c key : Nat) (job : BitVec 24) (bs : List Byte) : State :=
  let o := (logOffsets s key).1
  let n := logCoins s key bs
  let m := (logWrite s.mem key o bs).writeNat key 8 (logMove o bs.length)
  (({ s with mem := m }).setPurse c (s.purse c - n)).countTo (some job) n

/-- An entry waits its turn. -/
def State.logLater (s : State) (c : Nat) (job : BitVec 24) (bs : List Byte) : State :=
  s.updCore c (fun k => { k with logPend := k.logPend ++ [(job, bs)] })

/-- An entry for which there is room: it goes in when the purse covers it and none waits before it (R386). -/
def State.logIn (s : State) (c key : Nat) (job : BitVec 24) (bs : List Byte) : State :=
  if (s.core c).logPend.isEmpty && logCoins s key bs ≤ s.purse c then s.logPut c key job bs else s.logLater c job bs

/-- The ring has room for an entry behind those that wait, and for a mark (R461). -/
def logRoom (s : State) (c key n : Nat) : Bool :=
  logUsed s key + ((s.core c).logPend.map (fun e => e.2.length)).sum + n + 48 ≤ logSize

/-- An entry with its header (R460). -/
def logEntry (instret : Word) (unit : BitVec 24) (kind : Nat) (payload : List Byte) : List Byte :=
  bytesOf 8 instret.toNat ++ bytesOf 3 unit.toNat ++ bytesOf 1 kind ++ bytesOf 1 (payload.length / 8) ++ bytesOf 3 0 ++ payload

/-- A kind-8 entry (R461). -/
def logMark (s : State) (c : Nat) (unit : BitVec 24) (instret : Word) : List Byte :=
  logEntry instret unit 8 (bytesOf 8 (s.coreId c).toNat ++ bytesOf 8 instret.toNat ++ bytesOf 8 s.cycle.toNat)

/-- The log page is being moved: entries wait for it. -/
def logMoving (s : State) (c : Nat) : Bool := (s.core c).logPage.any (fun va => (s.core c).vaultMap.any (fun p => p.vpn == vpnOf va && p.st == 2))

/-- A logged event of a slot whose job records; while its core has no log page, it waits for the one that the device runtime names
(log entry 16). -/
def State.record (s : State) (c : Nat) (t : Fin 4) (instret : Word) (kind : Nat) (payload : List Byte) : State :=
  let l := s.slotAt c t
  match jobOf s l.jobid, (s.core c).logPage.bind (ownPage s c) with
  | some j, some key =>
    if !j.recording then s
    else
      let bs := logEntry instret l.unitid kind payload
      let drop := fun q : State => q.updCore c (fun k => { k with
        logMarked := true
        logDropped := if (k.logDropped.get t).isNone then k.logDropped.set t (some instret) t.isLt else k.logDropped })
      if (s.core c).logMarked then drop s
      else if logRoom s c key bs.length then s.logIn c key l.jobid bs
      else if j.stall then s.logLater c l.jobid bs
      else drop (s.logIn c key l.jobid (logMark s c l.unitid instret))
  | some j, none => if j.recording then s.logLater c l.jobid (logEntry instret l.unitid kind payload) else s
  | none, _ => s

/-- The waiting entries that fit and that the purse covers. -/
def State.logPending (s : State) (c key : Nat) : List (BitVec 24 × List Byte) → State
  | [] => s.updCore c (fun k => { k with logPend := [] })
  | e :: rest =>
    if logUsed s key + e.2.length + 48 ≤ logSize && logCoins s key e.2 ≤ s.purse c then (s.logPut c key e.1 e.2).logPending c key rest
    else s.updCore c (fun k => { k with logPend := e :: rest })

/-- Entries that waited for coins go in (R386). -/
def State.logGo (s : State) (c : Nat) : State :=
  match (s.core c).logPage.bind (ownPage s c) with
  | none => s
  | some key => s.logPending c key (s.core c).logPend

/-- The hub has advanced the read offset: waiting entries go in, or the resume marks of R461 once they fit. -/
def State.logResume (s : State) (c : Nat) : State :=
  match (s.core c).logPage.bind (ownPage s c) with
  | none => s
  | some key =>
    let s1 := s.logPending c key (s.core c).logPend
    let marks := (List.finRange 4).filterMap (fun t => ((s.core c).logDropped.get t).map (fun x => (t, x)))
    if (s.core c).logMarked && logRoom s1 c key (40 * marks.length) then
      let s2 := marks.foldl (fun q m => q.logIn c key (q.slotAt c m.1).jobid (logMark q c (q.slotAt c m.1).unitid m.2)) s1
      s2.updCore c (fun k => { k with logMarked := false, logDropped := Vector.replicate 4 none })
    else s1

/-! ### After a step -/

/-- One note. -/
def State.takeNote (s : State) (n : Note) : State :=
  let s1 := match traceOf s n with
    | some x => s.traceRecord n.core n.slot (instretAfter s n) x.1 n.pc x.2
    | none => s
  match n.kind with
  | .log kind payload => s1.record n.core n.slot n.instret kind payload
  | _ => s1

/-- Every note of a step, oldest first. -/
def State.takeNotes (s : State) : State := s.notes.foldl State.takeNote { s with notes := [] }

/-- Every 4 096 retired instructions (Table 20.6, kind 6): `before` is the state before the step. -/
def State.countRecord (s before : State) : State :=
  match before.curWho with
  | .teller => s
  | .slot t =>
    let a := before.slotAt before.curCore t
    let b := s.slotAt before.curCore t
    if b.phase != .empty && a.instret.toNat / 4096 < b.instret.toNat / 4096 then
      s.traceRecord before.curCore t b.instret 6 a.ctx.pc 0
    else s

end Sys2Proof.Machine
end

