-- ==== Sys2Proof/Machine/Units.lean ====
section
/-!
DEFINITION. How a unit leaves its slot for good: reservations, stubs, matrix ownership (06_memory_messages.md, R179; 01, R26;
04, R123; 10, R287).
-/
namespace Sys2Proof.Machine

/-- The memory key of a global address at a core that homes its page. -/
def homeKey (s : State) (c : Nat) (job : BitVec 24) (va : Word) : Option Nat :=
  (findPage (s.core c).vaultMap job (vpnOf va)).map (fun p => vaultKey c (vaultOff p va))

/-- The memory key of an address of a pool's range, where its page is homed. -/
def rangeKey (s : State) (job : BitVec 24) (va : Word) : Option Nat :=
  (pageEntry s job (vpnOf va)).bind (fun p => (entryHome s p).map (fun c => vaultKey c (vaultOff p va)))

/-- The page of such an address neither moves nor is being copied. -/
def rangeStill (s : State) (job : BitVec 24) (va : Word) : Bool :=
  (pageEntry s job (vpnOf va)).any (fun p => p.st == 1 && !(entryHome s p).any (fun c => copyBusy (s.core c) p))

/-- The bytes at an address of a pool's range. -/
def rangeBytes (s : State) (job : BitVec 24) (va : Word) (n : Nat) : List Byte :=
  match rangeKey s job va with
  | some k => s.mem.readBytes k n
  | none => List.replicate n 0

/-- The page's current home as a hint for its reader (R351). -/
def homeHint (s : State) (c : Nat) (va : Word) : Option (Nat × BitVec 26) := some ((vpnOf va).toNat, s.coreId c)

/-- The bytes at a global address of a core's vault. -/
def homeBytes (s : State) (c : Nat) (job : BitVec 24) (va : Word) (n : Nat) : List Byte :=
  match homeKey s c job va with
  | some k => s.mem.readBytes k n
  | none => List.replicate n 0

/-- A reservation passes to the oldest waiter, whose grant carries its own word; with none waiting it ends (R179). -/
def State.handOn (s : State) (c : Nat) (r : Resv) : State :=
  match r.waiting with
  | [] => s.updCore c (fun k => { k with resvs := k.resvs.filter (fun x => !(x.job == r.job && x.va == r.va)) })
  | (q, va, dword) :: rest =>
    let s1 := s.updCore c (fun k => { k with resvs := k.resvs.map (fun x =>
      if x.job == r.job && x.va == r.va then { x with holder := some (q.launch, q.unit, q.core), waiting := rest } else x) })
    s1.post q.core 63 q (.grant (homeBytes s c r.job va (if dword then 8 else 4)) (homeHint s c va) none)

/-- Every core index whose state differs from reset. -/
def State.coreList (s : State) : List Nat := s.cores.map (fun p => p.1)

/-- A unit's waits for reservations end, and those it holds pass on with the value unchanged. -/
def State.dropReservations (s : State) (launch : BitVec 32) (unit : BitVec 24) : State :=
  s.coreList.foldl (fun t c =>
    let t1 := t.updCore c (fun k => { k with resvs := k.resvs.map (fun r =>
      { r with waiting := r.waiting.filter (fun w => !(w.1.launch == launch && w.1.unit == unit)) }) })
    (t1.core c).resvs.foldl (fun u r =>
      match r.holder with
      | some h => if h.1 == launch && h.2.1 == unit then u.handOn c r else u
      | none => u) t1) s

/-- A unit's context stubs are freed on every core (R287). -/
def State.dropStubs (s : State) (launch : BitVec 32) (unit : BitVec 24) : State :=
  s.coreList.foldl (fun t c =>
    if (t.core c).stubs.isEmpty then t
    else t.updCore c (fun k => { k with stubs := k.stubs.filter (fun x =>
      match x with
      | .context l u _ _ _ _ => !(l == launch && u == unit)
      | .page _ _ _ => true) })) s

/-- Matrix ownership of a slot ends: the latch reads zero (R26, R251). -/
def State.endOwner (s : State) (c : Nat) (t : Fin 4) : State :=
  if (s.core c).owner == some t then
    let s1 := s.updCore c (fun k => { k with owner := none })
    { s1 with mem := s1.mem.clear (latchKey c 0) 4096 }
  else s

/-- A lender's user till range and lent banks are written zero (R230, R152, R298). -/
def State.zeroLender (s : State) (c : Nat) : State :=
  let s1 := s.updCore c (fun k => { k with slots := k.slots.map (fun l => { l with ctx := { l.ctx with v := Vector.replicate 32 0 } }) })
  s1.clearBytes (tillKey c 0) 0x1E000

/-- One grant of a borrower ends; the lender's last one zeroes it (R298). -/
def State.endGrant (s : State) (c : Nat) (g : Grant) : State :=
  let s1 := s.updCore c (fun k => { k with grants := k.grants.filter (fun x => x != g) })
  if (s1.core c).grants.any (fun x => x.lender == g.lender) then s1
  else
    let s2 := s1.updCore g.lender (fun k => { k with lentTo := k.lentTo.filter (fun x => x != c) })
    if (s2.core g.lender).lentTo.isEmpty then s2.zeroLender g.lender else s2

/-- The sides of a copy or fingerprint that a message names. -/
def Body.sides : Body → List CopySide
  | .tileRead _ _ _ _ ts _ => ts
  | .tileWrite _ _ _ _ x _ _ => [x]
  | .fpr _ _ _ _ x => x.toList
  | _ => []

/-- A side lies in a window of a core to a lender. -/
def CopySide.inWindow (x : CopySide) (c lender : Nat) : Bool := x.core == c && x.via == some lender

/-- A message is part of an access through a window of a core to a lender. -/
def Msg.inWindow (m : Msg) (c lender : Nat) : Bool :=
  m.body.sides.any (fun x => x.inWindow c lender) ||
  (match m.body with
    | .block _ via _ _ _ _ => m.dst == c && via == some lender
    | _ => false)

/-- The messages that a core holds. -/
def Core.msgs (k : Core) : List Msg := k.teller.act.toList.map (fun a => a.msg) ++ k.ready ++ k.landed.map (fun x => x.2) ++ k.held ++ k.pageWait

/-- An access through a window of a core to a lender has not been performed (R298). -/
def windowBusy (s : State) (c lender : Nat) : Bool :=
  (s.core c).copies.any (fun x => x.source.inWindow c lender || x.targets.any (fun y => y.inWindow c lender)) ||
  s.net.any (fun m => m.inWindow c lender) || s.cores.any (fun p => p.2.msgs.any (fun m => m.inWindow c lender))

/-- A core's grants whose launch holds no unit there end, once every window access has been performed (R298). -/
def State.endGrants (s : State) (c : Nat) : State :=
  let k := s.core c
  (k.grants.filter (fun g => k.slots.toList.all (fun l => l.phase == .empty || l.launchid != g.launch) && !windowBusy s c g.lender)).foldl
    (fun t g => t.endGrant c g) s

/-- The slot becomes empty (R123, Table 10.1); nothing waits for what its operations still answer (R331), and the core's grants for a launch
that has no unit left there end (R298). -/
def State.emptySlot (s : State) (c : Nat) (t : Fin 4) : State :=
  (((s.endOwner c t).setSlotAt c t Slot.reset).updCore c (fun k => { k with ops := k.ops.filter (fun o => o.slot != t), sends := k.sends.filter (fun o => o.slot != t) })).endGrants c

/-- A unit ends: its slot empties and what it holds elsewhere is released; its registers stay as they are until the next placement (R36,
R451). -/
def State.endUnit (s : State) (c : Nat) (t : Fin 4) : State :=
  let l := s.slotAt c t
  (((s.emptySlot c t).updSlotAt c t (fun x => { x with ctx := { l.ctx with pc := 0, status := 0, fpmode := 0 } })).dropReservations
    l.launchid l.unitid).dropStubs l.launchid l.unitid

/-- The MTX still has commands of a slot to perform (R123, R285 step 3). -/
def mtxBusy (s : State) (c : Nat) (t : Fin 4) : Bool := (s.core c).owner == some t && !(s.core c).mtxQ.isEmpty

/-- An operation of a slot is not complete. -/
def opsLive (s : State) (c : Nat) (t : Fin 4) : Bool := (s.core c).ops.any (fun o => o.slot == t && !o.failed)

end Sys2Proof.Machine
end

