-- ==== Sys2Proof/Machine/Land.lean ====
section
/-!
DEFINITION. Messages that land for a teller, and the activations they start (10_kernel_execution.md, R278 to R284).
-/
namespace Sys2Proof

/-- The request that a raw message from system code asks of a resident handler, where the specification gives its payload
no layout; none when it asks for nothing (log entry 7). -/
opaque Config.rawBody : BitVec 6 → List Byte → Option Machine.Body

namespace Machine

/-- A message that a teller takes; the others are replies, queue entries and credits. -/
def Body.forTeller : Body → Bool
  | .user _ => true
  | .query _ _ _ _ => true
  | b => b.handler != 63

/-- A shoot-down or its acknowledgement, which a sleeping core's router takes (R359). -/
def Body.isShoot : Body → Bool
  | .shootdown _ _ _ _ => true
  | .shootAck _ _ _ _ => true
  | _ => false

/-- The landing buffers that hold no message (R278). -/
def freeBuffers (k : Core) : List (Fin 8) :=
  (List.finRange 8).filter (fun b => !(k.landed.any (fun x => x.1 == b)) && !(k.teller.act.any (fun a => a.buffer == b)))

/-- A message is an LRW. -/
def Msg.isLrw (m : Msg) : Bool := match m.body with | .lrw _ _ => true | _ => false

/-- Reservation records in use at a core, with those that the requests waiting there will take (R179). -/
def resvRecords (k : Core) : Nat :=
  (k.resvs.map (fun r => (if r.holder.isSome then 1 else 0) + r.waiting.length)).sum +
  (k.msgs.filter Msg.isLrw).length

/-- An LRW for a page homed here that finds no free reservation record (R179). -/
def lrwBlocked (k : Core) (m : Msg) : Bool :=
  match m.body with
  | .lrw va _ => (findPage k.vaultMap m.src.job (vpnOf va)).isSome && 64 ≤ resvRecords k
  | _ => false

/-- The global address that a routed request names. -/
def Body.va : Body → Option Word
  | .load va _ => some va
  | .store va _ => some va
  | .rmw va _ _ _ _ => some va
  | .claim va _ _ _ _ => some va
  | .lrw va _ => some va
  | .spanStore va _ _ => some va
  | .sch va _ _ => some va
  | .tileRead va _ _ _ _ _ => some va
  | .tileWrite va _ _ _ _ _ _ => some va
  | .fpr va _ _ _ source => if source.isNone then some va else none
  | _ => none

/-- The page that a message is about, at its clearing core. -/
def Msg.page (m : Msg) : Option (BitVec 24 × BitVec 33) :=
  match m.body with
  | .page (.pmap va _ _ _ _) _ => some (m.src.job, vpnOf va)
  | .page (.map job vpn _ _ _ _ _) _ => some (job, vpn)
  | .page (.unmap job vpn) _ => some (job, vpn)
  | .page (.rehome job vpn _) _ => some (job, vpn)
  | .page (.cowbreak job vpn) _ => some (job, vpn)
  | b => b.va.map (fun va => (m.src.job, vpnOf va))

/-- A message for an entry that is being rebuilt on a spare core waits in its router (R440). -/
def rebuildHolds (s : State) (c : Nat) (m : Msg) : Bool :=
  (s.core c).rebuilding && m.page.any (fun p =>
    clearingMod s p.1 == s.modNo && some (clearingNo s p.1 p.2) == (s.core c).standIn && (findPage (s.core c).vaultMap p.1 p.2).isNone)

/-- A core whose slots and whose teller are stopped (R457). -/
def halted (s : State) (c : Nat) : Bool :=
  (s.core c).teller.stopped && (s.core c).teller.act.isNone &&
  (List.finRange 4).all (fun t => (s.slotAt c t).phase == .empty || isStopped s c t)

/-- A phase push. -/
def Body.isPush : Body → Bool
  | .push _ _ => true
  | _ => false

/-- A message that waits in its destination's router: a queue entry for a full queue, or a message that finds no landing buffer or no
reservation record (R179, R249, R278). -/
def waitsInRouter (s : State) (m : Msg) : Bool :=
  let k := s.core m.dst
  match m.body with
  | .entry q _ _ _ => 16 ≤ (k.queues.get q).length
  | b => b.forTeller && !(b.isPush && halted s m.dst) && ((freeBuffers k).isEmpty || lrwBlocked k m || rebuildHolds s m.dst m)

/-- A message is held up by messages that stand before it: one for its own core, or one behind which it stands on a link (R249); the paths
are the mesh's own (log entry 70). -/
def heldUpBy (stuck : List Msg) (m : Msg) : Bool :=
  stuck.any (fun x => x.dst == m.dst || Config.behind x.src.core x.dst m.src.core m.dst)

/-- The messages among some, oldest first, that stand still. -/
def standing (s : State) (ms : List Msg) : List Msg :=
  ms.foldl (fun stuck m => if waitsInRouter s m || heldUpBy stuck m then stuck ++ [m] else stuck) []

/-- The oldest message in the mesh for a core: a router delivers in order, so no other may land before it, and it does not come while it
stands on a link behind a message that waits in a router (R249).  A stopped mesh delivers nothing (R422). -/
def routerHead (s : State) (c : Nat) : Option (Msg × List Msg) :=
  if s.meshStopped then none
  else
    match takeFirst (fun m => m.dst == c) s.net with
    | none => none
    | some (m, rest) => if heldUpBy (standing s (s.net.takeWhile (fun x => x.dst != c))) m then none else some (m, rest)

/-- The message that a core's router has for the core itself: a lost one takes none (R439). -/
def netHead (s : State) (c : Nat) : Option (Msg × List Msg) := if s.lost.contains c then none else routerHead s c

/-- Flits of a message in the mesh. -/
def Body.meshFlits : Body → Nat
  | .user p => 1 + p.length / 64
  | .query p _ _ _ => 1 + p.length / 64
  | .store _ bs => if bs.length ≤ 8 then 1 else 2
  | .tileWrite _ _ _ _ _ _ _ => 2
  | .rehomeCopy _ _ _ _ _ _ => 9
  | .migAsk _ _ _ _ _ _ => 1
  | .migImage _ _ _ _ img cells _ _ _ _ _ => 1 + (img.length + cells.length + 63) / 64
  | _ => 1

/-- The core that answers to a lost core's number (R440). -/
def spareFor (s : State) (c : Nat) : Option Nat := (s.cores.find? (fun p => p.2.standIn == some (s.coreNo c))).map (fun p => p.1)

/-- The router of a lost core sends what comes for its number on to the spare core, and housekeeping pays the hops (R440); a reply, a
credit or a block for what was lost with the core is discarded (R439). -/
def State.sendPast (s : State) (c : Nat) : State :=
  match routerHead s c with
  | none => s
  | some (m, rest) =>
    let t : State := { s with net := rest }
    let goes := m.body.forTeller || (match m.body with | .entry _ _ _ _ => true | _ => false)
    match if goes then spareFor s c else none with
    | none => t
    | some d => (t.housePay c (m.body.meshFlits * hops c d)).post d m.handler m.src m.body

/-- One thing less is due for a request at a sequence home; the last one completes it (R374, R378, R381). -/
def State.spanDone (s : State) (home : Nat) (q : Req) : State :=
  match (s.core home).seqs.findSome? (fun x => x.pend.find? (fun p => p.1 == q)) with
  | none => s
  | some p =>
    let less := fun (ps : List (Req × Word × Nat)) =>
      if p.2.2 ≤ 1 then ps.filter (fun y => y.1 != q)
      else ps.map (fun y => if y.1 == q then (y.1, y.2.1, y.2.2 - 1) else y)
    let s1 := s.updCore home (fun k =>
      let seqs := k.seqs.map (fun x => { x with pend := less x.pend })
      { k with seqs := seqs.filter (fun x => !(x.dropped && x.pend.isEmpty)) })
    if p.2.2 ≤ 1 then s1.post q.core 63 q (.deferred p.2.1 none) else s1

/-- A span that its home no longer holds live is delivered with STATE 1 and USE 0 (R381). -/
def queryPayload (s : State) (job : BitVec 24) (sid : BitVec 32) (p : List Byte) : List Byte :=
  let hdr : Word := BitVec.ofNat 64 (natOfBytes (p.take 8))
  let h := rangeBytes s job hdr 64
  if natOfBytes (h.take 4) == sid.toNat && h.getD 5 0 == 1 && natOfBytes ((h.drop 6).take 2) == natOfBytes ((p.drop 8).take 4) then p
  else p.take 0x14 ++ [0, 1] ++ p.drop 0x16

/-- A landed SEND is complete for this addressee (Table 6.5), and its payload lies in the buffer; a sender in another module gets an
acknowledgement (log entry 8). -/
def State.landPayload (s : State) (c : Nat) (b : Fin 8) (m : Msg) : State :=
  match m.body with
  | .user p =>
    let s1 := s.putBytes (tillKey c (bufferAddr b)) p
    if !(m.src.slot < 4) then s1
    else if m.src.core < 2 ^ 20 then s1.pieceDone m.src.core m.src.op none
    else s1.post m.src.core 63 m.src (.ack none none)
  | .query p home sid q =>
    (s.putBytes (tillKey c (bufferAddr b)) (queryPayload s q.job sid p)).spanDone home q
  | _ => s

/-- The waiting messages that landed in the present cycle. -/
def freshLanded (s : State) (c : Nat) : Nat :=
  let k := s.core c
  if k.fresh.1 == s.cycle then min k.fresh.2 k.landed.length else 0

/-- A message among others in ascending order of their senders' global core addresses. -/
def landAmong (s : State) (x : Fin 8 × Msg) : List (Fin 8 × Msg) → List (Fin 8 × Msg)
  | [] => [x]
  | y :: ys => if (s.reqId x.2.src).toNat < (s.reqId y.2.src).toNat then x :: y :: ys else y :: landAmong s x ys

/-- A message's last payload flit has landed: it starts after all that landed before it, and of those that landed in one cycle in ascending
order of the senders' addresses (R268). -/
def State.landAt (s : State) (c : Nat) (x : Fin 8 × Msg) : State :=
  let n := freshLanded s c
  s.updCore c (fun k =>
    let old := k.landed.length - n
    { k with landed := k.landed.take old ++ landAmong s x (k.landed.drop old), fresh := (s.cycle, n + 1) })

/-- MESSAGE_LANDING; at a lost core, its router's part. -/
def State.landMessage (s : State) (c : Nat) : State :=
  match netHead s c with
  | none => if s.lost.contains c && !(routerHead s c).any (fun x => x.1.body.isShoot) then s.sendPast c else s
  | some (m, rest) =>
    if !m.body.forTeller || ((s.core c).asleep && m.body.isShoot) then s
    else
      match s.pick (freeBuffers (s.core c)) with
      | none => s
      | some (b, p) =>
        if lrwBlocked (s.core c) m || rebuildHolds s c m then s
        else (({ p with net := rest } : State).landAt c (b, m)).landPayload c b m

def execMessageLanding (c : Nat) (s : State) : Res := .next (s.landMessage c)

/-- The payload flits of a message. -/
def payloadFlits (m : Msg) : Nat :=
  match m.body with
  | .user p => p.length / 64
  | .query p _ _ _ => p.length / 64
  | _ => 0

/-- Table 10.4; the PC holds no bits [1:0] (R77). -/
def startCtx (s : State) (b : Fin 8) (m : Msg) (entry : BitVec 15) : Ctx :=
  let r := Ctx.zero
  let g := r.g.set 3 (BitVec.ofNat 64 (bufferAddr b)) |>.set 4 (BitVec.ofNat 64 (payloadFlits m))
    |>.set 5 (BitVec.ofNat 64 ((s.reqId m.src).toNat + m.src.slot * 2 ^ 32)) |>.set 6 (m.handler.zeroExtend 64)
    |>.set 7 (m.src.job.zeroExtend 64)
  { r with g := g, pc := entry &&& ~~~3 }

/-- A raw message to a resident handler is the request it asks for; pool requests (R369) and code loads (R487) have a
layout of their own. -/
def resident (m : Msg) : Option Msg :=
  match m.body with
  | .user p =>
    if m.handler == 6 || m.handler == 9 then some m
    else (Config.rawBody m.handler p).bind (fun b => if b.handler == m.handler then some { m with body := b } else none)
  | _ => some m

/-- A message that starts no handler (R282); no instruction ended it, so the record's PC is a free value (log entry 6). -/
def State.discard (s : State) (c : Nat) (m : Msg) (kind : Nat) : State :=
  s.draw.2.toHubs (.handlerFault (s.handlerFaultRec c m.handler (s.draw.1.extractLsb' 0 15) 0 0 kind 0 m.src))

/-- The message that a free teller takes up, with what then is left: a held request that may go on, which came before all that has
landed since, or the oldest landed message. -/
def nextLanded (k : Core) : Option ((Fin 8 × Msg) × List Msg × List (Fin 8 × Msg)) :=
  match k.ready, k.landed with
  | m :: rest, _ => some ((0, m), rest, k.landed)
  | [], x :: rest => some (x, [], rest)
  | [], [] => none

/-- HANDLER_ACTIVATION: the oldest waiting message, when the teller is free (R268, R281, R282). -/
def State.activate (s : State) (c : Nat) : State :=
  let k := s.core c
  match nextLanded k with
  | none => s
  | some ((b, m), left) =>
    if k.teller.act.isSome || k.teller.stopped || k.asleep then s
    else
      let e := k.handlers.get m.handler.toNat ⟨0, false, 0⟩
      let s1 := s.updCore c (fun k => { k with ready := left.1, landed := left.2 })
      if !e.valid then s1.discard c m 2
      else
        let start := fun m' : Msg => s1.updCore c (fun k => { k with
          teller := { k.teller with ctx := startCtx s b m e.entry, act := some ⟨m.handler, b, m', 0, e.job⟩ } })
        if 16 ≤ m.handler.toNat then (if e.job != m.src.job then s1.discard c m 3 else start m)
        else
          match resident m with
          | none => s1
          | some m' => start m'

def execHandlerActivation (c : Nat) (s : State) : Res := .next (s.activate c)

end Machine

end Sys2Proof
end

