-- ==== Sys2Proof/Machine/Tcpy.lean ====
section
/-!
DEFINITION. TCPY, TCPYM and TFPR as they issue (06_memory_messages.md, R172 to R175).  The home of each page of a global side serves
that page's blocks one by one; a copy with local sides only is the issuing core's own work (log entry 11).  Where the specification
names no order of two checks, TCPY checks g[d] before g[a], and TFPR the crossing of a 64 KiB boundary before the class of g[a] (log
entry 11).
-/
namespace Sys2Proof.Machine

/-- The barrier that a copy credits: fn[10], fn[9:6]. -/
def copyBarrier (c : BitVec 1) (n : BitVec 4) : Option (Fin 16) := if c = 0 then none else some n.toFin

/-- The lower address that is not a multiple of 64. -/
def lowerMisaligned (x y : Word) : Option Word :=
  if x.toNat % 64 = 0 then (if y.toNat % 64 = 0 then none else some y)
  else if y.toNat % 64 = 0 then some x
  else some (if y.toNat < x.toNat then y else x)

/-- The coins of a local block: 4 in the till, 6 in a window (Table 6.2). -/
def localCoins (a : Nat) : Nat := if a < 0x20000 then 4 else 6

/-- A side of a copy: a local side is checked as one access, a global side only for check 1 and class (R172). -/
def sideCheck (s : State) (a : Word) (n : Nat) (reads : Bool) : Option Stop :=
  if !isGlobal a then localRange s a n reads
  else if 2 ^ 48 < a.toNat + n then some (.trap causeLOCALBOUND 3 (BitVec.ofNat 64 (2 ^ 48)))
  else none

/-- The checks of R172 on count and addresses, shared with R173; `limit` is the greatest count. -/
def copyCheck (n : Word) (limit : Nat) (d a : Word) : Option Stop :=
  if n.toNat % 64 ≠ 0 then some (.trap causeMISALIGN 0 n)
  else if limit < n.toNat then some (.trap causeILLOP 9 n)
  else (lowerMisaligned d a).map (fun x => .trap causeMISALIGN 0 x)

/-- Block i of an address. -/
def blockAddr (a : Word) (i : Nat) : Word := a + BitVec.ofNat 64 (64 * i)

/-- A request as it goes to a destination: what is left of a copy's run goes to another module block by block, each with the page's whole
run (log entry 11). -/
def Body.pieces (b : Body) (d : Nat) : List Body :=
  if d < 2 ^ 20 then [b]
  else
    match b with
    | .tileRead va n done false targets bar => (List.range (n / 64 - done)).map (fun i => .tileRead va n (done + i) true targets bar)
    | .tileWrite va n done false x data bar => (List.range (n / 64 - done)).map (fun i => .tileWrite va n (done + i) true x data bar)
    | b => [b]

/-- The side of a copy some bytes on. -/
def CopySide.skip (x : CopySide) (n : Nat) : CopySide := { x with addr := x.addr + BitVec.ofNat 64 n }

/-- A global range of n bytes page by page: offset from its start, and length. -/
def pageRuns : Nat → Word → Nat → Nat → List (Nat × Nat)
  | 0, _, _, _ => []
  | fuel + 1, a, off, n =>
    if n ≤ off then []
    else
      let v := vpnOf (a + BitVec.ofNat 64 off)
      let len := min (n - off) ((vpnBase v).toNat + pageSize (vpnLarge v) - (a.toNat + off))
      if len = 0 then [] else (off, len) :: pageRuns fuel a (off + len) n

/-- One request for each page of a copy's global side, on the route of that page (R172, R350). -/
def State.postRuns (s : State) (va : Word) (n : Nat) (src : Req) (body : Word → Nat → Nat → Body) : State :=
  (pageRuns 4 va 0 n).foldl (fun t r =>
    let dst := routeOf s (va + BitVec.ofNat 64 r.1)
    ((body (va + BitVec.ofNat 64 r.1) r.1 r.2).pieces dst).foldl (fun t b => t.post dst 4 src b) t) s

/-- A copy whose checks have passed joins the batch; a count of 0 completes at once.  It waits for a PMAP on its pages (R126). -/
def copyStart (s : State) (va : Word) (w : InstrWord) (b : Option (Fin 16)) (pieces n : Nat) (f : State → State) : Res :=
  if !s.canJoin || (isGlobal va && pmapPending s va n) then notReady s
  else
    paying s 2 (fun p =>
      if pieces = 0 then .next (p.retire s)
      else .next ((f (p.startOp .copy va w .none b pieces none n)).retire s))

/-- A copy with local sides only begins: its blocks are read and sent one by one (Machine/Reply.lean). -/
def State.startLocalCopy (s : State) (src : Req) (x : CopySide) (targets : List CopySide) (n : Nat) (b : Option (Fin 16)) : State :=
  s.updHere (fun k => { k with copies := k.copies ++ [⟨src, x, targets, n, 0, b⟩] })

def execTcpy (d a b : BitVec 5) (c : BitVec 1) (n : BitVec 4) (s : State) : Res :=
  let dst := s.g d
  let src := s.g a
  let len := s.g b
  let w := encode (.tcpy d a b c n)
  let bar := copyBarrier c n
  let me := s.me s.nextOpId
  let tgt := copySide s s.curCore dst len.toNat
  let source := copySide s s.curCore src len.toNat
  if s.isTeller then illegal s (.tcpy d a b c n)
  else
    match copyCheck len 131072 dst src with
    | some e => stopped s e
    | none =>
      if isGlobal dst && isGlobal src then trapped s causeREMOTEREF 1 src
      else
        match sideCheck s dst len.toNat false with
        | some e => stopped s e
        | none =>
          match sideCheck s src len.toNat true with
          | some e => stopped s e
          | none =>
            copyStart s (if isGlobal dst then dst else src) w bar (len.toNat / 64) len.toNat (fun t =>
              if isGlobal src then t.postRuns src len.toNat me (fun va off k => .tileRead va k 0 false [tgt.skip off] bar)
              else if isGlobal dst then t.postRuns dst len.toNat me (fun va off k => .tileWrite va k 0 false (source.skip off) [] bar)
              else t.startLocalCopy me source [tgt] len.toNat bar)

/-- The range at g[d] of TCPYM (R173): the stop at the lowest offset outside it. -/
def multicastRange (s : State) (d : Word) (n : Nat) : Option Stop :=
  let limit := if s.unitMode then 0x1E000 else 0x20000
  if n = 0 || d.toNat + n ≤ limit then none
  else some (.trap causeLOCALBOUND (if s.unitMode then 2 else 0) (if d.toNat < limit then BitVec.ofNat 64 limit else d))

def execTcpym (d a b : BitVec 5) (c : BitVec 1) (n : BitVec 4) (s : State) : Res :=
  let dst := s.g d
  let src := s.g a
  let len := (s.g b).extractLsb' 0 18
  let mask := (s.g b).extractLsb' 32 8
  let w := encode (.tcpym d a b c n)
  let bar := copyBarrier c n
  let targets := mirrorCores s.curCore mask
  let tills := targets.map (fun k => (⟨k, dst, none⟩ : CopySide))
  let me := s.me s.nextOpId
  if s.isTeller then illegal s (.tcpym d a b c n)
  else
    match copyCheck (len.zeroExtend 64) 122880 dst src with
    | some e => stopped s e
    | none =>
      match inactivePos s s.curCore mask with
      | some x => trapped s causeREMOTEREF 2 (positionVal s x)
      | none =>
        match multicastRange s dst len.toNat with
        | some e => stopped s e
        | none =>
          match sideCheck s src len.toNat true with
          | some e => stopped s e
          | none =>
            copyStart s src w bar (len.toNat / 64 * targets.length) len.toNat (fun t =>
              if isGlobal src then t.postRuns src len.toNat me (fun va off k => .tileRead va k 0 false (tills.map (fun x => x.skip off)) bar)
              else t.startLocalCopy me (copySide s s.curCore src len.toNat) tills len.toNat bar)

/-- TFPR (R175): the request goes to the home of a global range, or to the own teller for a local one. -/
def execTfpr (d a b : BitVec 5) (s : State) : Res :=
  let va := s.g a
  let len := s.g b
  if s.isTeller then illegal s (.tfpr d a b)
  else if len.toNat % 64 ≠ 0 then trapped s causeMISALIGN 0 len
  else if len.toNat = 0 || 65536 < len.toNat then trapped s causeILLOP 9 len
  else if 2 ^ 48 ≤ va.toNat then trapped s causeLOCALBOUND 3 va
  else if va.toNat % 64 ≠ 0 then trapped s causeMISALIGN 0 va
  else if 2 ^ 16 < va.toNat % 2 ^ 16 + len.toNat then trapped s causeSPANCROSS 0 va
  else
    match sideCheck s va len.toNat false with
    | some e => stopped s e
    | none =>
      if !s.canJoin || (isGlobal va && pmapPending s va len.toNat) then notReady s
      else
        paying s 2 (fun p =>
          .next (((p.startOp .result va (encode (.tfpr d a b)) (destG d) none 1 none len.toNat).post
            (if isGlobal va then routeOf s va else s.curCore) 5 (s.me s.nextOpId)
            (.fpr va len.toNat 0 0 (if isGlobal va then none else some (copySide s s.curCore va len.toNat)))).retire s))

end Sys2Proof.Machine
end

