-- ==== Sys2Proof/Machine/Serve.lean ====
section
/-!
DEFINITION. The resident handlers 0 to 5, 8 and 11 at work (06_memory_messages.md, R172 to R179, R188 to R190; 04, R116; 13,
R348 to R353; 10, Tables 10.3 and 10.9).  A step that finds no occasion leaves the state as it is.
-/
namespace Sys2Proof.Machine

/-- Page requests that wait begin again, in arrival order (R126). -/
def State.wakePages (s : State) : State :=
  s.coreList.foldl (fun t c =>
    if (t.core c).pageWait.isEmpty then t else t.updCore c (fun k => { k with pageWait := [], ready := k.ready ++ k.pageWait })) s

/-! ### The home's checks -/

/-- The request that a core's teller is at work on. -/
def State.work (s : State) (c : Nat) : Option Msg := (s.core c).teller.act.map (fun a => a.msg)

/-- The reply to a request, which ends the activation. -/
def State.answer (s : State) (c : Nat) (m : Msg) (b : Body) : State := (s.post m.src.core 63 m.src b).endActivation c

/-- A request that meets a fault completes at its requester with a fault record (R170). -/
def State.refuse (s : State) (c : Nat) (m : Msg) (f : FaultInfo) : State :=
  match m.body.faultReply f with
  | some b => s.answer c m b
  | none => s.endActivation c

/-- How a request finds its page at a core. -/
inductive HomeAcc where
  /-- Homed here; the key of the first byte. -/
  | serve (key : Nat) (s : State)
  /-- Moving (R348, R354), or a write to a frame that is being copied (R364). -/
  | hold
  | absent
  | wait
  | fault (s : State) (f : FaultInfo)

/-- A key slot holds a key granted to a job (R365, R467). -/
def keyUsable (s : State) (key : BitVec 6) (job : BitVec 24) : Bool :=
  let k := s.keys.get key.toFin
  k.st == 1 && k.grant == job

/-- A sender in another module (log entry 8). -/
def Req.foreign (q : Req) : Bool := 2 ^ 20 ≤ q.core

/-- The lowest uncorrectable block that stops an access of n bytes: one that is read, or written in part (R154, R428). -/
def homeBad (s : State) (key n : Nat) (acc : Acc) : Option Nat :=
  if s.bad.isEmpty then none
  else
    ((List.range ((key + n - 1) / 64 - key / 64 + 1)).map (fun i => (key / 64 + i) * 64)).find? (fun b =>
      s.bad.contains b && (acc.reads || b < key || key + n < b + 64))

/-- An earlier request of the same context to the page is held: a later one is held behind it (R259). -/
def behindHeld (k : Core) (src : Req) (va : Word) : Bool :=
  k.held.any (fun m => m.src.core == src.core && m.src.slot == src.slot && m.src.job == src.job && m.body.va.any (fun a => vpnOf a == vpnOf va))

/-- Checks 5 and 6 at the home, and KEY when the request crosses modules (R176, R177, R365). -/
def homeAccess (s : State) (c : Nat) (src : Req) (va : Word) (n : Nat) (acc : Acc) : HomeAcc :=
  match findPage (s.core c).vaultMap src.job (vpnOf va) with
  | none => .absent
  | some p =>
    if p.st == 2 || (acc.writes && copyBusy (s.core c) p) || behindHeld (s.core c) src va then .hold
    else if p.st != 1 then .absent
    else
      match permCheck p acc va with
      | some (.trap cause sub val) => .fault s ⟨cause, sub, val⟩
      | some _ => .wait
      | none =>
        if src.foreign && !keyUsable s p.key src.job then .fault s ⟨causePAGEFAULT, 4, va⟩
        else
          let off := vaultOff p va
          let key := vaultKey c off
          match needRow s c off with
          | .error _ => .wait
          | .ok act =>
            let s1 := s.openRow c act
            match needRow s1 c (off + n - 1) with
            | .error _ => .wait
            | .ok act2 =>
              let s2 := s1.openRow c act2
              match homeBad s key n acc with
              | some b => .fault (s2.foundBad b) ⟨causeUNCORR, 0, (va &&& ~~~63) + BitVec.ofNat 64 (b - key / 64 * 64)⟩
              | none => .serve key (if acc.reads then s2.correctedIn key n else s2)

/-- A request is held in arrival order (R354). -/
def State.holdRequest (s : State) (c : Nat) (m : Msg) : State :=
  (s.updCore c (fun k => { k with held := k.held ++ [m] })).endActivation c

/-- A request served where its page is homed. -/
def State.atHome (s : State) (c : Nat) (m : Msg) (va : Word) (n : Nat) (acc : Acc) (k : Nat → State → State) : State :=
  match homeAccess s c m.src va n acc with
  | .serve key t => k key t
  | .hold => s.holdRequest c m
  | .absent => s
  | .wait => s
  | .fault t f => t.refuse c m f

/-! ### Loads, stores and atomics -/

def State.serveLoad (s : State) (c : Nat) : State :=
  match s.work c with
  | some m =>
    match m.body with
    | .load va n => s.atHome c m va n .read (fun key t => t.answer c m (.reply (s.mem.readBytes key n) (homeHint s c va) none))
    | _ => s
  | none => s

/-- REMOTE_LOAD_SERVE. -/
def execRemoteLoadServe (c : Nat) (s : State) : Res := .next (s.serveLoad c)

def State.serveStore (s : State) (c : Nat) : State :=
  match s.work c with
  | some m =>
    match m.body with
    | .store va bs => s.atHome c m va bs.length .write (fun key t => (t.putBytes key bs).answer c m (.ack (homeHint s c va) none))
    | _ => s
  | none => s

/-- REMOTE_STORE_SERVE. -/
def execRemoteStoreServe (c : Nat) (s : State) : Res := .next (s.serveStore c)

def State.serveAtomic (s : State) (c : Nat) : State :=
  match s.work c with
  | some m =>
    match m.body with
    | .rmw va dword op x y =>
      let n := if dword then 8 else 4
      s.atHome c m va n .both (fun key t =>
        let old := s.mem.readNat key n
        (t.store key n (rmwValue op (8 * n) old (x.toNat % 2 ^ (8 * n)) (y.toNat % 2 ^ (8 * n)))).answer c m
          (.reply (bytesOf n old) (homeHint s c va) none))
    | _ => s
  | none => s

/-- ATOMIC_SERVE. -/
def execAtomicServe (c : Nat) (s : State) : Res := .next (s.serveAtomic c)

/-- The size of a guided chunk at counter value c (R116). -/
def claimSize (c n p f cmin : Nat) : Nat := min (n - c) (max cmin ((n - c + f * p - 1) / (f * p)))

def State.serveClaim (s : State) (c : Nat) : State :=
  match s.work c with
  | some m =>
    match m.body with
    | .claim va n p f cmin =>
      s.atHome c m va 8 .both (fun key t =>
        let x := s.mem.readNat key 8
        let z := claimSize x n p f cmin
        (t.store key 8 ((x + z) % 2 ^ 64)).answer c m (.claimReply x z (homeHint s c va) none))
    | _ => s
  | none => s

/-- NEST_CLAIM. -/
def execNestClaim (c : Nat) (s : State) : Res := .next (s.serveClaim c)

/-! ### Reservations (R179) -/

/-- The unit that sent a request still holds its slot. -/
def sentBy (s : State) (q : Req) (t : Fin 4) : Bool :=
  (s.slotAt q.core t).unitid == q.unit && (s.slotAt q.core t).launchid == q.launch

/-- The slot that sent a request still holds the same unit: a request of a stopped one is withdrawn (R331). -/
def senderHere (s : State) (q : Req) : Bool := if h : q.slot < 4 then sentBy s q ⟨q.slot, h⟩ else true

/-- The aligned doubleword that a reservation covers. -/
def resvAddr (va : Word) : Word := va &&& ~~~7

def findResv (k : Core) (job : BitVec 24) (va : Word) : Option Resv :=
  k.resvs.find? (fun r => r.job == job && r.va == resvAddr va)

def State.serveLrw (s : State) (c : Nat) : State :=
  match s.work c with
  | some m =>
    match m.body with
    | .lrw va dword =>
      let n := if dword then 8 else 4
      if !m.src.foreign && !senderHere s m.src then s.endActivation c
      else s.atHome c m va n .read (fun key t =>
        match findResv (s.core c) m.src.job va with
        | none =>
          (t.updCore c (fun k => { k with resvs := k.resvs ++
            [⟨m.src.job, resvAddr va, some (m.src.launch, m.src.unit, m.src.core), []⟩] })).answer c m
            (.grant (s.mem.readBytes key n) (homeHint s c va) none)
        | some _ =>
          (t.updCore c (fun k => { k with resvs := k.resvs.map (fun r =>
            if r.job == m.src.job && r.va == resvAddr va then { r with waiting := r.waiting ++ [(m.src, va, dword)] }
            else r) })).endActivation c)
    | _ => s
  | none => s

/-- LRW_SERVE. -/
def execLrwServe (c : Nat) (s : State) : Res := .next (s.serveLrw c)

/-- The sender holds the reservation: a holder is known by its launch and unit. -/
def holds (r : Resv) (q : Req) : Bool :=
  match r.holder with
  | some h => h.1 == q.launch && h.2.1 == q.unit
  | none => false

def State.serveSch (s : State) (c : Nat) : State :=
  match s.work c with
  | some m =>
    match m.body with
    | .sch va dword x =>
      let n := if dword then 8 else 4
      s.atHome c m va n .write (fun key t =>
        match findResv (s.core c) m.src.job va with
        | some r =>
          if holds r m.src then
            ((t.store key n (x.toNat % 2 ^ (8 * n))).handOn c r).answer c m (.ack (homeHint s c va) none)
          else s.refuse c m ⟨causeQUEUE, 3, va⟩
        | none => s.refuse c m ⟨causeQUEUE, 3, va⟩)
    | _ => s
  | none => s

/-- SCH_SERVE. -/
def execSchServe (c : Nat) (s : State) : Res := .next (s.serveSch c)

/-! ### Copies and fingerprints (R172 to R175) -/

/-- A step of a slot's operation that is charged away from the slot (R157): none while its purse does not cover it.  When the
unit is gone, its core pays for its job.  A message of another module is charged there (log entry 8). -/
def State.chargeReq (s : State) (q : Req) (n : Nat) : Option State :=
  if q.foreign then some s
  else if h : q.slot < 4 then
    (if sentBy s q ⟨q.slot, h⟩ then (if s.slotCanPay q.core ⟨q.slot, h⟩ n then some (s.chargeSlot q.core ⟨q.slot, h⟩ n) else none)
     else s.payFor q.core (some q.job) n)
  else some s

/-- Such a step that the sender's heat meter does not cover (R393). -/
def State.heatReq (s : State) (q : Req) (n : Nat) : State :=
  if q.foreign then s else if h : q.slot < 4 then (if sentBy s q ⟨q.slot, h⟩ then s.heatStop q.core ⟨q.slot, h⟩ n else s) else s

/-- A step that its sender pays for goes on when it can, and waits when it cannot. -/
def State.chargedStep (s : State) (q : Req) (n : Nat) (k : State → State) : State :=
  match s.chargeReq q n with
  | none => s.heatReq q n
  | some u => k u

/-- Hops between a core and a sender. -/
def reqHops (s : State) (c : Nat) (q : Req) : Nat := if q.foreign then s.hopsFrom c (s.reqId q) else hops q.core c

/-- Hops from a core to a message destination. -/
def dstHops (s : State) (c d : Nat) : Nat := if d < 2 ^ 20 then hops c d else s.hopsFrom c (BitVec.ofNat 26 (d - 2 ^ 20))

/-- The request that a core's teller is at work on has come so far. -/
def State.progressTo (s : State) (c : Nat) (b : Body) : State :=
  s.updCore c (fun k => { k with teller := { k.teller with act := k.teller.act.map (fun a => { a with msg := { a.msg with body := b } }) } })

/-- The lowest uncorrectable block of a page's run that begins at a key: no block of a faulting page is read or written (R172).  It is
looked for before the first block is served, and before each one that comes by itself. -/
def runBad (s : State) (key n done : Nat) (one : Bool) (acc : Acc) : Option Nat := if done = 0 || one then homeBad s key n acc else none

/-- A run that meets an uncorrectable block: it is reported (R428), and the run faults at its address (R172). -/
def State.runFault (s : State) (c : Nat) (m : Msg) (va : Word) (key b : Nat) : State :=
  (s.foundBad b).refuse c m ⟨causeUNCORR, 0, va + BitVec.ofNat 64 (b - key)⟩

/-- The coins of one target's block of a copy read at a core, beyond the read: the write, and the hops there and back (Table 6.2). -/
def targetCoins (s : State) (c : Nat) (x : CopySide) : Nat := localCoins x.addr.toNat + 2 * dstHops s c x.core

/-- The coins of one block of a copy with its targets: Table 6.2 charges the read, of `read` coins, for each target. -/
def copyCoinsTo (s : State) (c read : Nat) (targets : List CopySide) : Nat := (targets.map (fun x => read + targetCoins s c x)).sum

/-- A block of a copy's local source: its bytes, or the fault that reading it meets. -/
def sourceBlock (s : State) (x : CopySide) (i : Nat) : Except FaultInfo (List Byte) :=
  let a := (blockAddr x.addr i)
  match sideKey s x.core a.toNat x.via with
  | none => .error ⟨causeUNCORR, 0, a⟩
  | some key => if s.bad.contains key then .error ⟨causeUNCORR, 0, a⟩ else .ok (s.mem.readBytes key 64)

/-- Reading a block of a copy's local source: a correctable one counts (R426), and an uncorrectable one is reported (R428). -/
def State.sourceRead (s : State) (x : CopySide) (i : Nat) : State :=
  match sideKey s x.core (blockAddr x.addr i).toNat x.via with
  | none => s
  | some key => if s.bad.contains key then s.foundBad key else s.corrected key

/-- A page's run has ended: page requests that wait for its end begin again (R172). -/
def State.endRun (s : State) (c : Nat) : State := (s.endActivation c).wakePages

/-- One block of a page's run of a copy (R172, R174): read and sent to its targets, or written and acknowledged, just after its coins are
drawn (R157). -/
def State.serveTile (s : State) (c : Nat) : State :=
  match s.work c with
  | some m =>
    let h := reqHops s c m.src
    match m.body with
    | .tileRead va n done one targets bar =>
      let a := blockAddr va done
      s.atHome c m a 64 .read (fun key t =>
        match runBad s (key - 64 * done) n done one .read with
        | some b => t.runFault c m va (key - 64 * done) b
        | none =>
          let coins := h + copyCoinsTo s c 40 targets
          t.chargedStep m.src coins (fun u =>
            let owed := if m.src.foreign then coins else 0
            let v := (targets.zipIdx).foldl (fun w x =>
              w.post x.1.core 63 m.src (.block (blockAddr x.1.addr done) x.1.via (s.mem.readBytes key 64) (if x.2 = 0 then owed else 0) bar
                (homeHint s c va))) u
            if one || n / 64 ≤ done + 1 then v.endRun c else v.progressTo c (.tileRead va n (done + 1) one targets bar)))
    | .tileWrite va n done one source data bar =>
      let a := blockAddr va done
      s.atHome c m a 64 .write (fun key t =>
        t.chargedStep m.src (localCoins source.addr.toNat + 40 + 3 * h) (fun u =>
          let more := fun (w : State) =>
            if one || n / 64 ≤ done + 1 then w.endRun c else w.progressTo c (.tileWrite va n (done + 1) one source data bar)
          let u := if data.isEmpty then u.sourceRead source done else u
          match (if data.isEmpty then sourceBlock s source done else .ok (data.take 64)) with
          | .error f => more (u.post m.src.core 63 m.src (.blockAck 1 bar none (some f)))
          | .ok bs => more ((u.putBytes key bs).post m.src.core 63 m.src (.blockAck 1 bar (homeHint s c va) none))))
    | _ => s
  | none => s

/-- TILE_SERVE: one block. -/
def execTileServe (c : Nat) (s : State) : Res := .next (s.serveTile c)

/-- Eight steps of the CRC of R175 on one byte, bit 7 first. -/
def crcByte (x : Word) (b : Byte) : Word :=
  (List.range 8).foldl (fun a _ => if a.getLsbD 63 then (a <<< 1) ^^^ 0x42F0E1EBA9EA3693 else a <<< 1) (x ^^^ (b.zeroExtend 64 <<< 56))

/-- CRC-64 with the parameters of ECMA-182 (R175). -/
def crc64 (bs : List Byte) : Word := bs.foldl crcByte 0

/-- One block of a fingerprint, just after its coins are drawn (R157); the first one's coins hold the hops there and back. -/
def State.serveFpr (s : State) (c : Nat) : State :=
  match s.work c with
  | some m =>
    match m.body with
    | .fpr va n done crc source =>
      let coins := 40 + if done = 0 then 2 * reqHops s c m.src else 0
      let next := fun (bs : List Byte) (u : State) =>
        let x := bs.foldl crcByte crc
        if done + 1 < n / 64 then u.progressTo c (.fpr va n (done + 1) x source)
        else
          match source with
          | some _ => u.answer c m (.deferred x none)
          | none => u.answer c m (.fprReply x (if m.src.foreign then 40 * (n / 64) + 2 * reqHops s c m.src else 0) (homeHint s c va))
      match source with
      | none =>
        s.atHome c m (blockAddr va done) 64 .read (fun key t =>
          match runBad s (key - 64 * done) n done false .read with
          | some b => t.runFault c m va (key - 64 * done) b
          | none => t.chargedStep m.src coins (next (s.mem.readBytes key 64)))
      | some y =>
        match sourceBlock s y done with
        | .error f => (s.sourceRead y done).refuse c m f
        | .ok bs => (s.sourceRead y done).chargedStep m.src coins (next bs)
    | _ => s
  | none => s

/-- FINGERPRINT_SERVE. -/
def execFingerprintServe (c : Nat) (s : State) : Res := .next (s.serveFpr c)

/-! ### Forwarding (R352, R357) -/

/-- Flits of a request (Table 6.2). -/
def Body.flits : Body → Nat
  | .store _ bs => if bs.length ≤ 8 then 1 else 2
  | .tileWrite _ _ _ _ _ _ _ => 2
  | _ => 1

/-- Where a core that is not the page's home sends a request: through its newest stub, else to the clearing core, else to the home
of the clearing core's entry; none when that entry is not mapped. -/
def nextHop (s : State) (c : Nat) (job : BitVec 24) (va : Word) : Option Nat :=
  let vpn := vpnOf va
  let stub := (s.core c).stubs.reverse.findSome? (fun x =>
    match x with
    | .page j v h => if j == job && v == vpn then some (s.dstOf h) else none
    | .context _ _ _ _ _ _ => none)
  match stub with
  | some d => some d
  | none =>
    if clearingCore s job vpn != c then some (clearingPlace s job vpn)
    else
      match findPage (s.core c).pages job vpn with
      | some p => if p.st == 1 || p.st == 2 then some (s.dstOf (p.mod ++ p.core)) else none
      | none => none

/-- Coins of sending a request on. -/
def onwardCoins (s : State) (c d : Nat) (m : Msg) : Nat := ((m.body.pieces d).map Body.flits).sum * dstHops s c d

/-- A request sent on, at the forwarding core's cost (R157), counted to the requester's job; none while its purse does not cover it. -/
def State.sendOn (s : State) (c d : Nat) (m : Msg) : Option State :=
  (s.payFor c (some m.src.job) (onwardCoins s c d m)).map (fun t =>
    (m.body.pieces d).foldl (fun u b => u.post d m.handler m.src b) t)

/-- The page's home is a core lost without a plan, whose number a spare core now answers to (R441). -/
def homeLost (s : State) (c : Nat) (job : BitVec 24) (va : Word) : Bool :=
  clearingCore s job (vpnOf va) == c &&
  (findPage (s.core c).pages job (vpnOf va)).any (homeGone s)

def State.forward (s : State) (c : Nat) : State :=
  match s.work c with
  | some m =>
    match m.body.va with
    | some va =>
      if (findPage (s.core c).vaultMap m.src.job (vpnOf va)).any (fun p => p.st == 1 || p.st == 2) then s
      else if homeLost s c m.src.job va then s.refuse c m ⟨causeUNCORR, 0, va &&& ~~~63⟩
      else
        match nextHop s c m.src.job va with
        | none => s.refuse c m ⟨causePAGEFAULT, 1, va⟩
        | some d =>
          if d = c then s
          else
            match s.sendOn c d m with
            | none => s
            | some t => t.endActivation c
    | none => s
  | none => s

/-- REQUEST_FORWARD. -/
def execRequestForward (c : Nat) (s : State) : Res := .next (s.forward c)

/-! ### Barriers (R188 to R190) -/

def State.serveArrive (s : State) (c : Nat) : State :=
  match s.work c with
  | some m =>
    match m.body with
    | .arrive b => (s.barrierUpdate c b 1 0 0).answer c m (.ack none none)
    | _ => s
  | none => s

/-- REMOTE_ARRIVE_SERVE. -/
def execRemoteArriveServe (c : Nat) (s : State) : Res := .next (s.serveArrive c)

/-- BARRIER_CARRIED_PHASE: counts that already meet the expectations complete the next phase, in the cycle after the last one (R189). -/
def execBarrierCarriedPhase (c : Nat) (b : Fin 16) (s : State) : Res :=
  .next (if (s.barrier c b).full && !s.phaseEnded c b then s.barrierUpdate c b 0 0 0 else s)

/-- A push gives a barrier its phase. -/
def State.takePush (s : State) (c : Nat) (m : Msg) : State :=
  match m.body with
  | .push b p => s.setBarrier c b { s.barrier c b with p := p }
  | _ => s

/-- A push is applied as usual on a halted core, whose teller takes up nothing: from its landing buffer, or from the router (R457). -/
def State.pushHalted (s : State) (c : Nat) : State :=
  if !halted s c then s
  else
    match takeFirst (fun x => x.2.body.isPush) (s.core c).landed, netHead s c with
    | some ((_, m), rest), _ => (s.updCore c (fun k => { k with landed := rest })).takePush c m
    | none, some (m, rest) => if m.body.isPush then ({ s with net := rest } : State).takePush c m else s
    | none, none => s

def State.servePush (s : State) (c : Nat) : State :=
  match s.work c with
  | some m => if m.body.isPush then (s.takePush c m).endActivation c else s
  | none => s.pushHalted c

/-- PHASE_PUSH. -/
def execPhasePush (c : Nat) (s : State) : Res := .next (s.servePush c)

end Sys2Proof.Machine
end

