-- ==== Sys2Proof/Machine/Reply.lean ====
section
/-!
DEFINITION. Replies, acknowledgements, copied blocks, queue entries and credits as they land (01_instant_state.md, R27; 04,
R116; 06, R168, R174, R179, R193; 08, R247, R248; 10, R287; 13, R351).
-/
namespace Sys2Proof.Machine

/-! ### What a reply writes -/

/-- The reply at the head of a core's router, with the rest of the mesh. -/
def State.landing (s : State) (c : Nat) : Option (Msg × State) :=
  (netHead s c).map (fun x => (x.1, { s with net := x.2 }))

/-- A slot's g register written by a reply; g0 discards it. -/
def State.setGAt (s : State) (c : Nat) (t : Fin 4) (r : BitVec 5) (x : Word) : State :=
  if r = 0 then s
  else s.updSlotAt c t (fun l => { l with ctx := { l.ctx with g := l.ctx.g.set r.toNat x r.isLt } })

/-- A destination written by a reply. -/
def State.setDest (s : State) (c : Nat) (t : Fin 4) (d : Dest) (x : Nat) : State :=
  match d with
  | .none => s
  | .code => s.updSlotAt c t (fun l => { l with trapWork := l.trapWork.map (fun w => { w with value := BitVec.ofNat 64 x }) })
  | .g r => s.setGAt c t r (BitVec.ofNat 64 x)
  | .v r => s.updSlotAt c t (fun l => { l with ctx := { l.ctx with v := l.ctx.v.set r.toNat (BitVec.ofNat 512 x) r.isLt } })

/-- A core's hint for a page (R351): the page's own entry, else the one at the pointer, which advances. -/
def putHint (k : Core) (h : Hint) : Core :=
  match (List.finRange 16).find? (fun i => (k.hints.get i).any (fun x => x.job == h.job && x.vpn == h.vpn)) with
  | some i => { k with hints := k.hints.set i (some h) i.isLt }
  | none => { k with hints := k.hints.set k.hintPtr (some h) k.hintPtr.isLt, hintPtr := k.hintPtr + 1 }

/-- The hint that a reply without a fault writes. -/
def State.hint (s : State) (c : Nat) (job : BitVec 24) (home : Option (Nat × BitVec 26)) : State :=
  match home with
  | none => s
  | some h => if 2 ^ 20 ≤ c then s else s.updCore c (fun k => putHint k ⟨job, BitVec.ofNat 33 h.1, h.2⟩)

/-- The value that a load or read-modify-write writes. -/
def replyValue (k : OpKind) (bs : List Byte) : Nat :=
  let x := natOfBytes bs
  match k with
  | .marked n true => (rmwResult n x).toNat
  | .rmw n true => (rmwResult n x).toNat
  | _ => x

/-- The operation that a reply answers. -/
def opOf (s : State) (c : Nat) (m : Msg) : Option Op :=
  if m.src.slot < 4 then (s.core c).ops.find? (fun o => o.id == m.src.op && !o.failed) else none

/-- The reply of a marked operation: it writes the destination, clears the mark, completes the operation, and updates the
hint and the log. -/
def State.fillMarked (s : State) (c : Nat) (m : Msg) (bs : List Byte) (home : Option (Nat × BitVec 26)) (f : Option FaultInfo) : State :=
  match opOf s c m with
  | none => s
  | some o =>
    match f with
    | some _ => s.completeOp c o f
    | none =>
      let x := replyValue o.kind bs
      ((((s.setDest c o.slot o.dest x).completeOp c o none).hint c m.src.job home).record c o.slot (s.slotAt c o.slot).instret 1
        (bytesOf (match o.dest with | .v _ => 64 | _ => 8) x))

/-- REMOTE_REPLY (R27, R177): RLD, VRLD, RFA and RCAS. -/
def State.remoteReply (s : State) (c : Nat) : State :=
  match s.landing c with
  | some (m, t) =>
    match m.body with
    | .reply bs home f => t.fillMarked c m bs home f
    | _ => s
  | none => s

def execRemoteReply (c : Nat) (s : State) : Res := .next (s.remoteReply c)

/-- LRW_GRANT (R179): the parked slot becomes the holder and takes its value. -/
def State.lrwGrant (s : State) (c : Nat) : State :=
  match s.landing c with
  | some (m, t) =>
    match m.body with
    | .grant bs home f =>
      match opOf s c m with
      | none => t
      | some o => (t.fillMarked c m bs home f).updSlotAt c o.slot (fun l => { l with lrw := none })
    | _ => s
  | none => s

def execLrwGrant (c : Nat) (s : State) : Res := .next (s.lrwGrant c)

/-- A home in another module has answered a store of the distributor (R226, R312, R397). -/
def State.heardStore (s : State) (id : Nat) (failed : Bool) : State :=
  { s with dist := { s.dist with
    notices := s.dist.notices.map (fun x => if x.id == id && x.sent then { x with heard := some failed } else x)
    reductions := s.dist.reductions.map (fun r =>
      if r.due.contains id then { r with due := r.due.filter (fun x => x != id), lost := r.lost || failed } else r) } }

/-- WRITE_ACK (R168): RSTR, VRST, SCH, a counted remote arrival, and a store of the distributor; and the fault of a SEND's request
(R284). -/
def State.writeAck (s : State) (c : Nat) : State :=
  match s.landing c with
  | some (m, t) =>
    match m.body with
    | .ack home f =>
      let u := if m.src.slot < 4 then t.pieceDone c m.src.op f else if m.src.slot = 5 then t.heardStore m.src.op f.isSome else t
      if f.isSome || 4 ≤ m.src.slot then u else u.hint c m.src.job home
    | .sendFault f => if m.src.slot < 4 then t.sentFault c m.src.op f else t
    | _ => s
  | none => s

def execWriteAck (c : Nat) (s : State) : Res := .next (s.writeAck c)

/-- CLAIM_REPLY (R116, R117): the chunk from x of size z, or a fault in its place. -/
def State.claimReply (s : State) (c : Nat) : State :=
  match s.landing c with
  | some (m, t) =>
    match m.body with
    | .claimReply x z home f =>
      if h : m.src.slot < 4 then
        (if f.isSome then t else t.hint c m.src.job home).updSlotAt c ⟨m.src.slot, h⟩ (fun l =>
          if !(l.unitid == m.src.unit && l.launchid == m.src.launch && l.nest.pending) then l
          else
            match f with
            | some f => { l with nest := { l.nest with pending := false, fault := some (f.cause, f.sub) } }
            | none => { l with nest := { l.nest with
                pending := false
                fresh := true
                first := BitVec.ofNat 48 x
                last := BitVec.ofNat 48 (x + z)
                exhausted := z == 0 } })
      else t
    | _ => s
  | none => s

def execClaimReply (c : Nat) (s : State) : Res := .next (s.claimReply c)

/-- DEFERRED_REPLY (R193): g[d] is written, without a mark, and the operation completes. -/
def State.deferredReply (s : State) (c : Nat) : State :=
  match s.landing c with
  | some (m, t) =>
    match m.body with
    | .deferred x f =>
      match opOf s c m with
      | none => t
      | some o =>
        match f with
        | some _ => t.completeOp c o f
        | none =>
          let u := (t.setDest c o.slot o.dest x.toNat).completeOp c o none
          if o.kind == .result then u.record c o.slot (s.slotAt c o.slot).instret 1 (bytesOf 8 x.toNat) else u
    | .fprReply x coins home =>
      match opOf s c m with
      | none => t
      | some o =>
        t.chargedStep m.src coins (fun v =>
          (((v.setDest c o.slot o.dest x.toNat).completeOp c o none).hint c m.src.job home).record c o.slot
            (s.slotAt c o.slot).instret 1 (bytesOf 8 x.toNat))
    | _ => s
  | none => s

def execDeferredReply (c : Nat) (s : State) : Res := .next (s.deferredReply c)

/-! ### Copied blocks (R174, R287) -/

/-- Part j of a till with upc units per core (R231): its base and size. -/
def partBase (upc j : Nat) : Nat := j * (122880 / upc)
def partSize (upc : Nat) : Nat := 122880 / upc

/-- The part of a unit. -/
def partOf (upc : Nat) (unit : BitVec 24) : Nat := unit.toNat % max 1 upc

/-- A till offset lies in a part. -/
def inPart (upc j a : Nat) : Bool := partBase upc j ≤ a && a < partBase upc j + partSize upc

/-- A slot whose image is on its way: its part is frozen (R285 step 5). -/
def isFrozen (l : Slot) : Bool :=
  l.leaving.any (fun v => 3 ≤ v.stage && (match v.why with | .preempt _ => false | _ => true))

/-- What lands at a till offset is held: the part is frozen, or its lease is still to be written (R287). -/
def frozenAt (s : State) (c a : Nat) : Bool :=
  (s.core c).slots.toList.any (fun l => (isFrozen l || l.incoming.isSome) && inPart l.upc (partOf l.upc l.unitid) a)

/-- The launch, unit and core to which a context stub forwards what lands at a till offset. -/
def stubFor (k : Core) (a : Nat) : Option (BitVec 32 × BitVec 24 × Nat) :=
  k.stubs.findSome? (fun x =>
    match x with
    | .context l u part upc core _ => if inPart upc part a then some (l, u, core) else none
    | .page _ _ _ => none)

/-- The core to which a unit's own stub points. -/
def unitStub (k : Core) (launch : BitVec 32) (unit : BitVec 24) : Option (Nat × Option (Fin 4)) :=
  k.stubs.findSome? (fun x =>
    match x with
    | .context l u _ _ core slot => if l == launch && u == unit then some (core, slot) else none
    | .page _ _ _ => none)

/-- The slot that holds a unit. -/
def unitSlot (k : Core) (launch : BitVec 32) (unit : BitVec 24) : Option (Fin 4) :=
  (List.finRange 4).find? (fun i =>
    let l := k.slots.get i
    l.phase != .empty && l.unitid == unit && l.launchid == launch)

/-- The slots of a core whose lease holds a till offset. -/
def leaseHolder (k : Core) (a : Nat) : Option (Fin 4) :=
  (List.finRange 4).find? (fun t =>
    let l := k.slots.get t
    (l.phase == .run || l.phase == .drain) && l.leaseBase.toNat * 64 ≤ a && a < (l.leaseBase.toNat + l.leaseSize.toNat) * 64)

/-- A block is written, then credited (R174), and a recording logs what lands in a lease (Table 20.7, kind 6); the page that it was read
from becomes a hint of its requester's core (R351). -/
def State.writeBlock (s : State) (c : Nat) (src : Req) (a : Nat) (via : Option Nat) (bs : List Byte) (bar : Option (Fin 16))
    (page : Option (Nat × BitVec 26)) : State :=
  match sideKey s c a via with
  | none => s.pieceDone src.core src.op (some ⟨causeUNCORR, 0, BitVec.ofNat 64 a⟩)
  | some key =>
    let s1 := s.putBytes key bs
    let s2 := match leaseHolder (s.core c) a with
      | some t => s1.record c t (s.slotAt c t).instret 6 (bytesOf 8 a ++ bs)
      | none => s1
    let s3 := match bar with
      | some b => s2.barrierUpdate src.core b 0 64 0
      | none => s2
    (s3.pieceDone src.core src.op none).hint src.core src.job page

/-- A message is held at a core for a unit on the move (R287). -/
def State.keep (s : State) (c : Nat) (m : Msg) : State := s.updCore c (fun k => { k with held := k.held ++ [m] })

/-- A block follows a context stub, at the forwarding core's cost (R157, R287); `s` is the state in which it still waits. -/
def State.passBlock (s t : State) (c d : Nat) (q : Req) (b : Body) : State :=
  match t.payFor c (some q.job) (2 * t.hopsDst c d) with
  | none => s
  | some u => u.post d 63 q b

/-- What a block that has landed at a till does; one whose owed coins its issuer's purse does not cover waits. -/
def State.blockLands (s t : State) (c : Nat) (m : Msg) (dst : Word) (via : Option Nat) (bs : List Byte) (coins : Nat)
    (bar : Option (Fin 16)) (page : Option (Nat × BitVec 26)) : State :=
  match t.chargeReq m.src coins with
  | none => s.heatReq m.src coins
  | some u =>
    if 0x1E000 ≤ dst.toNat then u.writeBlock c m.src dst.toNat via bs bar page
    else if frozenAt s c dst.toNat then u.keep c { m with body := .block dst via bs 0 bar page }
    else
      match stubFor (s.core c) dst.toNat with
      | some d => s.passBlock u c d.2.2 m.src (.blockFor d.1 d.2.1 dst bs bar page)
      | none => u.writeBlock c m.src dst.toNat via bs bar page

/-- The next block of a core's oldest copy with local sides only: read and sent to its targets, just after its coins are drawn (R157,
R172, R173); the source is read once. -/
def State.copyLocal (s : State) (c : Nat) : State :=
  match (s.core c).copies with
  | [] => s
  | x :: rest =>
    let coins := copyCoinsTo s c (localCoins (blockAddr x.source.addr x.done).toNat) x.targets
    s.chargedStep x.src coins (fun u =>
      let v := (u.sourceRead x.source x.done).updCore c (fun k => { k with
        copies := if x.n / 64 ≤ x.done + 1 then rest else { x with done := x.done + 1 } :: rest })
      match sourceBlock s x.source x.done with
      | .error f => v.piecesDone x.src.core x.src.op (some f) x.targets.length
      | .ok bs => x.targets.foldl (fun w y => w.post y.core 63 x.src (.block (blockAddr y.addr x.done) y.via bs 0 x.barrier none)) v)

/-- COPY_BLOCK_LANDING: the block at the head of a core's router, or else the next block of the core's own copy. -/
def State.copyBlockLanding (s : State) (c : Nat) : State :=
  match s.landing c with
  | some (m, t) =>
    match m.body with
    | .block dst via bs coins bar page => s.blockLands t c m dst via bs coins bar page
    | .blockFor launch unit dst bs bar page =>
      let k := s.core c
      match unitSlot k launch unit with
      | some i =>
        if isFrozen (k.slots.get i) || (k.slots.get i).incoming.isSome then t.keep c m
        else t.writeBlock c m.src dst.toNat none bs bar page
      | none =>
        if k.parked.any (fun p => p.unit == unit && p.launch == launch) then t.keep c m
        else
          match unitStub k launch unit with
          | some d => s.passBlock t c d.1 m.src m.body
          | none => t.writeBlock c m.src dst.toNat none bs bar page
    | _ => s.copyLocal c
  | none => s.copyLocal c

def execCopyBlockLanding (c : Nat) (s : State) : Res := .next (s.copyBlockLanding c)

/-- COPY_BLOCK_ACK (R174). -/
def State.copyBlockAck (s : State) (c : Nat) : State :=
  match s.landing c with
  | some (m, t) =>
    match m.body with
    | .blockAck blocks bar home f =>
      match f, bar with
      | none, some b => ((t.barrierUpdate c b 0 (64 * blocks) 0).piecesDone c m.src.op none blocks).hint c m.src.job home
      | none, none => (t.piecesDone c m.src.op none blocks).hint c m.src.job home
      | some _, _ => t.piecesDone c m.src.op f blocks
    | _ => s
  | none => s

def execCopyBlockAck (c : Nat) (s : State) : Res := .next (s.copyBlockAck c)

/-! ### Queues (R247 to R249) -/

/-- QUEUE_ENTRY_LANDING: an entry for a full queue waits. -/
def State.queueEntryLanding (s : State) (c : Nat) : State :=
  match s.landing c with
  | some (m, t) =>
    match m.body with
    | .entry q data chan gen =>
      let xs := (s.core c).queues.get q
      if 16 ≤ xs.length then s
      else
        let e : QEntry := ⟨data, m.src.core, m.src.slot, chan, gen, m.src.unit, m.src.launch⟩
        t.updCore c (fun k => { k with queues := k.queues.set q (xs ++ [e]) q.isLt })
    | _ => s
  | none => s

def execQueueEntryLanding (c : Nat) (s : State) : Res := .next (s.queueEntryLanding c)

/-- Credits for a channel: they count unless the channel has been bound again (R181). -/
def creditChan (x : Chan) (n gen : Nat) : Chan := if x.bound && x.gen == gen then { x with free := min 16 (x.free + n) } else x

/-- QUEUE_CREDIT (R248): the credit reaches its unit, is held while the unit's image is on its way, follows the unit's stub,
or is discarded. -/
def State.queueCredit (s : State) (c : Nat) : State :=
  match s.landing c with
  | some (m, t) =>
    match m.body with
    | .credit chan n gen unit launch =>
      let k := s.core c
      match unitSlot k launch unit with
      | some i =>
        if isFrozen (k.slots.get i) || (k.slots.get i).incoming.isSome then t.keep c m
        else t.updSlotAt c i (fun l => { l with chans := l.chans.set chan (creditChan (l.chans.get chan) n gen) chan.isLt })
      | none =>
        if k.parked.any (fun p => p.unit == unit && p.launch == launch) then t.keep c m
        else
          match unitStub k launch unit with
          | some d => (t.housePay c (t.hopsDst c d.1)).post d.1 63 { m.src with slot := (d.2.map (fun i => i.val)).getD 4 } m.body
          | none => t
    | _ => s
  | none => s

def execQueueCredit (c : Nat) (s : State) : Res := .next (s.queueCredit c)

end Sys2Proof.Machine
end

