-- ==== Sys2Proof/Machine/TileRun.lean ====
section
/-!
DEFINITION. The row steps of TLD, TLDL and TST, and a bank's held ACT or PRE (06_memory_messages.md, R165, R166; 08, R239 to
R246).
-/
namespace Sys2Proof.Machine

/-! ### Thermal cells (R437) -/

/-- A cell's reading in units of 0.125 C; a failed sensor reads 125 C. -/
def reading (s : State) (key : Nat) : Int := if s.badSensors.contains key then 1000 else (Tab.get s.temps key 0).toInt

/-- A step performed by a slot's context. -/
def State.asSlot (s : State) (c : Nat) (t : Fin 4) (f : State → State) : State :=
  let u := f { s with curCore := c, curWho := .slot t }
  { u with curCore := s.curCore, curWho := s.curWho }

/-! ### Row steps (R165, R242, R243) -/

/-- How a row step goes on. -/
inductive RowGo where
  | trap (cause sub : BitVec 8) (val : Word)
  | remote
  | wait
  | stall
  /-- The vault key of the step, its coins, and the row to open. -/
  | go (key coins : Nat) (act : Option (Nat × BitVec 8))
deriving DecidableEq, Repr

/-- The vault side's checks 1 to 5, made at the first step and at each page start. -/
def rowPage (s : State) (tl : Tile) (va : Word) : Except Stop PageEntry :=
  match vaultCheck s va with
  | .error e => .error e
  | .ok _ =>
    match homedHere s va with
    | .error e => .error e
    | .ok p =>
      if tl.kind == 2 && copyBusy s.here p then .error .wait
      else if tl.first || va.toNat % 65536 = 0 then
        match permCheck p (if tl.kind == 2 then .write else .read) va with
        | some e => .error e
        | none => .ok p
      else .ok p

/-- The local address of the next row step to request. -/
def nextLine (s : State) (tl : Tile) : Word := s.g (if tl.kind == 2 then tl.a else tl.d) + BitVec.ofNat 64 (64 * tl.data.length)

/-- The local side of a step: the coins it adds, or the trap of its checks; a TST reads there. -/
def rowLocal (s : State) (tl : Tile) : Except (BitVec 8 × BitVec 8 × Word) Nat :=
  let a := nextLine s tl
  if tl.kind == 1 then .ok 4
  else
    match localCheck s a.toNat with
    | some sub => .error (causeLOCALBOUND, sub, a)
    | none =>
      if tl.kind == 2 && (localBad s s.curCore a.toNat 64).isSome then .error (causeUNCORR, 0, a)
      else .ok (if a.toNat < 0x20000 then 4 else 6)

/-- The checks of one row step, in the order of R165. -/
def rowGo (s : State) (tl : Tile) : RowGo :=
  let va := nextRow s.slot tl
  match rowPage s tl va with
  | .error (.trap c sub val) => .trap c sub val
  | .error (.remote _) => .remote
  | .error _ => .wait
  | .ok p =>
    let c := s.curCore
    let off := vaultOff p va
    let z := bankOf off
    let b := s.bank c z
    let heat := reading s (coreCell (off / 2 ^ 21) c)
    if refreshing s c z then .wait
    else if 840 ≤ heat && s.ctx.status.getLsbD 2 then .trap causeVAULTEV 2 va
    else if 840 ≤ heat || (tl.hot && 800 ≤ heat) then .stall
    else if b.awaiting.contains (rowOfOff off) then .trap causeVAULTEV 1 va
    else
      match rowLocal s tl with
      | .error e => .trap e.1 e.2.1 e.2.2
      | .ok w =>
        if b.row == some (rowOfOff off) then .go (vaultKey c off) (40 + w) none
        else if tileHolds s c z (some (rowOfOff off)) || !b.held.isEmpty || pacing s c then .wait
        else .go (vaultKey c off) (290 + w) (some (z, rowOfOff off))

/-- The slot's tile instruction changed. -/
def State.setTile (s : State) (tl : Option Tile) : State := s.updSlot (fun l => { l with tile := tl })

/-- A tile instruction stops at the step that its registers name, with every step requested before it written (R243): on a remote
page it migrates with STATUS.AUTOMIG set (R166).  A debug stop takes the slot before its trap code runs (R456). -/
def State.tileFail (s : State) (tl : Tile) (f : Option (BitVec 8 × BitVec 8 × Word)) : State :=
  match f with
  | some (cause, sub, val) =>
    ((if cause == causeVAULTEV || cause == causeUNCORR then s.note (.log 7 (bytesOf 8 (sub ++ cause).toNat ++ bytesOf 8 val.toNat))
      else s).trap cause sub val).debugBoundary s.curCore s.curSlotNo
  | none =>
    let va := nextRow s.slot tl
    match (if s.ctx.status.getLsbD 1 then autoMigrate (s.setTile none) va else trapped s causeREMOTEREF 0 va) with
    | .next t => if t.waited then s else t.debugBoundary s.curCore s.curSlotNo
    | _ => s

/-- A failed check, which takes effect once no step is in flight. -/
def State.tileStop (s : State) (tl : Tile) (f : Option (BitVec 8 × BitVec 8 × Word)) : State :=
  if tl.data.isEmpty then s.tileFail tl f else s.setTile (some { tl with fail := some f })

/-- Nothing takes the executing slot between two row steps: no departure, no cancel, no debug stop (R166, R243, R331, R456). -/
def rowsGo (s : State) : Bool :=
  let d := s.here.dbgMod
  let t := s.curSlotNo
  s.slot.phase == .run && s.slot.leaving.isNone && !s.stopping s.curCore t && !isStopped s s.curCore t &&
  (!d.halt.getLsbD t.val || d.sstep.getLsbD t.val)

/-- The executing slot's tile instruction may request a step: at most six are in flight, as each is written six cycles after its
request (R242), and a single step is one of them. -/
def mayRequest (s : State) (tl : Tile) : Bool :=
  rowsGo s && tl.data.length < stepsLeft s.slot tl && tl.data.length < 6 &&
  !(s.here.dbgMod.sstep.getLsbD s.curSlotNo.val && !tl.data.isEmpty)

/-- The bytes that a step moves. -/
def rowData (s : State) (tl : Tile) (key : Nat) : Row :=
  BitVec.ofNat 512 (natOfBytes (if tl.kind == 2 then readLocal s s.curCore (nextLine s tl).toNat 64 else s.mem.readBytes key 64))

/-- A TLDL's wait is over: it begins, or it ends at once with no row step left (R165). -/
def State.endWait (s : State) (tl : Tile) : State :=
  if latchTaken s.here || !rowsGo s then s
  else if stepsLeft s.slot tl = 0 then (((s.setTile none).retire s).countRecord s).debugBoundary s.curCore s.curSlotNo
  else s.setTile (some { tl with waits := false })

/-- A watchpoint lies on the vault beat or the till line of the next row step (R455). -/
def rowWatched (s : State) (tl : Tile) : Bool :=
  watched s (nextRow s.slot tl) (if tl.kind == 2 then .write else .read) ||
  (tl.kind != 1 && watched s (nextLine s tl) (if tl.kind == 2 then .read else .write))

/-- The executing slot requests its tile instruction's next row step, or stops where an earlier one's checks have failed; a TLDL first
waits for the commands queued before it. -/
def State.rowStep (s : State) : State :=
  match s.slot.tile with
  | none => s
  | some tl =>
    if tl.waits then s.endWait tl
    else
    match tl.fail with
    | some f => if tl.data.isEmpty && rowsGo s then s.tileFail tl f else s
    | none =>
      if !mayRequest s tl then s
      else
        match rowGo s tl with
        | .trap c sub val => s.tileStop tl (some (c, sub, val))
        | .remote => s.tileStop tl none
        | .wait => s
        | .stall => s.setTile (some { tl with hot := true })
        | .go key coins act =>
          if rowWatched s tl then (if tl.data.isEmpty then s.stopSlot s.curCore s.curSlotNo 5 else s)
          else if !s.canPay coins then s.heatStop s.curCore s.curSlotNo coins
          else
            let p := ((s.charge coins).openRow s.curCore act).updSlot (fun l => { l with watchMet := false })
            let bad := tl.kind != 2 && s.bad.contains key
            (if tl.kind == 2 then p.correctedLocal s.curCore (nextLine s tl).toNat 64 else if bad then p else p.corrected key).setTile (some { tl with
              first := false, hot := false, data := tl.data ++ [⟨nextRow s.slot tl, key, rowData s tl key, coins, bad⟩]
              opened := if act.isSome then act else tl.opened })

/-- TILE_ROW_STEP. -/
def execTileRowStep (c : Nat) (t : Fin 4) (s : State) : Res := .next (s.asSlot c t State.rowStep)

/-- The executing slot's oldest step in flight is written, and the progress registers advance; after the last one the instruction
retires.  At an uncorrectable beat it traps instead, and the coins of the steps requested later return (R243). -/
def State.rowWritten (s : State) : State :=
  match s.slot.tile with
  | none => s
  | some tl =>
    match tl.data with
    | [] => s
    | r :: rest =>
      let c := s.curCore
      let t := s.curSlotNo
      if r.bad then
        let p := (s.foundBad r.key).refund c t (rest.map (fun x => x.coins)).sum
        ((p.note (.log 7 (bytesOf 8 9 ++ bytesOf 8 r.va.toNat))).trap causeUNCORR 0 r.va).debugBoundary c t
      else
        let d := (s.g tl.d).toNat
        let s1 :=
          match tl.kind with
          | 0 => (writeLocal s c d (rowBytes r.row)).sound ((localKey s c d).getD 0)
          | 1 => { s with mem := s.mem.writeBytes (latchKey c d) (rowBytes r.row) }
          | _ => ({ s with mem := s.mem.writeBytes r.key (rowBytes r.row) } : State).sound r.key
        let n := stepsLeft s.slot tl - 1
        let s2 := ((s1.setG tl.d (s.g tl.d + 64)).setG tl.a (s.g tl.a + 64)).setG tl.b (BitVec.ofNat 64 n)
        (if n = 0 then ((s2.setTile none).retire s).countRecord s else s2.setTile (some { tl with data := rest })).debugBoundary c t

/-- TILE_ROW_WRITTEN. -/
def execTileRowWritten (c : Nat) (t : Fin 4) (s : State) : Res := .next (s.asSlot c t State.rowWritten)

/-- BANK_ACT_PERFORM: the hold has ended, and the oldest command held back is performed (R241). -/
def State.bankAct (s : State) (c z : Nat) : State :=
  let b := s.bank c z
  match b.held with
  | [] => s
  | row :: rest =>
    if tileHolds s c z row || refreshing s c z then s
    else
      match row with
      | some r => (s.setBank c z { b with held := rest }).openRow c (some (z, r))
      | none => s.setBank c z { b with held := rest, row := none }

def execBankActPerform (c : Nat) (z : Fin 32) (s : State) : Res := .next (s.bankAct c z.val)

end Sys2Proof.Machine
end

