-- ==== Sys2Proof/Machine/MtxRun.lean ====
section
/-!
DEFINITION. The MTX as it performs queued commands (07_matrix_spans_work.md, R203 to R209, R488; 02_numbers.md, R66 to R71; 10,
R294, R295, R299).
-/
namespace Sys2Proof.Machine

/-! ### Elements (R58, R60, R65, R70) -/

/-- Bits of an element of a format code. -/
def elemBits (fmt : BitVec 8) (desc : BitVec 32) : Nat := storageBits fmt desc

/-- Elements of a 64-byte row. -/
def elemCount (fmt : BitVec 8) (desc : BitVec 32) : Nat := 512 / elemBits fmt desc

/-- Element k of a row, as its bit pattern. -/
def elemCode (fmt : BitVec 8) (desc : BitVec 32) (row : Nat) (k : Nat) : Nat :=
  if fmt == 2 then (NarrowFmt.ofBits desc).elem row k else (row >>> (elemBits fmt desc * k)) % 2 ^ elemBits fmt desc

/-- The exact value of an element's code. -/
def elemVal (fmt : BitVec 8) (desc : BitVec 32) (code : Nat) : FVal :=
  match fmt.toNat with
  | 0 => intVal (signedOf 8 code)
  | 1 => intVal code
  | 2 => narrowVal (NarrowFmt.ofBits desc) code
  | 3 => unpack .bf16 code
  | 4 => unpack .fp16 code
  | _ => unpack .fp32 code

/-- The integer of an element of an integer format. -/
def elemInt (fmt : BitVec 8) (desc : BitVec 32) (code : Nat) : Int :=
  match elemVal fmt desc code with
  | .fin n m e => signedMag n (m <<< e.toNat >>> (-e).toNat)
  | _ => 0

/-- An operand row, none on a line that cannot be read (R204). -/
abbrev OpRow := Option Nat

/-- The values of a row: canonical NaN, or zero of an integer format, on a line that cannot be read. -/
def rowVals (fmt : BitVec 8) (desc : BitVec 32) (r : OpRow) : List FVal :=
  (List.range (elemCount fmt desc)).map (fun k =>
    match r with
    | some x => elemVal fmt desc (elemCode fmt desc x k)
    | none => if mtxInt fmt desc then .fin false 0 0 else .nan false)

/-- The integers of a row of an integer format. -/
def rowInts (fmt : BitVec 8) (desc : BitVec 32) (r : OpRow) : List Int :=
  (List.range (elemCount fmt desc)).map (fun k =>
    match r with
    | some x => elemInt fmt desc (elemCode fmt desc x k)
    | none => 0)

/-- The operation of a code of Table 7.5. -/
def recOpOf (x : BitVec 8) : RecOp :=
  match x.toNat with
  | 0 => .add
  | 1 => .mul
  | 2 => .min
  | 3 => .max
  | 4 => .and
  | 5 => .or
  | 6 => .xor
  | 7 => .sadd
  | _ => .smul

/-- A value in the domain of a microprogram (R70). -/
def toDomain (int : Bool) (v : FVal) : Nat :=
  if int then intBits 32 (valToInt 32 true .rne v).1 else (packFixed .fp32 .rne v).bits

/-! ### One K-step (R66 to R70) -/

/-- What a K-step does to one accumulator word. -/
structure KOps where
  cfg : MCfg
  prog : MProg
  recur : Bool
  /-- Block scale codes of the rows and columns, when the K-step is scaled. -/
  scales : Option (List Nat × List Nat)
deriving DecidableEq, Repr

/-- Element (i, j) of the accumulator after a K-step. -/
def KOps.elem (o : KOps) (i j : Nat) (a b : OpRow) (x : Nat) : Nat :=
  let c := o.cfg
  if o.recur then
    let int := o.prog.domain == 1
    let op := fun (k : BitVec 8) (x y : Nat) => if int then recInt (recOpOf k) x y else recFp (recOpOf k) x y
    let ps := ((rowVals c.afmt c.adesc a).zip (rowVals c.bfmt c.bdesc b)).map (fun p =>
      op o.prog.combine (toDomain int p.1) (toDomain int p.2))
    match ps with
    | [] => x
    | p :: rest => op o.prog.accum x (rest.foldl (op o.prog.reduce) p)
  else if mtxInt c.afmt c.adesc then macStepInt ((rowInts c.afmt c.adesc a).zip (rowInts c.bfmt c.bdesc b)) x
  else
    let sc := match o.scales with
      | some s => (s.1.getD i 127, s.2.getD j 127)
      | none => (127, 127)
    macStep ((rowVals c.afmt c.adesc a).zip (rowVals c.bfmt c.bdesc b)) (sc.1 == 255 || sc.2 == 255)
      ((sc.1 : Int) - 127 + ((sc.2 : Int) - 127)) x

/-- The whole accumulator after a K-step. -/
def KOps.step (o : KOps) (a b : List OpRow) (acc : Vector (BitVec 32) 64) : Vector (BitVec 32) 64 :=
  Vector.ofFn (fun n => BitVec.ofNat 32 (o.elem (n.val / 8) (n.val % 8) (a.getD (n.val / 8) none) (b.getD (n.val % 8) none)
    (acc.get n).toNat))

/-! ### Till lines (R204, R299) -/

/-- A 64-byte line at a local address: its number, none when it is uncorrectable or its window is gone. -/
def mtxLine (s : State) (c : Nat) (a : Word) : OpRow :=
  match localKey s c a.toNat with
  | none => none
  | some k => if s.bad.contains (k / 64 * 64) then none else some (natOfBytes (s.mem.readBytes k 64))

/-- The addresses of eight rows or columns at step t. -/
def eightLines (base : Word) (stride t : Nat) : List Word := (List.range 8).map (fun i => base + BitVec.ofNat 64 (i * stride + 64 * t))

/-- The lowest of the lines that cannot be read, as a fault record (R204). -/
def lineFault (s : State) (c : Nat) (as : List Word) : Option FaultInfo :=
  (as.filter (fun a => (mtxLine s c a).isNone)).foldl (fun f a => State.lowerFault f (some ⟨causeUNCORR, 0, a &&& ~~~63⟩)) none

/-- What reading some lines finds: an uncorrectable one is reported (R428), and a correctable one counts (R426). -/
def State.foundLines (s : State) (c : Nat) (as : List Word) : State :=
  as.foldl (fun t a =>
    match localKey s c a.toNat with
    | some k => if s.bad.contains (k / 64 * 64) then t.foundBad (k / 64 * 64) else t.corrected k
    | none => t) s

/-- The lines that hold the eight scale bytes of step t. -/
def scaleLines (a : Word) (t : Nat) : List Word :=
  let lo := a + BitVec.ofNat 64 (8 * t)
  if lo.toNat % 64 ≤ 56 then [lo &&& ~~~63] else [lo &&& ~~~63, (lo + 7) &&& ~~~63]

/-- Eight scale bytes at step t; one of a line that cannot be read is the NaN code, so that every element of its row or column is
the canonical NaN (R204). -/
def scaleBytes (s : State) (c : Nat) (a : Word) (t : Nat) : List Nat :=
  (List.range 8).map (fun i =>
    let x := a + BitVec.ofNat 64 (8 * t + i)
    match mtxLine s c (x &&& ~~~63) with
    | none => 255
    | some r => r / 2 ^ (8 * (x.toNat % 64)) % 256)

/-! ### Rounds (R294, R295) -/

/-- The coins of a K-step (Table 7.1). -/
def kCoins (c : MCfg) (rec : Bool) : Nat :=
  if rec then 140
  else
    match storageBits c.afmt c.adesc with
    | 4 => 160
    | 8 => 120
    | 16 => 110
    | _ => 140

/-- The 64-byte lines that an MST writes. -/
def mstLines (c : MCfg) (a : Word) : List Nat :=
  (List.range 8).foldl (fun l i =>
    let lo := a.toNat + i * c.ostride.toNat
    insertNat ((lo + outRow c - 1) / 64) (insertNat (lo / 64) l)) []

/-- The owner of a core's head command and the coins that it charges, when its rows and its credits are there and no TLDL goes before
it (R252). -/
def mtxCoins (s : State) (c : Nat) : Option (Fin 4 × Nat) :=
  let k := s.core c
  match k.owner, k.mtxQ with
  | some t, cmd :: _ =>
    if latchBusy k then none
    else (match cmd with
      | .mma _ _ _ _ _ n src q pass _ rec _ _ =>
        if n = 0 then some 0
        else
          let ch := (k.slots.get t).chans.get q
          let h := s.hopsFrom c (ch.mod ++ ch.core)
          if src == 1 && (k.queues.get q).length < 8 then none
          else if pass && ch.free < 8 then none
          else some (kCoins k.cfg rec + (if pass then 8 * h else 0))
      | .mst _ a _ => some (4 * (mstLines k.cfg a).length)
      | .mldc _ _ => some 64
      | _ => some 0).map (fun n => (t, n))
  | _, _ => none

/-- The head command of a core is ready, with the coins it charges. -/
def mtxReady (s : State) (c : Nat) : Option Nat :=
  (mtxCoins s c).bind (fun x => if x.2 = 0 || s.slotCanPay c x.1 x.2 then some x.2 else none)

/-- A head command without a grant, which the heat meter may be holding (R393). -/
def State.mtxHeld (s : State) (c : Nat) : State :=
  match mtxCoins s c with
  | some (t, n) => if n = 0 then s else s.heatStop c t n
  | none => s

/-- The position that an octet's round grants next: the visited one while its weight lasts, else the next that is ready. -/
def nextGrant (s : State) (o : Nat) : Option Nat :=
  let r := Tab.get s.octets o (0, 0)
  let ready := fun (p : Nat) => (mtxReady s (octetCore o p)).isSome
  if ready r.1 && r.2 < (s.core (octetCore o r.1)).cfg.weight.toNat then some r.1
  else ((List.range 8).map (fun i => (r.1 + 1 + i) % 8)).find? ready

/-- The round after a grant to a position. -/
def State.granted (s : State) (o p : Nat) : State :=
  let r := Tab.get s.octets o (0, 0)
  { s with octets := Tab.put s.octets o (p, if r.1 = p && r.2 < (s.core (octetCore o p)).cfg.weight.toNat then r.2 + 1 else 1) }

/-- A visited position whose next grant is not ready yields at once: its next grant begins a visit of its own (R294). -/
def State.yields (s : State) : State :=
  { s with octets := s.octets.map (fun x =>
    if (mtxReady s (octetCore x.1 x.2.1)).isSome then x else (x.1, x.2.1, 256)) }

/-- The grant of a core's head command: its owner, the command, and the state with the grant taken and its coins drawn. -/
def State.grant (s : State) (c : Nat) : Option (Fin 4 × MtxCmd × State) :=
  let k := s.core c
  match k.owner, k.mtxQ, mtxReady s c with
  | some t, cmd :: _, some n =>
    if nextGrant s (octetOf c) == some (octetPos c) && mtxWorks s c then
      some (t, cmd, (if n = 0 then s else s.chargeSlot c t n).granted (octetOf c) (octetPos c))
    else none
  | _, _, _ => none

/-- The head command is done. -/
def State.mtxNext (s : State) (c : Nat) : State := s.updCore c (fun k => { k with mtxQ := k.mtxQ.drop 1 })

/-- A fault seen by an operation that goes on. -/
def State.opFault (s : State) (c op : Nat) (f : Option FaultInfo) : State :=
  match f with
  | none => s
  | some _ => s.updCore c (fun k => { k with ops := k.ops.map (fun o =>
      if o.id == op then { o with fault := State.lowerFault o.fault f } else o) })

/-! ### K-steps -/

/-- Rows passed on over a channel, each for one credit. -/
def State.passRows (s : State) (c : Nat) (t : Fin 4) (o : Fin 8) (rows : List Row) : State :=
  rows.foldl (fun u x =>
    let ch := (u.slotAt c t).chans.get o
    (u.updSlotAt c t (fun l => { l with chans := l.chans.set o { ch with free := ch.free - 1 } o.isLt })).post
      (u.placeOf (ch.mod ++ ch.core)) 63 (u.reqOf c t 0) (.entry ch.queue.toFin x o ch.gen)) s

/-- One K-step of a core's head MMA, with its grant taken; B rows from a queue are popped (R203, R248). -/
def State.kStep (s : State) (c : Nat) (t : Fin 4) (acc : Fin 4) (a b sa sb : Word) (n : Nat) (src : BitVec 2) (q : Fin 8)
    (pass scaled rec : Bool) (i op : Nat) : State :=
  let k := s.core c
  let la := eightLines a k.cfg.astride.toNat i
  let lb := if src == 0 then eightLines b k.cfg.bstride.toNat i else []
  let popped := if src == 1 then (((k.queues.get q).take 8).map (fun e => e.data), s.popMany c q 8) else ([], s)
  let rowsB : List OpRow :=
    if src == 0 then lb.map (mtxLine s c)
    else if src == 1 then popped.1.map (fun r => some r.toNat)
    else (List.range 8).map (fun j => some (natOfBytes (s.mem.readBytes (latchKey c (b.toNat + j * k.cfg.bstride.toNat + 64 * i)) 64)))
  let o : KOps := ⟨k.cfg, k.prog, rec, if scaled then some (scaleBytes s c sa i, scaleBytes s c sb i) else none⟩
  let l := s.slotAt c t
  let logs := popped.1.map (fun r => (⟨c, t, l.ctx.pc, l.instret, .log 3 (rowBytes r)⟩ : Note))
  let s0 : State := { popped.2 with notes := popped.2.notes ++ logs }
  let s1 := if pass then s0.passRows c t q (rowsB.map (fun r => BitVec.ofNat 512 (r.getD 0))) else s0
  let s2 := s1.updCore c (fun k => { k with
    acc := k.acc.set acc (o.step (la.map (mtxLine s c)) rowsB (k.acc.get acc)) acc.isLt })
  let lines := la ++ lb ++ (if scaled then scaleLines sa i ++ scaleLines sb i else [])
  let s3 := (s2.foundLines c lines).opFault c op (lineFault s c lines)
  if n ≤ i + 1 then (s3.mtxNext c).pieceDone c op none
  else s3.updCore c (fun k => { k with mtxQ := .mma acc a b sa sb n src q pass scaled rec (i + 1) op :: k.mtxQ.drop 1 })

/-- MTX_K_STEP: an MMA of no K-steps completes as the MTX reaches it. -/
def State.mtxKStep (s : State) (c : Nat) : State :=
  match (s.core c).mtxQ with
  | .mma acc a b sa sb n src q pass scaled rec i op :: _ =>
    if n = 0 then (if latchBusy (s.core c) then s else (s.mtxNext c).pieceDone c op none)
    else
      match s.grant c with
      | some (t, _, u) => u.kStep c t acc a b sa sb n src q pass scaled rec i op
      | none => s.mtxHeld c
  | _ => s

def execMtxKStep (c : Nat) (s : State) : Res := .next (s.mtxKStep c)

/-! ### The other commands -/

/-- MTX_MZERO_PERFORM (R207). -/
def execMtxMzeroPerform (c : Nat) (s : State) : Res :=
  .next (match s.grant c with
    | some (_, .mzero acc, u) =>
      (u.updCore c (fun k => { k with acc := k.acc.set acc (Vector.replicate 64 k.prog.ident) acc.isLt })).mtxNext c
    | _ => s)

/-- An element as MST writes it (R69, R488).  The product of an int32 accumulator of 0 and a negative tensor scale is written as -0 in a
floating format, though an integer zero has no sign of its own (DESIGN CHOICE, log entry 71). -/
def mstElem (c : MCfg) (x : BitVec 32) : Nat :=
  let ts := unpack .fp32 c.tscale.toNat
  let v := if mtxInt c.afmt c.adesc then intVal x.toInt else unpack .fp32 x.toNat
  let p := if ts.isNan then .nan false else mulVal v ts
  match c.ofmt.toNat with
  | 0 => intBits 8 (valToInt 8 true .rne p).1
  | 1 => intBits 8 (valToInt 8 false .rne p).1
  | 2 => (roundNarrow (NarrowFmt.ofBits c.odesc) .rne p).bits
  | 3 => (packFixed .bf16 .rne p).bits
  | 4 => (packFixed .fp16 .rne p).bits
  | 5 => (packFixed .fp32 .rne p).bits
  | _ => intBits 32 (valToInt 32 true .rne p).1

/-- Row i of an accumulator as the bytes of an MST. -/
def mstRow (c : MCfg) (acc : Vector (BitVec 32) 64) (i : Nat) : List Byte :=
  let rb := outRow c
  let x := (List.range 8).foldl (fun n j => n + mstElem c (acc.toList.getD (8 * i + j) 0) * 2 ^ (rb * j)) 0
  bytesOf rb x

/-- The rows of an MST cover every byte of a line between them. -/
def mstCovers (c : MCfg) (a : Word) (line : Nat) : Bool :=
  (List.range 64).all (fun j => (List.range 8).any (fun i =>
    let lo := a.toNat + i * c.ostride.toNat
    lo ≤ 64 * line + j && 64 * line + j < lo + outRow c))

/-- The uncorrectable lines that an MST writes in part only, and those that it writes whole (R428; log entry 71). -/
def mstBad (s : State) (c : Nat) (a : Word) : List Nat × List Nat :=
  if s.bad.isEmpty then ([], [])
  else
    let cfg := (s.core c).cfg
    let bad := (mstLines cfg a).filter (fun l => (localKey s c (64 * l)).any (fun k => s.bad.contains k))
    (bad.filter (fun l => !mstCovers cfg a l), bad.filter (mstCovers cfg a))

/-- MTX_MST_PERFORM (R208): a row in a withdrawn window is not written (R299), nor one that meets an uncorrectable line which the eight
rows do not write whole (R428). -/
def State.mtxMst (s : State) (c : Nat) (acc : Fin 4) (a : Word) (op : Nat) : State :=
  let k := s.core c
  let x := k.acc.get acc
  let (part, whole) := mstBad s c a
  let step := fun (t : State) (i : Nat) =>
    let d := a + BitVec.ofNat 64 (i * k.cfg.ostride.toNat)
    match localKey s c d.toNat, part.find? (fun l => d.toNat < 64 * l + 64 && 64 * l < d.toNat + outRow k.cfg) with
    | none, _ => t.opFault c op (some ⟨causeUNCORR, 0, d &&& ~~~63⟩)
    | some _, some l => t.opFault c op (some ⟨causeUNCORR, 0, BitVec.ofNat 64 (64 * l)⟩)
    | some _, none => writeLocal t c d.toNat (mstRow k.cfg x i)
  let at_ := fun (ls : List Nat) => ls.filterMap (fun l => localKey s c (64 * l))
  let s1 := (at_ whole).foldl State.sound ((List.range 8).foldl step s)
  ((((at_ part).foldl State.foundBad s1).mtxNext c).pieceDone c op none)

def execMtxMstPerform (c : Nat) (s : State) : Res :=
  .next (match s.grant c with
    | some (_, .mst acc a op, u) => u.mtxMst c acc a op
    | some _ => s
    | none => s.mtxHeld c)

/-- MTX_MLDC_PERFORM (R209): an uncorrectable line loads zero. -/
def State.mtxMldc (s : State) (c : Nat) (a : Word) (op : Nat) : State :=
  let lines := (List.range 16).map (fun i => a + BitVec.ofNat 64 (64 * i))
  let words := lines.flatMap (fun l =>
    let x := (mtxLine s c l).getD 0
    (List.range 16).map (fun j => BitVec.ofNat 32 (x >>> (32 * j))))
  let acc : Vector (Vector (BitVec 32) 64) 4 := Vector.ofFn (fun n => Vector.ofFn (fun j => words.getD (64 * n.val + j.val) 0))
  (((s.updCore c (fun k => { k with acc := acc })).foundLines c lines).mtxNext c).pieceDone c op (lineFault s c lines)

def execMtxMldcPerform (c : Nat) (s : State) : Res :=
  .next (match s.grant c with
    | some (_, .mldc a op, u) => u.mtxMldc c a op
    | some _ => s
    | none => s.mtxHeld c)

/-- MTX_MCFG_PERFORM (R197): the configuration of every command queued after it. -/
def execMtxMcfgPerform (c : Nat) (s : State) : Res :=
  .next (match s.grant c with
    | some (_, .mcfg x, u) => (u.updCore c (fun k => { k with cfg := x })).mtxNext c
    | _ => s)

/-- MTX_MPROG_PERFORM (R199). -/
def execMtxMprogPerform (c : Nat) (s : State) : Res :=
  .next (match s.grant c with
    | some (_, .mprog x, u) => (u.updCore c (fun k => { k with prog := x })).mtxNext c
    | _ => s)

end Sys2Proof.Machine
end

