-- ==== Sys2Proof/Machine/Loop.lean ====
section
/-!
DEFINITION. RPT and the LOOP major (04_scalar_control.md, R110 to R118; 03_encoding.md, R83).
-/
namespace Sys2Proof.Machine

/-- A word of a core's program store.  Where nothing has been written at 0x6000 and above, the system code stands that step 4 of
the boot wrote there, whose words the specification does not list (R443; log entry 31). -/
def State.storeWord (s : State) (c : Nat) (p : BitVec 15) : InstrWord :=
  let w := BitVec.ofNat 32 (s.mem.readNat (storeKey c p.toNat) 4)
  if 0x6000 ≤ p.toNat && w = 0 then Config.systemCode p.toNat else w

/-- The region of Table 3.5 that holds an address. -/
def regionOf (p : Nat) : Nat := if p < 0x5000 then 0 else if p < 0x6000 then 1 else 2

/-- A word that decodes (R85). -/
def wordOk (w : InstrWord) : Bool := match decodeWord w with | .ok _ => true | .error _ => false

/-- What R83 asks of a frame word. -/
def frameWordOk (w : InstrWord) : Bool :=
  let major := w.toNat / 2 ^ 26
  wordOk w && (1 ≤ major && major ≤ 0x0B || 0x16 ≤ major && major ≤ 0x1C) &&
  (major < 0x16 || w.extractLsb' 6 2 == 0)

/-- The address of frame word j. -/
def framePc (p : BitVec 15) (j : Nat) : BitVec 15 := p + 4 + BitVec.ofNat 15 (4 * j)

/-- ILLOP for a failing frame word: its address in [46:32] and the word in [31:0] (R83). -/
def frameTrap (s : State) (p : BitVec 15) (w : InstrWord) : Res :=
  trapped s causeILLOP 0 (BitVec.ofNat 64 (p.toNat * 2 ^ 32 + w.toNat))

/-- The whole frame lies in the region that holds the RPT (R83). -/
def frameFits (p : BitVec 15) (n : Nat) : Bool := regionOf p.toNat == regionOf (p.toNat + 4 * n) && p.toNat + 4 * n < 0x8000

/-- RPT at issue: the progress value, then every frame word in ascending order; two coins (R83, R111). -/
def execRpt (c : BitVec 5) (n : BitVec 4) (d a b : BitVec 2) (s : State) : Res :=
  let words := n.toNat + 1
  let x := s.g c
  if s.isTeller || !frameFits s.pc words then illegal s (.rpt c n d a b)
  else if words ≤ (x.extractLsb' 40 4).toNat then trapped s causeILLOP 1 x
  else if (List.range words).any (fun j => s.bad.contains (storeKey s.curCore ((framePc s.pc j).toNat / 64 * 64))) then notReady s
  else
    match (List.range words).find? (fun j => !frameWordOk (s.storeWord s.curCore (framePc s.pc j))) with
    | some j => frameTrap s (framePc s.pc j) (s.storeWord s.curCore (framePc s.pc j))
    | none =>
      paying s 2 (fun p =>
        if x.extractLsb' 0 32 = 0 then .next (p.retireTo (framePc s.pc words))
        else .next (p.updSlot (fun l => { l with rpt := some ⟨c, n, d, a, b⟩, resumed := false, watchMet := false })))

/-! ### Nests -/

/-- A nest descriptor's bytes as nest state (Table 4.14). -/
def nestOf (bs : List Byte) : Nest :=
  let f := fun o n => natOfBytes ((bs.drop o).take n)
  { Nest.none with
    ctr := BitVec.ofNat 64 (f 0 8)
    e := #v[BitVec.ofNat 32 (f 8 4), BitVec.ofNat 32 (f 12 4), BitVec.ofNat 32 (f 16 4), BitVec.ofNat 32 (f 20 4)]
    b := #v[BitVec.ofNat 32 (f 24 4), BitVec.ofNat 32 (f 28 4), BitVec.ofNat 32 (f 32 4), BitVec.ofNat 32 (f 36 4)]
    p := BitVec.ofNat 24 (f 0x28 3)
    cmin := BitVec.ofNat 24 (f 0x2C 3)
    f := BitVec.ofNat 8 (f 0x30 1)
    valid := true }

/-- N = e0 x e1 x e2 x e3. -/
def Nest.count (n : Nest) : Nat := n.e.toList.foldl (fun a x => a * x.toNat) 1

/-- R114: a valid descriptor. -/
def nestValid (bs : List Byte) : Bool :=
  let n := nestOf bs
  n.e.toList.all (fun x => x != 0) && n.count < 2 ^ 48 && n.p != 0 && n.cmin != 0 && 1 ≤ n.f.toNat && n.f.toNat ≤ 16 &&
  bs.getD 0x2B 0 == 0 && bs.getD 0x2F 0 == 0 && (bs.drop 0x31).all (fun x => x == 0)

/-- Coins of a claim: one flit-hop each way (R116, Table 15.1). -/
def claimCoins (s : State) (n : Nest) : Nat := 2 * routeHops s (routeOf s n.ctr)

/-- Starts a claim (R116): a message to the counter's home. -/
def State.startClaim (s : State) : State :=
  let n := s.slot.nest
  (s.updSlot (fun l => { l with nest := { l.nest with pending := true } })).post (routeOf s n.ctr) 2
    (s.me 0) (.claim n.ctr n.count n.p.toNat n.f.toNat n.cmin.toNat)

/-- How a LOOP instruction ends on a stop: one that traps has issued for two coins (R113). -/
def stoppedPaid (s : State) : Stop → Res
  | .wait => stopped s .wait
  | .watch => stopped s .watch
  | e => paying s 2 (fun p => stopped p e)

/-- NEST and NESTQ (R115). -/
def loadNest (s : State) (a : BitVec 5) (q : Option (BitVec 3)) (i : Instr) : Res :=
  let va := s.g a
  if s.isTeller then illegal s i
  else if s.slot.nest.pending then notReady s
  else
    match localRange s va 8 false with
    | some e => stoppedPaid s e
    | none =>
      if va.toNat % 64 ≠ 0 then paying s 2 (fun p => trapped p causeMISALIGN 0 va)
      else
        match localRange s va 64 true with
        | some e => stoppedPaid s e
        | none =>
          let bs := readLocal s s.curCore va.toNat 64
          let n := nestOf bs
          if !nestValid bs then trapped s causeILLOP 2 va
          else if q.isNone && n.ctr.toNat % 8 ≠ 0 then paying s 2 (fun p => trapped p causeMISALIGN 0 n.ctr)
          else if q.isNone && pmapPending s n.ctr then notReady s
          else
            paying s (if q.isNone then 2 + claimCoins s n else 2) (fun p =>
              let p := p.correctedLocal s.curCore va.toNat 64
              match q with
              | none => .next (((p.updSlot (fun l => { l with nest := n })).startClaim).retire s)
              | some k => .next ((p.updSlot (fun l => { l with nest := { n with queueMode := true, queue := k } })).retire s))

def execNest (a : BitVec 5) (s : State) : Res := loadNest s a none (.nest a)
def execNestq (a b : BitVec 5) (s : State) : Res := loadNest s a (some ((s.g b).extractLsb' 0 3)) (.nestq a b)

/-- The index registers of linear index L (R117). -/
def nestIndex (n : Nest) (l : Nat) : Vector (BitVec 32) 4 :=
  let d1 := n.e[0].toNat
  let d2 := d1 * n.e[1].toNat
  let d3 := d2 * n.e[2].toNat
  #v[n.b[0] + BitVec.ofNat 32 (l % n.e[0].toNat), n.b[1] + BitVec.ofNat 32 (l / d1 % n.e[1].toNat),
     n.b[2] + BitVec.ofNat 32 (l / d2 % n.e[2].toNat), n.b[3] + BitVec.ofNat 32 (l / d3 % n.e[3].toNat)]

/-- The end of NEXT once the chunk is settled: one iteration, or exhausted (R117). -/
def deliverNext (s p : State) (a : BitVec 5) : State :=
  let n := p.slot.nest
  let p := if n.fresh then
      (p.logged 4 (bytesOf 8 n.first.toNat ++ bytesOf 8 (n.last - n.first).toNat)).updSlot
        (fun x => { x with nest := { x.nest with fresh := false } })
    else p
  if n.exhausted then (p.setG a 0).retire s
  else
    let l := n.first
    let p1 := (p.updSlot (fun x => { x with nest := { x.nest with first := l + 1 } })).updCtx
      (fun r => { r with k := nestIndex n l.toNat })
    let p2 := p1.setG a 1
    let p3 := if l + 1 == n.last && !n.queueMode then p2.startClaim else p2
    p3.retire s

/-- The iteration that NEXT delivers is the last of its chunk, so that it starts the next claim. -/
def nextClaims (n : Nest) : Bool := !n.exhausted && n.first + 1 == n.last && !n.queueMode

/-- Coins of that claim. -/
def nextCoins (s : State) (n : Nest) : Nat := if nextClaims n then claimCoins s n else 0

/-- The chunk that a queue entry gives (R117): its start and size, cut at N; a size of 0 exhausts the nest. -/
def queueChunk (n : Nest) (e : Row) : Nest :=
  let st := (e.extractLsb' 0 64).toNat
  let z := (e.extractLsb' 64 64).toNat
  if z = 0 || n.count ≤ st then { n with exhausted := true, fresh := true }
  else { n with fresh := true, first := BitVec.ofNat 48 st, last := BitVec.ofNat 48 (min (st + z) n.count) }

/-- NEXT (R117). -/
def execNext (a : BitVec 5) (s : State) : Res :=
  let n := s.slot.nest
  if s.isTeller then illegal s (.next a)
  else if !n.valid then trapped s causeILLOP 3 0
  else if n.first == n.last && !n.exhausted then
    if n.queueMode then
      let q : Fin 8 := n.queue.toFin
      match s.qHead q with
      | none => notReady s
      | some e =>
        paying s 2 (fun p => .next (deliverNext s ((p.popAt p.curCore q).updSlot (fun l => { l with nest := queueChunk n e.data })) a))
    else
      match n.fault with
      | some f =>
        paying s 2 (fun p => trapped (p.updSlot (fun l => { l with nest := { l.nest with fault := none } })) f.1 f.2 n.ctr)
      | none =>
        if n.pending || pmapPending s n.ctr then notReady s
        else paying s (claimCoins s n) (fun p => .next p.startClaim)
  else if nextClaims n && pmapPending s n.ctr then notReady s
  else paying s (2 + nextCoins s n) (fun p => .next (deliverNext s p a))

end Sys2Proof.Machine
end

