-- ==== Sys2Proof/Machine/Sys.lean ====
section
/-!
DEFINITION. The SYS major (04_scalar_control.md, R119 to R127) and the control registers (01_instant_state.md, R33 to R35,
Tables 1.2 to 1.4).
-/
namespace Sys2Proof.Machine

/-! ### Control registers -/

/-- The bits of a register of Table 1.2 that are not Z, by index; Table 2.5 gives FD0-FD7 the Z bits [31:20]. -/
def crBits (i : Nat) : Option Nat :=
  match i with
  | 0x000 => some 0x7
  | 0x001 => some 0x3FFFFFF
  | 0x002 => some 0x3FFFF
  | 0x003 => some 0x7FFFF
  | 0x004 => some 0xFF
  | 0x005 => some 0xFFFF
  | 0x010 => some 0xFFFFFF
  | 0x011 => some 0xFFFFFFFF
  | 0x012 => some 0xFFFFFF
  | 0x013 => some 0x7FF0001FFC0
  | 0x014 => some 0x3
  | 0x015 => some 0x3FFFFFF
  | 0x020 => some 0x1F
  | 0x021 => some 0x1F07
  | 0x022 => some 0xFFFF
  | 0x023 => some 0x7FFF
  | 0x024 => some 0xFFFFFFFFFFFFFFFF
  | 0x025 => some 0x7FFF
  | 0x030 => some 0x1FFFFF
  | 0x031 => some 0xFFFFFFFFFFFFFFFF
  | 0x040 => some 0xFFFFFFFFFFFFFFFF
  | 0x041 => some 0xFFFFFFFFFFFFFFFF
  | 0x050 => some 0xFF
  | 0x051 => some 0xFF
  | 0x060 => some 0xF
  | _ => if 0x070 ≤ i && i ≤ 0x073 then some 0xFFFFFFFF else if 0x078 ≤ i && i ≤ 0x07F then some 0xFFFFF else none

/-- Registers with an SRW field (R124). -/
def crPriv (i : Nat) : Bool := i == 0x020 || (0x022 ≤ i && i ≤ 0x025)

/-- Per-slot registers that read zero in the teller and ignore writes there (R125). -/
def crSlotOnly (i : Nat) : Bool :=
  (0x010 ≤ i && i ≤ 0x015) || (0x022 ≤ i && i ≤ 0x025) || i == 0x031 || i == 0x041 || i == 0x060

/-- K0-K3 and FD0-FD7, which the teller does not have (R21, R125). -/
def crFile (i : Nat) : Bool := 0x070 ≤ i && i ≤ 0x07F

/-- The value of a control register of the executing context (Table 1.2). -/
def crValue (s : State) (i : Nat) : Nat :=
  let c := s.curCore
  let l := s.slot
  if s.isTeller && crSlotOnly i then 0
  else
    match i with
    | 0x000 => if s.isTeller then 4 else s.curSlotNo.val
    | 0x001 => (s.coreId c).toNat
    | 0x002 => coreY c * 512 + coreX c
    | 0x003 => (if s.mtxBad.contains (octetOf c) then 0 else 2 ^ 18) + octetOf c * 8 + octetPos c
    | 0x004 => coreY c / 32 * 16 + coreX c / 32
    | 0x005 => s.joined.toNat * 256 + s.modNo.toNat
    | 0x010 => l.unitid.toNat
    | 0x011 => l.launchid.toNat
    | 0x012 => l.jobid.toNat
    | 0x013 => l.leaseSize.toNat * 2 ^ 32 + l.leaseBase.toNat * 64
    | 0x014 => l.heatcls.toNat
    | 0x015 => l.origin.toNat
    | 0x020 => if s.isTeller then s.ctx.status.toNat / 2 * 2 + 1 else s.ctx.status.toNat
    | 0x021 => s.ctx.fpmode.toNat
    | 0x022 => l.trapcause.toNat
    | 0x023 => l.trappc.toNat
    | 0x024 => l.trapval.toNat
    | 0x025 => l.trapvec.toNat
    | 0x030 => s.purse c
    | 0x031 => l.coinspent.toNat
    | 0x040 => s.cycle.toNat
    | 0x041 => l.instret.toNat
    | 0x050 => 1
    | 0x051 => 1
    | 0x060 => (winMask s.here).toNat
    | _ =>
      if 0x070 ≤ i && i ≤ 0x073 then (s.ctx.k.get ⟨i % 4, Nat.mod_lt _ (by decide)⟩).toNat
      else (s.ctx.fd.get ⟨i % 8, Nat.mod_lt _ (by decide)⟩).toNat

/-- Registers whose read a recording logs (Table 20.7, kind 5): COREID, COREXY, OCTET, PLATE, CYCLE, PURSE, COINSPENT and
LWINMASK. -/
def crLogged (i : Nat) : Bool := (1 ≤ i && i ≤ 4) || i == 0x030 || i == 0x031 || i == 0x040 || i == 0x060

/-- CRR (R124, R125). -/
def execCrr (d : BitVec 5) (i : BitVec 10) (s : State) : Res :=
  let n := i.toNat
  if (crBits n).isNone || (s.isTeller && crFile n) then illegal s (.crr d i)
  else if s.unitMode && crPriv n then paying s 2 (fun p => trapped p causePRIV 0 0)
  else
    let x := BitVec.ofNat 64 (crValue s n)
    finish s 2 (fun p => (if crLogged n then p.logged 5 (bytesOf 8 x.toNat) else p).setG d x)

/-- A value that a CRW refuses (R13, R35, R124, the TRAPVEC row of Table 1.2). -/
def crRefused (i x : Nat) : Bool :=
  match crBits i with
  | none => true
  | some m =>
    x &&& m != x || (i == 0x021 && 4 < x % 8) || (i == 0x025 && (x < 0x6000 || x % 4 != 0))

/-- The writable fields of a register take a value; RO fields stay (R124). -/
def State.crWrite (s : State) (i : Nat) (x : Word) : State :=
  match i with
  | 0x020 =>
    s.updCtx (fun r => { r with status := (x.extractLsb' 0 5 &&& 0b11110#5) ||| (r.status &&& 1#5) })
  | 0x021 => s.updCtx (fun r => { r with fpmode := x.extractLsb' 0 13 })
  | 0x022 => s.updSlot (fun l => { l with trapcause := x.extractLsb' 0 16 })
  | 0x023 => s.updSlot (fun l => { l with trappc := x.extractLsb' 0 15 })
  | 0x024 => s.updSlot (fun l => { l with trapval := x })
  | 0x025 => s.updSlot (fun l => { l with trapvec := x.extractLsb' 0 15 })
  | _ =>
    if 0x070 ≤ i && i ≤ 0x073 then
      s.updCtx (fun r => { r with k := r.k.set (i % 4) (x.extractLsb' 0 32) (Nat.mod_lt _ (by decide)) })
    else s

/-- CRW (R124, R125). -/
def execCrw (a : BitVec 5) (i : BitVec 10) (s : State) : Res :=
  let n := i.toNat
  if (crBits n).isNone || (s.isTeller && crFile n) then illegal s (.crw a i)
  else if s.unitMode && crPriv n then paying s 2 (fun p => trapped p causePRIV 0 0)
  else if s.isTeller && crSlotOnly n then finish s 2 id
  else if crRefused n (s.g a).toNat then illegal s (.crw a i)
  else finish s 2 (fun p => p.crWrite n (s.g a))

/-! ### The other functions -/

/-- ILLEGAL_WORD (R86): ILLOP with subcode 0 and the word in TRAPVAL. -/
def execIllegalWord (w : InstrWord) (s : State) : Res := trapped s causeILLOP 0 (w.zeroExtend 64)

/-- TRAP (Table 4.17): TRAPI with the code. -/
def execTrap (c : BitVec 10) (s : State) : Res := paying s 2 (fun p => trapped p causeTRAPI 0 (c.zeroExtend 64))

/-- ERET (R120): PRIV in unit mode, ILLOP in the teller. -/
def execEret (s : State) : Res :=
  if s.isTeller then illegal s .eret
  else if s.unitMode then paying s 2 (fun p => trapped p causePRIV 0 0)
  else paying s 2 (fun p => .next (p.note (.eret (s.slot.trappc &&& ~~~3))).eretState)

/-- BRK: BREAK with the code, or a stop under the debug module when it captures breakpoints (R119, R455). -/
def execBrk (c : BitVec 10) (s : State) : Res :=
  if !s.isTeller && s.here.dbgMod.brkcap then paying s 2 (fun p => .next (p.stopSlot s.curCore s.curSlotNo 3))
  else paying s 2 (fun p => trapped p causeBREAK 0 (c.zeroExtend 64))

/-- YIELD (R122). -/
def execYield (s : State) : Res :=
  finish s 2 (fun p => if s.isTeller then p else p.updSlot (fun l => { l with yielded := true }))

/-- What an EXIT that has issued does (R123): a fault record traps; else it waits, or ends its unit. -/
def exitGo (p : State) (waits : Res) : Res :=
  let c := p.curCore
  let t := p.curSlotNo
  match p.slot.fault with
  | some r => .next (p.trapRecord r)
  | none =>
    if opsLive p c t || p.slot.nest.pending || mtxBusy p c t then waits
    else .next (((p.note .exit).toRoot (.completion (p.reqOf c t 0))).endUnit c t)

/-- EXIT (R123), which issues for two coins (R119) before it waits; in the teller it ends the handler (R283). -/
def execExit (s : State) : Res :=
  if s.isTeller then paying s 2 (fun p => .next (p.counted.endActivation s.curCore))
  else if s.slot.waiting then exitGo s (notReady s)
  else paying s 2 (fun p => exitGo p (.next (p.updSlot (fun l => { l with waiting := true }))))

/-- An earlier access of the executing slot to a page has not been performed: a request on a route hold, a copy or a fingerprint, or a
nest claim. -/
def touchesPage (s : State) (v : BitVec 33) : Bool :=
  s.slot.holds.any (fun h => h.1 == v.toNat) || (s.slot.nest.pending && vpnOf s.slot.nest.ctr == v) ||
  s.here.ops.any (fun o => o.slot == s.curSlotNo && !o.failed && isGlobal o.addr && o.word.extractLsb' 26 6 != 0x14 &&
    (o.kind == .copy || o.kind == .result) && meetsPage o.addr o.bytes v)

/-- PMAP as it issues (R126): the request goes to the page's clearing core; a system op in unit mode sends nothing.  It
waits for the slot's earlier accesses to the pages it names. -/
def execPmap (d a b : BitVec 5) (s : State) : Res :=
  let va := s.g a
  let x := s.g b
  let op := x.extractLsb' 0 4
  let second : Word := (x.extractLsb' 16 32).zeroExtend 64 <<< 16
  let named := fun (p : Word) => touchesPage s (vpnOf p)
  if s.isTeller then illegal s (.pmap d a b)
  else if s.unitMode && 4 ≤ op.toNat && op.toNat ≤ 6 then paying s 2 (fun p => trapped p causePRIV 0 0)
  else if !s.canJoin || named va || (op == 1 && named second) then notReady s
  else
    let bad := x.extractLsb' 12 4 != 0 || x.extractLsb' 48 16 != 0
    finish s 2 (fun p =>
      (p.startOp .result va (encode (.pmap d a b)) (destG d) none 1 (if op == 1 then some (vpnOf second).toNat else none)).post
        (clearingPlace s s.job (vpnOf va)) 7 (s.me s.nextOpId) (.page (.pmap va op (x.extractLsb' 4 8) second bad) none))

end Sys2Proof.Machine
end

