-- ==== Sys2Proof/Machine/Vfpu.lean ====
section
/-!
DEFINITION. Floating-point lanes (05_vector.md, R138, Tables 5.1 and 5.4).
-/
namespace Sys2Proof.Machine

/-- The coins of a floating-point lane operation: more for fp64 (Table 5.1). -/
def fltCoins (e : BitVec 2) (n n64 : Nat) : Nat := if e = 3 then n64 else n

/-- One floating-point operation on each active element: it takes the format, the rounding mode, a, b and the old d. -/
def vFlt (s : State) (n n64 : Nat) (d a b : BitVec 5) (m : BitVec 3) (q e : BitVec 2)
    (f : FFmt → Rm → Nat → Nat → Nat → FOut) : Res :=
  let z := fltSize e
  vecFinish s (fltCoins e n n64) q a b (fun x y p =>
    let r := mergeFlags z (s.m m) (s.v d) (fun i => f (ewFmt e) s.rm (lane z x i) (lane z y i) (lane z (s.v d) i))
    (p.setV d r.1).raise r.2)

/-- VFABS and VFNEG: the sign bit set to a value; a NaN becomes the canonical NaN. -/
def signOp (f : FFmt) (x : Nat) (neg : Bool) : FOut :=
  match unpack f x with
  | .nan sig => outNan f sig
  | _ => ⟨f.signBit neg + x % 2 ^ (f.width - 1), flNone⟩

/-- The sign bit of an encoding. -/
def signOf (f : FFmt) (x : Nat) : Bool := x.testBit (f.width - 1)

def execVfadd (d a b : BitVec 5) (m : BitVec 3) (q e : BitVec 2) (s : State) : Res :=
  vFlt s 12 16 d a b m q e (fun f r x y _ => fAdd f r x y)
def execVfsub (d a b : BitVec 5) (m : BitVec 3) (q e : BitVec 2) (s : State) : Res :=
  vFlt s 12 16 d a b m q e (fun f r x y _ => fSub f r x y)
def execVfmul (d a b : BitVec 5) (m : BitVec 3) (q e : BitVec 2) (s : State) : Res :=
  vFlt s 12 16 d a b m q e (fun f r x y _ => fMul f r x y)
def execVfma (d a b : BitVec 5) (m : BitVec 3) (q e : BitVec 2) (s : State) : Res :=
  vFlt s 12 16 d a b m q e (fun f r x y z => fFma f r x y z)
def execVfms (d a b : BitVec 5) (m : BitVec 3) (q e : BitVec 2) (s : State) : Res :=
  vFlt s 12 16 d a b m q e (fun f r x y z => fFma f r x y (z ^^^ 2 ^ (f.width - 1)))
def execVfdiv (d a b : BitVec 5) (m : BitVec 3) (q e : BitVec 2) (s : State) : Res :=
  vFlt s 24 32 d a b m q e (fun f r x y _ => fDiv f r x y)
def execVfsqrt (d a : BitVec 5) (m : BitVec 3) (q e : BitVec 2) (s : State) : Res :=
  vFlt s 24 32 d a 0 m q e (fun f r x _ _ => fSqrt f r x)
def execVfmin (d a b : BitVec 5) (m : BitVec 3) (q e : BitVec 2) (s : State) : Res :=
  vFlt s 12 16 d a b m q e (fun f _ x y _ => fMinMax false f x y)
def execVfmax (d a b : BitVec 5) (m : BitVec 3) (q e : BitVec 2) (s : State) : Res :=
  vFlt s 12 16 d a b m q e (fun f _ x y _ => fMinMax true f x y)
def execVfabs (d a : BitVec 5) (m : BitVec 3) (q e : BitVec 2) (s : State) : Res :=
  vFlt s 12 16 d a 0 m q e (fun f _ x _ _ => signOp f x false)
def execVfneg (d a : BitVec 5) (m : BitVec 3) (q e : BitVec 2) (s : State) : Res :=
  vFlt s 12 16 d a 0 m q e (fun f _ x _ _ => signOp f x (!signOf f x))

end Sys2Proof.Machine
end

