-- ==== Sys2Proof/Machine/Vcvt.lean ====
section
/-!
DEFINITION. Vector conversions (05_vector.md, R139 to R142; 02_numbers.md, R56 to R65).
-/
namespace Sys2Proof.Machine

/-- A conversion between widths of es and ed bytes: n = 64 / max(es, ed) elements, zero above (R139). -/
def vConv (s : State) (d a : BitVec 5) (m : BitVec 3) (q : BitVec 2) (es ed : Nat) (f : Nat → FOut) : Res :=
  let n := 64 / max es ed
  vecFinish s 6 q a 0 (fun x _ p =>
    let rs := (List.range n).map (fun i =>
      if active (s.m m) ed i then f (lane es x i) else ⟨lane ed (s.v d) i, flNone⟩)
    (p.setV d (packLanes ed (rs.map (fun r => r.bits)))).raise (orFlags rs))

/-- `src` is the source format, `e` the destination. -/
def execVcvtf (d a : BitVec 5) (src : BitVec 2) (m : BitVec 3) (q e : BitVec 2) (s : State) : Res :=
  vConv s d a m q (fltSize src) (fltSize e) (fun x => fCvt (ewFmt e) (ewFmt src) s.rm x)
def execVftoi (d a : BitVec 5) (u : BitVec 1) (w : BitVec 2) (m : BitVec 3) (q e : BitVec 2) (s : State) : Res :=
  vConv s d a m q (fltSize e) (intSize w) (fun x => fToI (ewFmt e) (8 * intSize w) (u = 0) s.rm x)
def execVitof (d a : BitVec 5) (u : BitVec 1) (w : BitVec 2) (m : BitVec 3) (q e : BitVec 2) (s : State) : Res :=
  vConv s d a m q (intSize w) (fltSize e) (fun x =>
    iToF (ewFmt e) s.rm (if u = 0 then signedOf (8 * intSize w) x else (x : Int)))

/-- An instruction that reads a descriptor: it must be valid (R57). -/
def withFd (s : State) (i : Instr) (n : BitVec 3) (k : NarrowFmt → Res) : Res :=
  if fdValid (s.fdReg n) then k (NarrowFmt.ofBits (s.fdReg n)) else illegal s i

/-- Narrow elements packed by R58; the bits above the last are zero. -/
def packNarrow (f : NarrowFmt) (xs : List Nat) : Row :=
  BitVec.ofNat 512 (xs.foldr (fun x a => x % 2 ^ f.stride + a * 2 ^ f.stride) 0)

/-- VNARROW (R140): an inactive element keeps its old nibble or byte. -/
def execVnarrow (d a : BitVec 5) (n m : BitVec 3) (q e : BitVec 2) (s : State) : Res :=
  withFd s (.vnarrow d a n m q e) n (fun f =>
    let z := fltSize e
    vecFinish s 6 q a 0 (fun x _ p =>
      let rs := (List.range (64 / z)).map (fun i =>
        if active (s.m m) z i then roundNarrow f s.rm (unpack (ewFmt e) (lane z x i))
        else ⟨(s.v d).toNat >>> (f.stride * i) % 2 ^ f.stride, flNone⟩)
      (p.setV d (packNarrow f (rs.map (fun r => r.bits)))).raise (orFlags rs)))

/-- The scale register (R141). -/
def scaleReg (d : BitVec 5) : BitVec 5 := d + 1

/-- VWIDEN (R141). -/
def execVwiden (d a : BitVec 5) (n m : BitVec 3) (q e : BitVec 2) (s : State) : Res :=
  withFd s (.vwiden d a n m q e) n (fun f =>
    let z := fltSize e
    let c := lane 1 (s.v (scaleReg d)) 0
    vecFinish s 6 q a 0 (fun x _ p =>
      let r := mergeFlags z (s.m m) (s.v d) (fun i => packFixed (ewFmt e) s.rm (scaleBlock c (narrowVal f (f.elem x.toNat i))))
      (p.setV d r.1).raise r.2))

/-- g of Table 5.5. -/
def groupSize (f : NarrowFmt) (e : BitVec 2) : Nat := f.perRow * fltSize e / 64

/-- The r source values of VSCALE and VQBLK (R142). -/
def groupVals (s : State) (a : BitVec 5) (f : NarrowFmt) (e : BitVec 2) : List FVal :=
  let z := fltSize e
  (List.range f.perRow).map (fun j =>
    unpack (ewFmt e) (lane z (s.v (a + BitVec.ofNat 5 (j * z / 64))) (j % (64 / z))))

/-- Every register of the group, vd and the scale register exists in the context (R142, R21). -/
def groupExists (s : State) (d a : BitVec 5) (g : Nat) : Bool :=
  !s.isTeller || ((List.range g).all (fun i => (a + BitVec.ofNat 5 i).toNat < 8) && d.toNat < 8 && (scaleReg d).toNat < 8)

/-- The shape of VSCALE and VQBLK: six coins per source register, results from code and values. -/
def vBlock (s : State) (i : Instr) (d a : BitVec 5) (n : BitVec 3) (e : BitVec 2)
    (w : NarrowFmt → List FVal → State → State) : Res :=
  withFd s i n (fun f =>
    if groupExists s d a (groupSize f e) then finish s (6 * groupSize f e) (w f (groupVals s a f e)) else illegal s i)

/-- The elements of a row under a block scale code; a code of 255 writes zero. -/
def scaledRow (f : NarrowFmt) (rm : Rm) (c : Nat) (xs : List FVal) : List FOut :=
  xs.map (fun x => if c == 255 then ⟨0, flNone⟩ else roundNarrow f rm (x.scale (127 - (c : Int))))

def execVscale (d a : BitVec 5) (n : BitVec 3) (e : BitVec 2) (s : State) : Res :=
  vBlock s (.vscale d a n e) d a n e (fun f xs p =>
    let rs := scaledRow f s.rm (lane 1 (s.v (scaleReg d)) 0) xs
    (p.setV d (packNarrow f (rs.map (fun r => r.bits)))).raise (orFlags rs))

/-- The code goes to every byte of the scale register; NV of a code of 255 comes from a signalling source. -/
def execVqblk (d a : BitVec 5) (n : BitVec 3) (e : BitVec 2) (s : State) : Res :=
  vBlock s (.vqblk d a n e) d a n e (fun f xs p =>
    let c := chooseScale f xs
    let rs := scaledRow { f with sat := true } s.rm c xs
    let fl := if c == 255 then flIf (xs.any FVal.isSnan) flNV else orFlags rs
    ((p.setV (scaleReg d) (packLanes 1 (List.replicate 64 c))).setV d (packNarrow f (rs.map (fun r => r.bits)))).raise fl)

end Sys2Proof.Machine
end

