-- ==== Sys2Proof/Machine/RegUse.lean ====
section
/-!
DEFINITION. The registers that a word names (03_encoding.md, R81, R82, R84, R85 item 5; 01_instant_state.md, R21, R27).
-/
namespace Sys2Proof.Machine

/-- What a five-bit field names. -/
inductive Field where
  | none
  | g
  | v
deriving DecidableEq, Repr

/-- What the fields [25:21], [20:16] and [15:11] of a word name; those of MMA lie elsewhere. -/
def Instr.fields : Instr → Field × Field × Field
  | .add .. | .sub .. | .and .. | .or .. | .xor .. | .andn .. | .sll .. | .srl .. | .sra .. | .rotr .. | .slt ..
  | .sltu .. | .min .. | .max .. | .minu .. | .maxu .. | .mul .. | .mulh .. | .mulhu .. | .div .. | .divu ..
  | .rem .. | .remu .. | .sel .. | .shadd .. | .extu .. | .exts .. | .insf .. | .fadd .. | .fsub .. | .fmul ..
  | .fma .. | .fdiv .. | .fmin .. | .fmax .. | .fcmp .. | .amoAdd .. | .amoAnd .. | .amoOr .. | .amoXor ..
  | .amoMin .. | .amoMax .. | .amoMinu .. | .amoMaxu .. | .amoSwap .. | .amoCas .. | .pmap .. | .tld .. | .tldl ..
  | .tst .. | .tcpy .. | .tcpym .. | .tfpr .. | .rfaAdd .. | .rfaAnd .. | .rfaOr .. | .rfaXor .. | .rfaMin ..
  | .rfaMax .. | .rfaMinu .. | .rfaMaxu .. | .rfaSwap .. | .rcas .. | .send .. | .sendm .. | .binit .. | .spapp ..
  | .spretHole .. | .spretClose .. | .spqry .. | .sploc .. => (.g, .g, .g)
  | .clz .. | .ctz .. | .popc .. | .bswap .. | .addi .. | .andi .. | .ori .. | .xori .. | .slti .. | .sltiu ..
  | .slli .. | .srli .. | .srai .. | .rotri .. | .fsqrt .. | .fcvt .. | .fclass .. | .ftoi .. | .itof .. | .ld ..
  | .st .. | .beq .. | .bne .. | .blt .. | .bge .. | .bltu .. | .bgeu .. | .bbs .. | .bbc .. | .jalr .. | .rld ..
  | .rstr .. | .lrw .. | .home .. | .splen .. | .launch .. | .lstat .. | .treg .. | .purse .. | .subs ..
  | .crinit .. => (.g, .g, .none)
  | .lih .. | .adpc .. | .jal .. | .rpt .. | .crr .. | .mpopc .. | .mfirst .. | .lwin .. | .btest .. => (.g, .none, .none)
  | .nest .. | .next .. | .crw .. | .fdset .. | .mcfg .. | .mprog .. | .mset .. | .act .. | .pre .. | .mig ..
  | .arrive .. | .mst .. | .mldc .. | .lwait .. | .lcancel .. | .unsubs .. | .crwait .. => (.none, .g, .none)
  | .nestq .. | .sch .. | .qbind .. | .sptag .. | .spcom .. | .sprej .. | .cradd .. => (.none, .g, .g)
  | .vadd .. | .vsub .. | .vmul .. | .vmulh .. | .vmin .. | .vmax .. | .vminu .. | .vmaxu .. | .vand .. | .vor ..
  | .vxor .. | .vsll .. | .vsrl .. | .vsra .. | .vabsd .. | .vadds .. | .vfadd .. | .vfsub .. | .vfmul ..
  | .vfma .. | .vfms .. | .vfdiv .. | .vfmin .. | .vfmax .. | .vperm .. | .vzip .. | .vunzip .. | .vmerge .. => (.v, .v, .v)
  | .vfsqrt .. | .vfabs .. | .vfneg .. | .vcvtf .. | .vftoi .. | .vitof .. | .vnarrow .. | .vwiden .. | .vscale ..
  | .vqblk .. | .vrsum .. | .vrmax .. | .vrmin .. | .vrsumi .. | .vscan .. | .vexp2 .. | .vlog2 .. | .vexp ..
  | .vlog .. | .vsin .. | .vcos .. | .vtanh .. | .vsigm .. | .verf .. | .vrcp .. | .vrsqrt .. => (.v, .v, .none)
  | .vbcast .. | .ldv .. | .stv .. | .ldvb .. | .vrld .. | .vrst .. => (.v, .g, .none)
  | .vext .. => (.g, .v, .g)
  | .vins .. | .ldvs .. | .stvs .. => (.v, .g, .g)
  | .vslideu .. | .vslided .. => (.v, .v, .g)
  | .vcmpeq .. | .vcmpne .. | .vcmplt .. | .vcmple .. | .vcmpltu .. | .vcmpleu .. | .vfcmpeq .. | .vfcmplt ..
  | .vfcmple .. | .vfcmpun .. => (.none, .v, .v)
  | .ldvx .. | .stvx .. => (.v, .g, .v)
  | .vxch .. | .qpush .. | .qpop .. | .qpeek .. => (.v, .none, .none)
  | _ => (.none, .none, .none)

/-- The low bits of the fields that name an m register. -/
def Instr.maskFields : Instr → List Nat
  | .vadd .. | .vsub .. | .vmul .. | .vmulh .. | .vmin .. | .vmax .. | .vminu .. | .vmaxu .. | .vand .. | .vor ..
  | .vxor .. | .vsll .. | .vsrl .. | .vsra .. | .vabsd .. | .vadds .. | .vfadd .. | .vfsub .. | .vfmul ..
  | .vfma .. | .vfms .. | .vfdiv .. | .vfsqrt .. | .vfmin .. | .vfmax .. | .vfabs .. | .vfneg .. | .vcvtf ..
  | .vftoi .. | .vitof .. | .vnarrow .. | .vwiden .. | .vbcast .. | .vperm .. | .vslideu .. | .vslided ..
  | .vzip .. | .vunzip .. | .vmerge .. | .mpopc .. | .mfirst .. | .vrsum .. | .vrmax .. | .vrmin .. | .vrsumi ..
  | .vscan .. | .vexp2 .. | .vlog2 .. | .vexp .. | .vlog .. | .vsin .. | .vcos .. | .vtanh .. | .vsigm ..
  | .verf .. | .vrcp .. | .vrsqrt .. | .ldv .. | .stv .. | .ldvs .. | .stvs .. | .ldvx .. | .stvx .. => [8]
  | .mset .. => [21]
  | .vcmpeq .. | .vcmpne .. | .vcmplt .. | .vcmple .. | .vcmpltu .. | .vcmpleu .. | .vfcmpeq .. | .vfcmplt ..
  | .vfcmple .. | .vfcmpun .. => [8, 21]
  | .mand .. | .mor .. | .mxor .. => [11, 16, 21]
  | .mnot .. => [16, 21]
  | _ => []

/-- The instruction reads an fd register. -/
def Instr.usesFd : Instr → Bool
  | .vnarrow .. | .vwiden .. | .vscale .. | .vqblk .. => true
  | _ => false

/-- The vector sources that are queues: field [20:16], field [15:11] (R81). -/
def queueFields (w : InstrWord) : Bool × Bool :=
  let mj := w.toNat / 2 ^ 26
  let q := w.extractLsb' 6 2
  if 0x16 ≤ mj && mj ≤ 0x1C then (q == 1, q == 2) else (false, false)

/-- The registers of one kind among the three fields of a word. -/
def fieldRegs (k : Field) (i : Instr) : List (BitVec 5) :=
  let w := encode i
  let f := Instr.fields i
  let q := queueFields w
  (if f.1 == k then [w.extractLsb' 21 5] else []) ++ (if f.2.1 == k && !q.1 then [w.extractLsb' 16 5] else []) ++
  (if f.2.2 == k && !q.2 then [w.extractLsb' 11 5] else [])

/-- The g registers an instruction reads or writes. -/
def gRegs (i : Instr) : List (BitVec 5) :=
  match i with
  | .mma _ a b k src _ scaled _ =>
    [a, k] ++ (if src = 1 then [] else [b]) ++ (if scaled = 1 then [a + 1, b + 1] else [])
  | _ => fieldRegs .g i

/-- The v registers an instruction reads or writes; VWIDEN, VSCALE and VQBLK name a scale register and the last two a group
(R141, R142), whose size is that of the descriptor in force. -/
def vRegs (s : State) (i : Instr) : List (BitVec 5) :=
  let group := fun (d a : BitVec 5) (n : BitVec 3) (e : BitVec 2) =>
    [d, scaleReg d] ++ (List.range (groupSize (NarrowFmt.ofBits (s.fdReg n)) e)).map (fun j => a + BitVec.ofNat 5 j)
  match i with
  | .vwiden d _ _ _ _ _ => scaleReg d :: fieldRegs .v i
  | .vscale d a n e => group d a n e
  | .vqblk d a n e => group d a n e
  | _ => fieldRegs .v i

/-- Every register the instruction names exists in the teller (R21). -/
def tellerHas (i : Instr) : Bool :=
  let w := encode i
  (fieldRegs .v i).all (fun r => r.toNat < 8) && (Instr.maskFields i).all (fun l => w.extractLsb' l 3 == 0) && !Instr.usesFd i &&
  (match i with | .vwiden d _ _ _ _ _ => (scaleReg d).toNat < 8 | _ => true)

/-- A frame word with its g and v fields staggered (R84). -/
def staggerWord (i : Instr) (r : Rpt) (n : Nat) : InstrWord :=
  let w := encode i
  let f := Instr.fields i
  let at_ := fun (k : Field) (lo : Nat) (st : BitVec 2) =>
    if k == .none then (w.extractLsb' lo 5) else w.extractLsb' lo 5 + BitVec.ofNat 5 (n * st.toNat)
  w.extractLsb' 26 6 ++ at_ f.1 21 r.sd ++ at_ f.2.1 16 r.sa ++ at_ f.2.2 11 r.sb ++ w.extractLsb' 0 11

end Sys2Proof.Machine
end

