-- ==== Sys2Proof/Machine/Issue.lean ====
section
/-!
DEFINITION. What stands between a context and its next instruction (01_instant_state.md, R23, R27, R38 to R43; 03, R85; 04,
R111, R121; 06, R170; 09, R262; 20, R455, R456, R461).
-/
namespace Sys2Proof.Machine

/-- What a context does in its turn. -/
inductive Go where
  /-- It is not ready. -/
  | wait
  /-- A trap or a stop takes the turn. -/
  | done (s : State)
  /-- It issues an instruction. -/
  | run (i : Instr) (s : State)
deriving DecidableEq, Repr

/-! ### Debug stops (R455, R456) -/

/-- A breakpoint stands at a slot's PC (Table 20.3). -/
def breakpointAt (s : State) (t : Fin 4) : Bool :=
  s.here.dbgMod.bp.toList.any (fun b => b.getLsbD 63 && b.getLsbD (16 + t.val) && b.extractLsb' 2 13 == s.pc.extractLsb' 2 13)

/-! ### Fetch (R23, R429) -/

/-- A fetch that its context may make. -/
def fetchOk (s : State) : Bool :=
  let p := s.pc.toNat
  match s.curWho with
  | .slot _ => if s.unitMode then p < 0x5000 else p < 0x5000 || 0x6000 ≤ p
  | .teller => 0x5000 ≤ p && p < 0x6000

/-- The trap PRIV of a fetch: in a slot, TRAPPC holds the address of the instruction that produced the target. -/
def fetchTrap (s : State) : State :=
  let old := s.slot.lastPc
  let s' := s.trap causePRIV 0 (s.pc.zeroExtend 64)
  if s.unitMode then s'.updSlot (fun l => { l with trappc := old }) else s'

/-- The key of the program store line that holds a word of the executing core. -/
def lineKey (s : State) (p : BitVec 15) : Nat := storeKey s.curCore (p.toNat / 64 * 64)

/-- The program store line of the PC carries an uncorrectable error. -/
def badFetch (s : State) : Bool := s.bad.contains (lineKey s s.pc)

/-- An instruction that issues has been fetched: a correctable line counts (R426). -/
def Go.fetched (g : Go) (key : Nat) : Go :=
  match g with
  | .run i s => .run i (s.correctedIn key 64)
  | g => g

/-! ### The slot's gate -/

/-- The instruction, or what stands for an illegal word (R86). -/
def instrOf (w : InstrWord) : Instr :=
  match decodeWord w with
  | .ok i => i
  | .error _ => .illegalWord w

/-- A scoreboard mark stands on a register that the instruction names (R27). -/
def marked (s : State) (i : Instr) : Bool :=
  (gRegs i).any (fun r => s.slot.marksG.getLsbD r.toNat) || (vRegs s i).any (fun r => s.slot.marksV.getLsbD r.toNat)

/-- The held fault record's destination is a register that the instruction names (R170). -/
def touchesFault (s : State) (i : Instr) : Option FaultRec :=
  s.slot.fault.filter (fun f =>
    match f.dest with
    | .none | .code => false
    | .g r => (gRegs i).contains r
    | .v r => (vRegs s i).contains r)

/-- An instruction on registers alone, which an acquire does not hold back; one that pops a queue is none (R262). -/
def isPlain (i : Instr) : Bool :=
  let m := majorOf (encode i)
  let q := queueFields (encode i)
  (1 ≤ m && m ≤ 0x0B) || (0x0F ≤ m && m ≤ 0x12) || (0x16 ≤ m && m ≤ 0x1C && !q.1 && !q.2)

/-- The last checks before an instruction of a slot runs. -/
def slotRun (s : State) (i : Instr) : Go :=
  match touchesFault s i with
  | some f => .done (s.trapRecord f)
  | none => if marked s i || (acquirePending s && !isPlain i) then .wait else .run i s

/-- The next frame word of a running RPT (R84, R111).  It is fetched as the last code load that has completed left it; R111 does not say
which load a replay sees before the slot's next fetch fence (DESIGN CHOICE, log entry 71). -/
def frameGate (s : State) (r : Rpt) : Go :=
  let x := s.g r.c
  let p := framePc s.pc (x.extractLsb' 40 4).toNat
  let w := s.storeWord s.curCore p
  if s.bad.contains (lineKey s p) then .wait
  else if !frameWordOk w then
    match frameTrap s p w with
    | .next t => .done t
    | _ => .wait
  else (slotRun s (instrOf (staggerWord (instrOf w) r (x.extractLsb' 32 5).toNat))).fetched (lineKey s p)

/-- The matrix part of a restored image is loaded once the ownership is free (R38). -/
def State.loadOwner (s : State) (c : Nat) (t : Fin 4) (m : MatrixImage) : State :=
  (s.updCore c (fun k => { k with
    owner := some t
    acc := Vector.ofFn (fun n : Fin 4 => Vector.ofFn (fun j : Fin 64 => m.acc.getD (64 * n.val + j.val) 0))
    cfg := mcfgOf m.cfg
    cfgQueued := mcfgOf m.cfg
    prog := mprogOf m.prog })).updSlotAt c t (fun l => { l with restoreOwn := none })

/-- What holds a slot whatever its next instruction is (R40, items 1, 6, 9 and 11; R331, R461).  A slot that is to leave issues the rest of a
replay that it is in the middle of (R112). -/
def slotHeld (s : State) (t : Fin 4) : Bool :=
  let l := s.slot
  l.phase != .run || (l.leaving.isSome && !inReplay l) || l.lrw.isSome || l.tile.isSome || isStopped s s.curCore t || s.stopping s.curCore t ||
  !s.here.logPend.isEmpty || (l.restoreOwn.isSome && s.here.owner.isSome)

/-- A slot's turn. -/
def slotGate (s : State) (t : Fin 4) : Go :=
  if slotHeld s t then .wait
  else
    let s := match s.slot.restoreOwn with
      | some m => s.loadOwner s.curCore t m
      | none => s
    if s.slot.stepDue && s.unitMode then .done (s.trap causeSTEP 0 0)
    else
      match s.slot.rpt with
      | some r => frameGate s r
      | none =>
        if !s.slot.resumed && breakpointAt s t then .done (s.stopSlot s.curCore t 4)
        else if !fetchOk s then .done (fetchTrap s)
        else if badFetch s then .wait
        else (slotRun s (instrOf (s.storeWord s.curCore s.pc))).fetched (lineKey s s.pc)

/-! ### The teller's gate -/

/-- The turn of a user handler's activation (R21, R23, R283). -/
def handlerGate (s : State) (a : Activation) : Go :=
  if 256 ≤ a.count then .done (s.handlerFault s.curCore 1 0 0 0)
  else if !fetchOk s then .done (fetchTrap s)
  else if badFetch s then .wait
  else
    let w := s.storeWord s.curCore s.pc
    let i := instrOf w
    .run (if tellerHas i then i else .illegalWord w) (s.correctedIn (lineKey s s.pc) 64)

end Sys2Proof.Machine
end

