-- ==== Sys2Proof/Machine/Image.lean ====
section
/-!
DEFINITION. The context image (01_instant_state.md, R37, R38, Table 1.5; 04, Table 4.15; 06, Table 6.6), and where saved and
parked images and leases lie in a core's vault (12_launch_scheduling.md, Table 12.6).
-/
namespace Sys2Proof.Machine

/-! ### Writing an image -/

/-- Table 4.15. -/
def nestBytes (n : Nest) : List Byte :=
  bytesOf 8 n.ctr.toNat ++ (n.e.toList.map (fun x => bytesOf 4 x.toNat)).flatten ++
  (n.b.toList.map (fun x => bytesOf 4 x.toNat)).flatten ++ bytesOf 4 n.p.toNat ++ bytesOf 4 n.cmin.toNat ++ bytesOf 1 n.f.toNat ++
  bytesOf 1 ((if n.valid then 1 else 0) + (if n.queueMode then 2 else 0) + 4 * n.queue.toNat + (if n.exhausted then 32 else 0)) ++
  bytesOf 6 n.first.toNat ++ bytesOf 6 n.last.toNat ++ bytesOf 2 0

/-- A channel at offset 0xE80 of Table 1.5. -/
def chanBytes (x : Chan) : List Byte :=
  bytesOf 8 (x.mod.toNat * 2 ^ 18 + x.core.toNat + x.queue.toNat * 2 ^ 32 + x.free * 2 ^ 36 + (if x.bound then 2 ^ 63 else 0))

/-- Table 6.6. -/
def batchBytes (f : Option FaultRec) (more : Bool) : List Byte :=
  match f with
  | none => List.replicate 32 0
  | some r =>
    bytesOf 8 r.addr.toNat ++ bytesOf 2 (r.sub ++ r.cause).toNat ++ bytesOf 2 r.pc.toNat ++
    bytesOf 1 (if more then 3 else 1) ++ List.replicate 19 0

/-- The matrix part, zero without ownership (R38): accumulators, configuration, microprogram. -/
def matrixBytes (m : Option MatrixImage) : List Byte :=
  match m with
  | none => List.replicate 1088 0
  | some x => (x.acc.map (fun a => bytesOf 4 a.toNat)).flatten ++ x.cfg ++ x.prog

/-- The image of a slot (Table 1.5). -/
def imageOf (l : Slot) (mx : Option MatrixImage) (more : Bool) : List Byte :=
  bytesOf 8 l.ctx.pc.toNat ++ bytesOf 8 l.ctx.status.toNat ++ bytesOf 8 l.ctx.fpmode.toNat ++ bytesOf 8 l.instret.toNat ++
  bytesOf 8 l.coinspent.toNat ++ (l.ctx.k.toList.map (fun x => bytesOf 4 x.toNat)).flatten ++
  (l.ctx.fd.toList.map (fun x => bytesOf 4 x.toNat)).flatten ++
  ((l.ctx.m.toList.drop 1).map (fun x => bytesOf 8 x.toNat)).flatten ++ bytesOf 8 l.trappc.toNat ++ bytesOf 8 l.trapcause.toNat ++
  bytesOf 8 l.trapval.toNat ++ bytesOf 8 l.trapvec.toNat ++ List.replicate 80 0 ++
  ((l.ctx.g.toList.drop 1).map (fun x => bytesOf 8 x.toNat)).flatten ++ List.replicate 8 0 ++
  (l.ctx.v.toList.map (fun x => bytesOf 64 x.toNat)).flatten ++ matrixBytes mx ++ nestBytes l.nest ++
  (l.chans.toList.map chanBytes).flatten ++ batchBytes l.fault more ++ bytesOf 8 l.unitid.toNat ++ bytesOf 8 l.launchid.toNat ++
  bytesOf 8 l.jobid.toNat ++ bytesOf 8 l.origin.toNat ++ bytesOf 8 (l.leaseBase.toNat * 64 + l.leaseSize.toNat * 2 ^ 32) ++
  bytesOf 8 l.heatcls.toNat ++ List.replicate 232 0 ++ bytesOf 8 (1 + (if mx.isSome then 2 ^ 16 else 0))

/-- The matrix state of a core. -/
def matrixOf (k : Core) : MatrixImage :=
  ⟨(k.acc.toList.map (fun a => a.toList)).flatten, mcfgBytes k.cfg, mprogBytes k.prog⟩

/-- A later fault of the slot stands in the in-flight table (R170). -/
def moreFaults (k : Core) (t : Fin 4) : Bool := k.ops.any (fun o => o.slot == t && o.failed)

/-- The image of a slot that has drained; a slot that still waits for the matrix state carries the image it waits with. -/
def slotImage (s : State) (c : Nat) (t : Fin 4) (mx : Option MatrixImage) : List Byte :=
  let l := s.slotAt c t
  imageOf l (match mx with | some x => some x | none => l.restoreOwn) (l.moreFaults || moreFaults (s.core c) t)

/-! ### Applying an image -/

/-- A little-endian field of an image. -/
def imgNat (bs : List Byte) (off n : Nat) : Nat := natOfBytes ((bs.drop off).take n)

/-- Words of an image. -/
def imgList {w : Nat} (bs : List Byte) (off n size : Nat) : List (BitVec w) :=
  (List.range n).map (fun i => BitVec.ofNat w (imgNat bs (off + size * i) size))

/-- A vector read from an image. -/
def imgVec {w : Nat} (bs : List Byte) (off n size : Nat) : Vector (BitVec w) n :=
  Vector.ofFn (fun i => BitVec.ofNat w (imgNat bs (off + size * i.val) size))

/-- Nest state read from an image (Table 4.15). -/
def nestFrom (bs : List Byte) : Nest :=
  let fl := (bs.getD 0x31 0)
  { nestOf bs with
    valid := fl.getLsbD 0
    queueMode := fl.getLsbD 1
    queue := fl.extractLsb' 2 3
    exhausted := fl.getLsbD 5
    first := BitVec.ofNat 48 (imgNat bs 0x32 6)
    last := BitVec.ofNat 48 (imgNat bs 0x38 6) }

/-- What goes with a slot's image. -/
def besideOf (l : Slot) : Beside := ⟨l.chans.toList.map (fun x => x.gen), l.lastPc, l.since, l.trapWork⟩

/-- A channel read from an image, with its binding count. -/
def chanFrom (x : Nat) (gen : Nat) : Chan :=
  ⟨x / 2 ^ 63 % 2 == 1, BitVec.ofNat 8 (x / 2 ^ 18), BitVec.ofNat 18 x, BitVec.ofNat 3 (x / 2 ^ 32), x / 2 ^ 36 % 32, gen⟩

/-- The fault record of an image; it belongs to a batch before the first one opened here (log entry 14). -/
def faultFrom (bs : List Byte) : Option FaultRec :=
  if (bs.getD 12 0).getLsbD 0 then
    some ⟨BitVec.ofNat 64 (imgNat bs 0 8), bs.getD 8 0, bs.getD 9 0, BitVec.ofNat 15 (imgNat bs 10 2), 0, none, .none⟩
  else none

/-- The slot that an image gives (R37, R38), its phase as told; the PC and TRAPVEC hold no bits [1:0] (R77, Table 1.2). -/
def slotFrom (bs : List Byte) (x : Beside) (upc : Nat) (phase : Phase) : Slot :=
  let ctx : Ctx :=
    { g := imgVec bs 0xF8 32 8
      v := imgVec bs 0x200 32 64
      m := imgVec bs 0x50 8 8
      k := imgVec bs 0x28 4 4
      fd := imgVec bs 0x38 8 4
      pc := BitVec.ofNat 15 (imgNat bs 0 8) &&& ~~~3
      status := BitVec.ofNat 5 (imgNat bs 8 8)
      fpmode := BitVec.ofNat 13 (imgNat bs 0x10 8) }
  { Slot.reset with
    phase := phase
    ctx := { ctx with g := ctx.g.set 0 0, m := ctx.m.set 0 0 }
    instret := BitVec.ofNat 64 (imgNat bs 0x18 8)
    coinspent := BitVec.ofNat 64 (imgNat bs 0x20 8)
    trappc := BitVec.ofNat 15 (imgNat bs 0x90 8)
    trapcause := BitVec.ofNat 16 (imgNat bs 0x98 8)
    trapval := BitVec.ofNat 64 (imgNat bs 0xA0 8)
    trapvec := BitVec.ofNat 15 (imgNat bs 0xA8 8) &&& ~~~3
    nest := nestFrom ((bs.drop 0xE40).take 64)
    chans := Vector.ofFn (fun i => chanFrom (imgNat bs (0xE80 + 8 * i.val) 8) (x.gens.getD i.val 0))
    fault := faultFrom ((bs.drop 0xEC0).take 32)
    moreFaults := (bs.getD 0xECC 0).getLsbD 1
    batch := 1
    unitid := BitVec.ofNat 24 (imgNat bs 0xEE0 8)
    launchid := BitVec.ofNat 32 (imgNat bs 0xEE8 8)
    jobid := BitVec.ofNat 24 (imgNat bs 0xEF0 8)
    origin := BitVec.ofNat 26 (imgNat bs 0xEF8 8)
    leaseBase := BitVec.ofNat 11 (imgNat bs 0xF00 8 / 64)
    leaseSize := BitVec.ofNat 11 (imgNat bs 0xF00 8 / 2 ^ 32)
    heatcls := BitVec.ofNat 2 (imgNat bs 0xF08 8)
    lastPc := x.lastPc
    since := x.since
    trapWork := x.work
    upc := upc }

/-- OWN and the matrix part of an image. -/
def matrixFrom (bs : List Byte) : Option MatrixImage :=
  if (bs.getD 0xFFA 0).getLsbD 0 then some ⟨imgList bs 0xA00 256 4, (bs.drop 0xE00).take 32, (bs.drop 0xE20).take 32⟩ else none

/-- An image applied to a slot (R38): its matrix state at once when no other slot owns the core's. -/
def State.applyImage (s : State) (c : Nat) (t : Fin 4) (bs : List Byte) (x : Beside) (upc : Nat) : State :=
  let s1 := s.setSlotAt c t (slotFrom bs x upc .run)
  match matrixFrom bs with
  | none => s1
  | some m =>
    if (s.core c).owner.isSome then s1.updSlotAt c t (fun l => { l with restoreOwn := some m }) else s1.loadOwner c t m

/-! ### The system area (R327, Table 12.6) -/

/-- Offsets in a core's vault. -/
def saveRecord (i : Fin 4) : Nat := 0xFC0000 + 4096 * i.val
def parkRecord (p : Fin 3) : Nat := 0xFC4000 + 4096 * p.val
def leaseStore (o : Nat) : Nat := 0xFD4000 + o
def parkArea (g : Nat) : Nat := 0xFF2000 + 64 * g

/-- The 16 bytes of a page entry (Table 13.2). -/
def PageEntry.bits (p : PageEntry) : BitVec 128 :=
  p.job ++ p.vpn ++ p.mod ++ p.core ++ p.frame ++ p.share ++ p.pin ++ p.key ++ p.cls ++ BitVec.ofBool p.cow ++ BitVec.ofBool p.w ++
  BitVec.ofBool p.rd ++ BitVec.ofBool p.large ++ p.st ++ (0#4)

/-- A byte of a core's system area (R327, Table 12.6): the page entries of the clearing core stand there as Table 13.2 lays them out, entry
after entry, and free entries read zero; the specification gives the 32 bytes of a stub no layout (log entry 18). -/
def systemByte (s : State) (c off : Nat) : Byte :=
  if 0x10000 ≤ off && off < 0x14000 then
    let i := (off - 0x10000) / 16
    ((s.core c).pages[i]?.map (fun p => (p.bits.toNat / 256 ^ (off % 16) % 256))).elim 0 (fun b => BitVec.ofNat 8 b)
  else (s.mem.read (vaultKey c (0xFC0000 + off)))

/-- A record is freed: its version field becomes zero. -/
def State.freeRecord (s : State) (c off : Nat) : State :=
  { s with mem := s.mem.writeBytes (vaultKey c (off + 0xFF8)) [0, 0] }

/-- Part and lease of a unit that comes to a core are free (R289, R316 item 3): no slot and no stub takes the part. -/
def partFree (k : Core) (upc j : Nat) : Bool :=
  k.slots.toList.all (fun l => l.phase == .empty || !(inPart l.upc (partOf l.upc l.unitid) (partBase upc j) ||
    inPart upc j (partBase l.upc (partOf l.upc l.unitid)))) &&
  k.stubs.all (fun x =>
    match x with
    | .context _ _ part u _ _ => !(inPart u part (partBase upc j) || inPart upc j (partBase u part))
    | .page _ _ _ => true)

/-- The empty slots of a core. -/
def emptySlots (k : Core) : List (Fin 4) := (List.finRange 4).filter (fun t => (k.slots.get t).phase == .empty)

/-- A core freewheels while a grant lends it (R297). -/
def freewheels (k : Core) : Bool := !k.lentTo.isEmpty

/-- A core holds a unit or an incoming one. -/
def holdsUnit (k : Core) : Bool := k.slots.toList.any (fun l => l.phase != .empty)

/-- A core holds a unit, or a parked context; one that has become saved is not parked (R330). -/
def busyCore (k : Core) : Bool := holdsUnit k || k.parked.any (fun p => !p.saved)

end Sys2Proof.Machine
end

