-- ==== Sys2Proof/Machine/Pages.lean ====
section
/-!
DEFINITION. Page entries, frames and page services (04_scalar_control.md, R126, R127; 08, R235, R236; 13, R339 to R368).
-/
namespace Sys2Proof

/-- What handler 7 writes at the address that a page service request names: the specification gives the status, and no
layout (log entry 7). -/
opaque Config.pageReply : Nat → List Byte

namespace Machine

/-! ### Frames (R235, R236, R432, R434) -/

/-- A frame of a bank that retires, or with a row that no spare replaces. -/
def frameWithdrawn (k : Core) (f : Nat) : Bool :=
  match Tab.find k.banks (f / 8) with
  | none => false
  | some b => b.spoke != 0 || (List.range 32).any (fun i => b.withdrawn.contains (BitVec.ofNat 8 (f % 8 * 32 + i)))

/-- A frame lies in the frame or layer of an entry. -/
def frameIn (large : Bool) (frame : BitVec 8) (f : Nat) : Bool := if large then frame.toNat / 32 == f / 32 else frame.toNat == f

/-- A frame is held by a page, by a move from it, or by a move into it. -/
def frameUsed (s : State) (c f : Nat) : Bool :=
  let k := s.core c
  k.vaultMap.any (fun p => frameIn p.large p.frame f) ||
  k.rehomes.any (fun r => frameIn r.large r.oldFrame f || (r.newHome == s.coreId c && frameIn r.large r.newFrame f))

def frameFree (s : State) (c f : Nat) : Bool := !frameUsed s c f && !frameWithdrawn (s.core c) f

/-- The free user frames of a core, or its free layers. -/
def freeFrames (s : State) (c : Nat) (large : Bool) : List (BitVec 8) :=
  if large then
    ((List.range 7).filter (fun l => (List.range 32).all (fun i => frameFree s c (32 * l + i)))).map (fun l => BitVec.ofNat 8 (32 * l))
  else ((List.range 252).filter (frameFree s c)).map (BitVec.ofNat 8)

/-- The vault offset of a frame. -/
def frameOff (f : BitVec 8) : Nat := f.toNat * 2 ^ 16

/-! ### Entries (R342 to R344) -/

/-- A core tells a page's home in another module what becomes of its entry (log entry 8). -/
def State.tellHome (s : State) (c : Nat) (p : PageEntry) (what : EntryNews) : State :=
  if p.mod == s.modNo then s else s.post (s.dstOf p.home) 7 ⟨c, 4, 0, p.job, 0, 0⟩ (.entryAt p what)

/-- A home tells a page's clearing core in another module how it has the entry (log entry 8). -/
def State.tellClearing (s : State) (c : Nat) (p : PageEntry) (move : Option (Nat × Nat)) : State :=
  s.post (clearingPlace s p.job p.vpn) 7 ⟨c, 4, 0, p.job, 0, 0⟩ (.entryAt p (.clearing move))

/-- A page's entry changed at its clearing core and in the vault map of its home. -/
def State.updPage (s : State) (job : BitVec 24) (vpn : BitVec 33) (f : PageEntry → PageEntry) : State :=
  let upd := fun (ps : List PageEntry) => ps.map (fun x => if x.job == job && x.vpn == vpn then f x else x)
  match knownPage s job vpn with
  | none => s
  | some p =>
    let cc := clearingCore s job vpn
    let s1 := if clearsHere s job then s.updCore cc (fun k => { k with pages := upd k.pages }) else s
    match s.ofId p.home with
    | some h =>
      let s2 := s1.updCore h (fun k => { k with vaultMap := upd k.vaultMap })
      if clearsHere s job then s2 else s2.tellClearing h (f p) none
    | none => s1.tellHome cc (f p) .write

/-- The pages that map a frame of a core. -/
def sharers (s : State) (h : Nat) (large : Bool) (frame : BitVec 8) : List (BitVec 24 × BitVec 33) :=
  ((s.core h).vaultMap.filter (fun p => p.large == large && p.frame == frame)).map (fun p => (p.job, p.vpn))

/-- Two entries map one frame. -/
def sameFrame (p q : PageEntry) : Bool := p.mod == q.mod && p.core == q.core && p.large == q.large && p.frame == q.frame

/-- The pages that map an entry's frame: as its home keeps them, or, for a home in another module, as the clearing cores do. -/
def frameSharers (s : State) (p : PageEntry) : List (BitVec 24 × BitVec 33) :=
  match entryHome s p with
  | some h => sharers s h p.large p.frame
  | none => s.cores.flatMap (fun k => (k.2.pages.filter (sameFrame p)).map (fun q => (q.job, q.vpn)))

/-- A frame's share count, written into every entry that maps it (R344). -/
def State.setShare (s : State) (pages : List (BitVec 24 × BitVec 33)) (n : Nat) : State :=
  pages.foldl (fun t p => t.updPage p.1 p.2 (fun x => { x with share := BitVec.ofNat 10 n })) s

/-- An entry removed; the frame's share count falls by one, and a count of 0 frees it. -/
def State.removePage (s : State) (p : PageEntry) : State :=
  let drop := fun (ps : List PageEntry) => ps.filter (fun x => !(x.job == p.job && x.vpn == p.vpn))
  let s1 := s.updCore (clearingCore s p.job p.vpn) (fun k => { k with pages := drop k.pages })
  let s2 := match entryHome s p with
    | some h => s1.updCore h (fun k => { k with vaultMap := drop k.vaultMap })
    | none => s1.tellHome (clearingCore s p.job p.vpn) p .remove
  s2.setShare (frameSharers s2 p) (p.share.toNat - 1)

/-- An entry put in at its clearing core and at its home. -/
def State.addPage (s : State) (p : PageEntry) (what : EntryNews) : State :=
  let s1 := s.updCore (clearingCore s p.job p.vpn) (fun k => { k with pages := k.pages ++ [p] })
  match s.ofId p.home with
  | some h => s1.updCore h (fun k => { k with vaultMap := k.vaultMap ++ [p] })
  | none => s1.tellHome (clearingCore s p.job p.vpn) p what

/-- A clearing core and a vault map hold 1 024 entries each (R343, R348). -/
def hasRoom (s : State) (h : Nat) (job : BitVec 24) (vpn : BitVec 33) : Bool :=
  (s.core (clearingCore s job vpn)).pages.length < 1024 && (s.core h).vaultMap.length < 1024

/-- The entry of a page newly mapped at a home (R366). -/
def newEntry (id : BitVec 26) (frame : BitVec 8) (job : BitVec 24) (vpn : BitVec 33) (cls : BitVec 2) (rd w : Bool) (key : BitVec 6) :
    PageEntry :=
  { job, vpn, mod := id.extractLsb' 18 8, core := id.extractLsb' 0 18, frame, share := 1, pin := 0, key, cls,
    cow := false, w, rd, large := vpnLarge vpn, st := 1 }

/-- A page entered with a zeroed frame of a core (R366). -/
def State.enterPage (s : State) (h : Nat) (frame : BitVec 8) (job : BitVec 24) (vpn : BitVec 33) (cls : BitVec 2)
    (rd w : Bool) (key : BitVec 6) : State :=
  (s.addPage (newEntry (s.coreId h) frame job vpn cls rd w key) .enter).clearBytes (vaultKey h (frameOff frame)) (pageSize (vpnLarge vpn))

/-! ### Placement classes (R367) -/

/-- Row bytes, slot size and member range of a pool (R370). -/
def Pool.rowBytes (p : Pool) : Nat := if p.efmt = 0 then 2 * p.dh else if p.efmt = 1 then p.dh else p.dh / 2
def Pool.need (p : Pool) : Nat := 64 + 2 * p.kvh * 64 * p.rowBytes + (if p.efmt = 0 then 0 else 2 * p.kvh * p.rowBytes)
def Pool.slotSize (p : Pool) : Nat := ((List.range 10).map (fun i => 4096 * 2 ^ i)).find? (fun z => p.need ≤ z) |>.getD (2 ^ 22)
def Pool.range (p : Pool) : Nat := (p.spm * p.slotSize + 65535) / 65536 * 65536

/-- The base of member i's range. -/
def Pool.memberBase (p : Pool) (i : Nat) : Word := p.base + BitVec.ofNat 64 (i * p.range)

/-- The core of member i (R369). -/
def Pool.member (s : State) (p : Pool) (i : Nat) : Nat := (s.ofNumber (p.first + BitVec.ofNat 18 i)).getD 0

/-- The member of a job's pool that owns the range of an address. -/
def poolOwner (s : State) (job : BitVec 24) (va : Word) : Option Nat :=
  s.cores.findSome? (fun c => c.2.entryPools.findSome? (fun p =>
    if p.job == job && p.base.toNat ≤ va.toNat && va.toNat < p.base.toNat + p.nmem * p.range then
      some (p.member s ((va.toNat - p.base.toNat) / p.range))
    else none))

/-- The core where a unit of a launch is. -/
def unitCore (s : State) (n : BitVec 32) (unit : Nat) : Option Nat :=
  (s.cores.find? (fun p => p.2.slots.toList.any (fun l => l.phase != .empty && l.launchid == n && l.unitid.toNat == unit))).map
    (fun p => p.1)

/-- The tensor that a page of a job belongs to, and the page's number in it. -/
def tensorAt (s : State) (job : BitVec 24) (vpn : BitVec 33) : Option (Tensor × Nat) :=
  let a := (vpnBase vpn).toNat
  (s.dist.tensors.find? (fun x => x.job == job && x.base.toNat ≤ a && a < x.base.toNat + x.size)).map (fun x =>
    (x, (a - x.base.toNat) / pageSize (vpnLarge vpn)))

/-- The core that a page's class chooses (Table 13.5); a page of class A or S of no tensor takes the class W home (log entry 12). -/
def classCore (s : State) (job : BitVec 24) (vpn : BitVec 33) (cls : BitVec 2) : Nat :=
  let w := clearingCore s job vpn
  match cls.toNat with
  | 1 =>
    match tensorAt s job vpn with
    | some (x, i) =>
      match s.dist.launches.find? (fun l => l.num == x.first) with
      | some l => (unitCore s l.num (i % max 1 l.desc.units)).getD w
      | none => w
    | none => w
  | 2 => (poolOwner s job (vpnBase vpn)).getD w
  | 3 => ((tensorAt s job vpn).bind (fun y => s.ofId y.1.issuer)).getD w
  | _ => w

/-- A core's vault map has room for so many more entries (R348). -/
def mapRoom (s : State) (c n : Nat) : Bool := (s.core c).vaultMap.length + n ≤ 1024

/-- The first of so many logical cores, from one on and modulo N, that has a free frame (R367). -/
def coreWithFrame (s : State) (large : Bool) : Nat → Nat → Option Nat
  | 0, _ => none
  | fuel + 1, n =>
    match s.ofNumber (BitVec.ofNat 18 (n % s.ncores)) with
    | some c => if !(freeFrames s c large).isEmpty then some c else coreWithFrame s large fuel (n + 1)
    | none => coreWithFrame s large fuel (n + 1)

/-- A core for a page: the chosen one when it has a frame, else the next that has one. -/
def placeFrame (s : State) (c : Nat) (large : Bool) : Option Nat :=
  if !(freeFrames s c large).isEmpty then some c else coreWithFrame s large s.ncores ((s.coreNo c).toNat + 1)

/-- A page mapped on a core with a free frame; none is status 6: the clearing core or the home's vault map is full (R343, R349). -/
def State.mapAt (s : State) (h : Nat) (job : BitVec 24) (vpn : BitVec 33) (cls : BitVec 2) (rd w : Bool) (key : BitVec 6) : Option State :=
  if 1024 ≤ (s.core (clearingCore s job vpn)).pages.length || !mapRoom s h 1 then none
  else
    match s.pick (freeFrames s h (vpnLarge vpn)) with
    | none => none
    | some (f, t) => some (t.enterPage h f job vpn cls rd w key)

/-- A page mapped on a chosen core or the next that has a frame; none is status 6. -/
def State.mapOn (s : State) (c : Nat) (job : BitVec 24) (vpn : BitVec 33) (cls : BitVec 2) (rd w : Bool) (key : BitVec 6) :
    Option State :=
  (placeFrame s c (vpnLarge vpn)).bind (fun h => s.mapAt h job vpn cls rd w key)

/-- A page mapped on a core of another module, which its home is told of (log entry 8). -/
def State.mapAbroad (s : State) (home : BitVec 26) (job : BitVec 24) (vpn : BitVec 33) (cls : BitVec 2) (rd w : Bool) (key : BitVec 6) :
    Option State :=
  if 1024 ≤ (s.core (clearingCore s job vpn)).pages.length || !s.isReachable home then none
  else
    (Config.remoteFrame home s.free).map (fun f =>
      ({ s with free := s.free + 1 } : State).addPage (newEntry home f job vpn cls rd w key) .enter)

/-- A MAP's page placed: at the home it names, which a class S page may leave for the next core with a frame, or by the class rule
(R366, R367; log entry 12). -/
def State.mapPage (s : State) (job : BitVec 24) (vpn : BitVec 33) (cls : BitVec 2) (rd w : Bool) (key : BitVec 6)
    (home : Option (BitVec 26)) : Option State :=
  match home with
  | none => s.mapOn (classCore s job vpn cls) job vpn cls rd w key
  | some a =>
    match s.ofId a with
    | some h => if cls = 3 then s.mapOn h job vpn cls rd w key else s.mapAt h job vpn cls rd w key
    | none => if a.extractLsb' 18 8 == s.modNo then none else s.mapAbroad a job vpn cls rd w key

/-! ### Shoot-downs (R358, R359) -/

/-- A plate's seed (R446). -/
def seedOf (s : State) (p : Nat) : Option Nat := ((List.range 1024).map (fun i => p * 1024 + i)).find? s.isActive

/-- The module's root core: the seed of the boot plate, as its discovery found it; once it is lost its router passes shoot-downs on (R359). -/
def rootCore (s : State) : Nat :=
  ((s.cores.find? (fun k => k.1 < 1024 && k.2.tree.any (fun x => x.1 == 0))).map (fun k => k.1)).getD ((seedOf s 0).getD 0)

/-- The children of a core in the plate and device spanning tree; the seeds of the other plates are the root's. -/
def treeChildren (s : State) (c : Nat) : List Nat :=
  match (s.core c).tree with
  | none => []
  | some (_, _, mask) =>
    ((List.finRange 4).filter (fun d => mask.getLsbD d.val)).filterMap (neighbour c) ++
    (if c = rootCore s then
      (s.cores.filter (fun k => k.1 != c && (match k.2.tree with | some (0, _, _) => true | _ => false))).map (fun k => k.1)
    else [])

/-- The parent of a core: a seed's is the root. -/
def treeParent (s : State) (c : Nat) : Nat :=
  match (s.core c).tree with
  | some (_, some d, _) => (neighbour c d).getD (rootCore s)
  | _ => rootCore s

/-- The root cores of the joined modules, to which the root passes a shoot-down over the rim (R358). -/
def joinedRoots (s : State) : List Nat :=
  ((s.routes.map (fun r => BitVec.ofNat 8 r.1)).filter (fun m => m != s.modNo && s.isJoined m)).map (fun m =>
    2 ^ 20 + (m ++ Config.remoteRoot m).toNat)

/-- Those to whom a core passes a shoot-down: its children, and from the root the joined modules, when it came from none of them. -/
def shootTargets (s : State) (c : Nat) (m : Msg) : List Nat :=
  treeChildren s c ++ (if c = rootCore s && !m.src.foreign then joinedRoots s else [])

/-- A message of a shoot-down's way: two flits down and one back, at the cost of the sender's plate (Table 15.4; log entry 23). -/
def State.postShoot (s : State) (c d : Nat) (job : BitVec 24) (b : Body) : State :=
  let flits := match b with | .shootdown _ _ _ _ => 2 | _ => 1
  (if c < 2 ^ 20 then s.housePay c (flits * s.hopsDst c d) else s).post d 7 ⟨c, 4, 0, job, 0, 0⟩ b

/-- A shoot-down begins at a clearing core; that of a move names the old home and the move's number. -/
def State.shoot (s : State) (job : BitVec 24) (vpn : BitVec 33) (move : Option (Nat × Nat) := none) : State :=
  let cc := clearingCore s job vpn
  s.postShoot cc (rootCore s) job (.shootdown job vpn cc move)

/-- A message for a core's page services: the teller's, or while the core sleeps or is lost the one that its router takes (R359;
log entry 12). -/
def State.pageWork (s : State) (c : Nat) : Option (Msg × State) :=
  if (s.core c).asleep || !s.isActive c then (routerHead s c).map (fun x => (x.1, { s with net := x.2 }))
  else (s.work c).map (fun m => (m, s.endActivation c))

/-- The acknowledgement of a core that has passed on a shoot-down and has no child left, to the one that it came from; the root's goes
to the clearing core. -/
def State.shootUp (s : State) (c parent : Nat) (job : BitVec 24) (vpn : BitVec 33) (cc : Nat) (move : Option (Nat × Nat)) : State :=
  s.postShoot c parent job (.shootAck job vpn cc move)

/-- SHOOTDOWN. -/
def State.takeShoot (s : State) (c : Nat) : State :=
  match s.pageWork c with
  | some (m, t) =>
    match m.body with
    | .shootdown job vpn cc move =>
      let children := shootTargets s c m
      let parent := if c = rootCore s then (if m.src.foreign then m.src.core else cc) else treeParent s c
      let t1 := t.updCore c (fun k =>
        if k.asleep then { k with wake := true }
        else { k with hints := k.hints.map (fun h => h.filter (fun x => !(x.job == job && x.vpn == vpn))) })
      let t2 := children.foldl (fun u d => u.postShoot c d job (.shootdown job vpn cc move)) t1
      if children.isEmpty then t2.shootUp c parent job vpn cc move
      else t2.updCore c (fun k => { k with shoots := k.shoots ++ [⟨job, vpn, cc, move, parent, children.length⟩] })
    | _ => s
  | none => s

def execShootdown (c : Nat) (s : State) : Res := .next (s.takeShoot c)

/-- The old home of a move learns that one of its pages' shoot-downs is complete (R354 step 7, R485). -/
def State.shootEnd (s : State) (c id : Nat) : State :=
  s.updCore c (fun k => { k with rehomes := mapFirst (fun r => r.id == id && r.step == 7) (fun r => { r with acks := r.acks - 1 }) k.rehomes })

/-- SHOOTDOWN_ACK: a child's acknowledgement, the root's news at the clearing core, or the clearing core's at the old home of a move. -/
def State.takeShootAck (s : State) (c : Nat) : State :=
  match s.pageWork c with
  | some (m, t) =>
    match m.body with
    | .shootAck job vpn cc move =>
      match takeFirst (fun x : Shoot => x.job == job && x.vpn == vpn && x.clearing == cc && x.move == move) (t.core c).shoots with
      | some (x, rest) =>
        if x.due ≤ 1 then (t.updCore c (fun k => { k with shoots := rest })).shootUp c x.parent job vpn cc move
        else t.updCore c (fun k => { k with shoots := { x with due := x.due - 1 } :: rest })
      | none =>
        match move with
        | none => t
        | some (old, id) => if old = c then t.shootEnd c id else if c = cc then t.shootUp c old job vpn cc move else t
    | _ => s
  | none => s

def execShootdownAck (c : Nat) (s : State) : Res := .next (s.takeShootAck c)

/-- The router of a sleeping or lost core takes a shoot-down that has come to it. -/
def State.shootPast (s : State) (c : Nat) : State :=
  if (s.core c).asleep || !s.isActive c then
    match routerHead s c with
    | some (m, _) =>
      match m.body with
      | .shootdown _ _ _ _ => s.takeShoot c
      | .shootAck _ _ _ _ => s.takeShootAck c
      | _ => s
    | none => s
  else s

/-! ### Requests: their replies and their waits -/

/-- The status of a request: PMAP's is a deferred result; a page service's is written at the address it names. -/
def State.pageStatus (s : State) (c : Nat) (job : BitVec 24) (src : Req) (replyTo : Option Word) (x : Word) : State :=
  match replyTo with
  | none => s.post src.core 63 src (.deferred x none)
  | some a =>
    s.post (routeFrom s c job (vpnOf a)) 1 ⟨c, 4, 0, job, 0, 0⟩
      (.store a ((Config.pageReply x.toNat ++ List.replicate 64 0).take 64))

/-- A request that waits at a core (R126). -/
def State.pageHold (s : State) (c : Nat) (m : Msg) : State :=
  (s.updCore c (fun k => { k with pageWait := k.pageWait ++ [m] })).endActivation c

/-- An entry that moves or is being unmapped. -/
def busy (p : Option PageEntry) : Bool := p.any (fun x => x.st == 2 || x.st == 3)

/-- A held message is a request for one of some pages. -/
def heldFor (pages : List (BitVec 24 × BitVec 33)) (m : Msg) : Bool := m.body.va.any (fun a => pages.contains (m.src.job, vpnOf a))

/-- Held requests for some pages begin again at a core, in arrival order and ahead of what has landed since (R259). -/
def State.releaseHeld (s : State) (c : Nat) (pages : List (BitVec 24 × BitVec 33)) : State :=
  s.updCore c (fun k => { k with held := k.held.filter (fun m => !heldFor pages m), ready := k.ready ++ k.held.filter (heldFor pages) })

/-! ### PMAP (R126, R127) -/

/-- Table 4.19. -/
def queryWord (p : Option PageEntry) : Word :=
  match p with
  | none => 0
  | some p =>
    BitVec.ofNat 64 (2 ^ 63 + p.mod.toNat * 2 ^ 54 + p.core.toNat * 2 ^ 36 + p.share.toNat * 2 ^ 26 + p.pin.toNat * 2 ^ 18 +
      p.cow.toNat * 2 ^ 17 + p.w.toNat * 2 ^ 16 + p.rd.toNat * 2 ^ 15 + p.key.toNat * 2 ^ 9 + p.cls.toNat * 2 ^ 7)

/-- A bad argument that needs no entry to be seen. -/
def pmapBad (va : Word) (op : BitVec 4) (second : Word) (bad : Bool) : Bool :=
  7 ≤ op.toNat || bad || !isGlobal va || (op == 1 && !isGlobal second)

/-- The status of a SHARE of q's frame with p's page (R126, R349). -/
def shareStatus (s : State) (p q : PageEntry) : Nat :=
  if sameFrame p q then 0
  else if !q.rd || !p.w then 2
  else if p.large != q.large || p.key != q.key || p.cls != q.cls then 3
  else if q.share == 1023 then 4
  else if p.home == q.home then 0
  else if q.mod == s.modNo then (if (entryHome s q).any (fun h => 1024 ≤ (s.core h).vaultMap.length) then 4 else 0)
  else if Config.remoteFull q.home s.free then 4
  else 0

/-- A home in another module has been asked whether its vault map has room (log entry 8). -/
def State.askedHome (s : State) (q : PageEntry) : State := if q.mod == s.modNo then s else { s with free := s.free + 1 }

/-- SHARE: the first page leaves its frame for the second's (Table 4.18). -/
def State.sharePage (s : State) (p q : PageEntry) : State :=
  let s1 := s.removePage p
  let p' := { q with job := p.job, vpn := p.vpn, pin := p.pin, rd := p.rd, w := p.w, cls := p.cls, key := p.key, cow := true }
  let s2 := (s1.addPage p' .write).updPage q.job q.vpn (fun x => { x with cow := true })
  let s3 := s2.setShare (frameSharers s2 q) (q.share.toNat + 1)
  if p.mod == q.mod && p.core == q.core then s3 else s3.shoot p.job p.vpn

/-- UNMAP of a page that is mapped and not pinned. -/
def State.unmapEntry (s : State) (p : PageEntry) : State := (s.removePage p).shoot p.job p.vpn

/-- A copy of which blocks have been performed and others are still to come. -/
def Body.begun : Body → Bool
  | .tileRead _ _ done one _ _ => 0 < done || one
  | .tileWrite _ _ done one _ _ _ => 0 < done || one
  | _ => false

/-- A copy has performed a part of its run in a page: what would change the page's checks waits until the run has ended, so that a page
that fails a check has no block written (R172 to R174; log entry 11). -/
def runOn (s : State) (job : BitVec 24) (vpn : BitVec 33) : Bool :=
  let mine := fun (m : Msg) => m.body.begun && heldFor [(job, vpn)] m
  s.net.any mine || s.cores.any (fun k => k.2.msgs.any mine)

/-- One PMAP: its result, and the state; none when it waits. -/
def pmapRun (s : State) (job : BitVec 24) (va : Word) (op : BitVec 4) (arg : BitVec 8) (second : Word) (bad : Bool) :
    Option (Word × State) :=
  if pmapBad va op second bad then some (5, s)
  else
    let p? := pageEntry s job (vpnOf va)
    let q? := pageEntry s job (vpnOf second)
    let upd := fun f => some ((0 : Word), s.updPage job (vpnOf va) f)
    if op == 0 then some (queryWord p?, s)
    else if busy p? || (op == 1 && busy q?) then none
    else if (4 ≤ op.toNat || op == 1) && (runOn s job (vpnOf va) || (op == 1 && runOn s job (vpnOf second))) then none
    else
      match p? with
      | none => some (1, s)
      | some p =>
        match op.toNat with
        | 1 =>
          match q? with
          | none => some (1, s)
          | some q =>
            let st := shareStatus s p q
            if st != 0 then some (BitVec.ofNat 64 st, s.askedHome q)
            else if sameFrame p q then some (0, s)
            else some (0, (s.askedHome q).sharePage p q)
        | 2 => if p.pin == 255 then some (4, s) else upd (fun x => { x with pin := x.pin + 1 })
        | 3 => if p.pin == 0 then some (5, s) else upd (fun x => { x with pin := x.pin - 1 })
        | _ =>
          if p.pin != 0 then some (5, s)
          else
            match op.toNat with
            | 4 =>
              let t := s.updPage job (vpnOf va) (fun x => { x with rd := arg.getLsbD 0, w := arg.getLsbD 1 })
              some (0, if (p.rd && !arg.getLsbD 0) || (p.w && !arg.getLsbD 1) then t.shoot job (vpnOf va) else t)
            | 5 => some (0, (s.updPage job (vpnOf va) (fun x => { x with key := arg.extractLsb' 0 6 })).shoot job (vpnOf va))
            | _ => some (0, s.unmapEntry p)

/-- PMAP_PERFORM. -/
def State.performPmap (s : State) (c : Nat) : State :=
  match s.work c with
  | some m =>
    match m.body with
    | .page (.pmap va op arg second bad) replyTo =>
      match pmapRun s m.src.job va op arg second bad with
      | some (x, t) => ((t.pageStatus c m.src.job m.src replyTo x).endActivation c).wakePages
      | none => s.pageHold c m
    | _ => s
  | none => s

def execPmapPerform (c : Nat) (s : State) : Res := .next (s.performPmap c)

/-! ### Rehoming (R354 to R357, R485): how one begins -/

/-- The blocks among eight of a frame that are uncorrectable. -/
def badBlocks (s : State) (key : Nat) : List Nat := if s.bad.isEmpty then [] else (List.range 8).filter (fun i => s.bad.contains (key + 64 * i))

/-- The copy message with an index, from an old home to the new one (R354 step 4). -/
def State.sendCopy (s : State) (c : Nat) (r : Rehome) (index : Nat) : State :=
  let key := vaultKey c (frameOff r.oldFrame) + 512 * index
  (s.correctedIn key 512).post (s.dstOf r.newHome) 7 ⟨c, 4, 0, r.job, 0, 0⟩
    (.rehomeCopy r.job r.vpn c index (s.mem.readBytes key 512) (badBlocks s key))

/-- The copy messages of a frame. -/
def copyMessages (large : Bool) : Nat := pageSize large / 512

/-- The coins of one copy message (R356): eight blocks read and written, and its nine flits. -/
def copyCoins (s : State) (c : Nat) (r : Rehome) : Nat := 640 + 9 * dstHops s c (s.dstOf r.newHome)

/-- Step 2 of Table 13.3: the entries of the pages are marked moving. -/
def State.markMoving (s : State) (pages : List (BitVec 24 × BitVec 33)) : State :=
  pages.foldl (fun t x => t.updPage x.1 x.2 (fun y => { y with st := 2 })) s

/-- An entry as a new home has it. -/
def PageEntry.homedAt (p : PageEntry) (id : BitVec 26) (f : BitVec 8) : PageEntry :=
  { p with mod := id.extractLsb' 18 8, core := id.extractLsb' 0 18, frame := f }

/-- Step 2 of Table 13.3 at the new home: its vault map takes the entries in state moving. -/
def State.enterMoving (s : State) (c : Nat) (entries : List PageEntry) (id : BitVec 26) (f : BitVec 8) : State :=
  let moved := entries.map (fun y => y.homedAt id f)
  match s.ofId id with
  | some d => s.updCore d (fun k => { k with vaultMap := k.vaultMap ++ moved })
  | none => moved.foldl (fun t y => t.tellHome c y .write) s

/-- Step 3 of Table 13.3 and the first copy message, at the old home. -/
def State.beginCopy (s : State) (p : PageEntry) (h : Nat) (id : BitVec 26) (f : BitVec 8) (payer : Option (BitVec 24))
    (reply : Option (Req × Option Word)) (pages : List (BitVec 24 × BitVec 33)) : State :=
  let r : Rehome := ⟨(s.core h).nextOp, p.job, p.vpn, id, f, p.frame, p.large, 0, 4, pages, reply, false, 0, payer⟩
  (s.updCore h (fun k => { k with rehomes := k.rehomes ++ [r], nextOp := k.nextOp + 1 })).sendCopy h r 0

/-- Steps 1 to 3 of Table 13.3, and the first copy message: every page of the frame moves. -/
def State.startMove (s : State) (p : PageEntry) (h : Nat) (id : BitVec 26) (f : BitVec 8) (payer : Option (BitVec 24))
    (reply : Option (Req × Option Word)) : State :=
  let pages := sharers s h p.large p.frame
  let s1 := s.markMoving pages
  (s1.enterMoving h ((s1.core h).vaultMap.filter (fun y => pages.contains (y.job, y.vpn))) id f).beginCopy p h id f payer reply pages

/-- Steps 1 and 2 for a page homed in another module, whose home then begins the copy (log entry 8). -/
def State.orderMove (s : State) (c : Nat) (p : PageEntry) (id : BitVec 26) (f : BitVec 8) (reply : Option (Req × Option Word)) : State :=
  let pages := frameSharers s p
  let s1 := s.markMoving pages
  (s1.enterMoving c (pages.filterMap (fun x => pageEntry s1 x.1 x.2)) id f).tellHome c { p with st := 2 } (.move id f reply)

/-- Every page of a frame is mapped and not pinned (R485). -/
def movable (s : State) (pages : List (BitVec 24 × BitVec 33)) : Bool :=
  pages.all (fun x => (knownPage s x.1 x.2).any (fun y => y.st == 1 && y.pin == 0))

/-- A tile instruction of a home has a row step of some page in flight, which is performed before the page moves (R355). -/
def rowInFlight (s : State) (h : Nat) (pages : List (BitVec 24 × BitVec 33)) : Bool :=
  (s.core h).slots.toList.any (fun l =>
    match l.tile with
    | some t => t.data.any (fun d => pages.contains (l.jobid, vpnOf d.va))
    | none => false)

/-- The pages of a frame can begin to move now. -/
def canMove (s : State) (h : Nat) (pages : List (BitVec 24 × BitVec 33)) : Bool :=
  movable s pages && !rowInFlight s h pages && !(s.core h).teller.act.any (fun a => a.msg.body.va.any (fun v => pages.contains (a.msg.src.job, vpnOf v)))

/-- A frame for some pages at a new home: one of this module with room in its vault map, or one that another module's core gives. -/
def State.newFrame (s : State) (home : BitVec 26) (large : Bool) (n : Nat) : Option (BitVec 8 × State) :=
  match s.ofId home with
  | some d => if mapRoom s d n then s.pick (freeFrames s d large) else none
  | none =>
    if home.extractLsb' 18 8 == s.modNo || !s.isReachable home then none
    else (Config.remoteFrame home s.free).map (fun f => (f, { s with free := s.free + 1 }))

/-! ### MAP and UNMAP (R366) -/

/-- A VPN of the global virtual space (Table 13.1). -/
def vpnValid (v : BitVec 33) : Bool :=
  if vpnLarge v then 2 ^ 26 ≤ v.toNat - 2 ^ 32 && v.toNat - 2 ^ 32 < 2 ^ 27 else 2 ^ 16 ≤ v.toNat && v.toNat < 2 ^ 31

/-- An entry of a page of another module's job put into a vault map, which holds 1 024 entries (R348). -/
def State.putEntry (s : State) (c : Nat) (p : PageEntry) : State :=
  s.updCore c (fun k =>
    let others := k.vaultMap.filter (fun y => !(y.job == p.job && y.vpn == p.vpn))
    if others.length < 1024 then { k with vaultMap := others ++ [p] } else k)

/-- What the other end of a page in two modules asks, done at a home or a clearing core of this one (log entry 8). -/
def State.entryNews (s : State) (c : Nat) (p : PageEntry) (what : EntryNews) : State :=
  let isOurs := fun (y : PageEntry) => y.job == p.job && y.vpn == p.vpn
  match what with
  | .enter => (s.putEntry c p).clearBytes (vaultKey c (frameOff p.frame)) (pageSize p.large)
  | .write =>
    let t := s.putEntry c p
    if p.st == 1 then t.releaseHeld c [(p.job, p.vpn)] else t
  | .remove => s.updCore c (fun k => { k with vaultMap := k.vaultMap.filter (fun y => !isOurs y) })
  | .move home frame reply =>
    match findPage (s.core c).vaultMap p.job p.vpn with
    | none => s
    | some q => s.beginCopy q c home frame (some p.job) reply (sharers s c q.large q.frame)
  | .clearing move =>
    match findPage (s.core c).pages p.job p.vpn with
    | none => s
    | some q =>
      let q' := { q with mod := p.mod, core := p.core, frame := p.frame, share := p.share, cow := p.cow, st := p.st }
      let t := s.updCore c (fun k => { k with pages := k.pages.map (fun y => if isOurs y then q' else y) })
      (if q.home == p.home then t else t.shoot p.job p.vpn move).wakePages

/-- News that waits: a move of a page of which a tile instruction's row is in flight (R355). -/
def newsWaits (s : State) (c : Nat) (p : PageEntry) (what : EntryNews) : Bool :=
  match what with
  | .move _ _ _ => (findPage (s.core c).vaultMap p.job p.vpn).any (fun q => rowInFlight s c (sharers s c q.large q.frame))
  | _ => false

/-- MAP, and news of an entry from another module. -/
def State.performMap (s : State) (c : Nat) : State :=
  match s.work c with
  | some m =>
    match m.body with
    | .page (.map job vpn cls rd w key home) replyTo =>
      let done := fun (t : State) (x : Word) => (t.pageStatus c job m.src replyTo x).endActivation c
      if !vpnValid vpn || (pageEntry s job vpn).isSome then done s 5
      else
        match s.mapPage job vpn cls rd w key home with
        | some t => done t 0
        | none => done s 6
    | .entryAt p what => if newsWaits s c p what then s else (s.entryNews c p what).endActivation c
    | _ => s
  | none => s

def execMapPage (c : Nat) (s : State) : Res := .next (s.performMap c)

/-- UNMAP. -/
def State.performUnmap (s : State) (c : Nat) : State :=
  match s.work c with
  | some m =>
    match m.body with
    | .page (.unmap job vpn) replyTo =>
      match pmapRun s job (vpnBase vpn) 6 0 0 false with
      | some (x, t) => ((t.pageStatus c job m.src replyTo x).endActivation c).wakePages
      | none => s.pageHold c m
    | _ => s
  | none => s

def execUnmapPage (c : Nat) (s : State) : Res := .next (s.performUnmap c)

/-! ### Rehoming: its steps -/

/-- REHOME.  A page whose home is lost has no contents to move: the request meets R441's fault; one that would leave its module needs the
page's key (R365; log entry 12). -/
def State.performRehome (s : State) (c : Nat) : State :=
  match s.work c with
  | some m =>
    match m.body with
    | .page (.rehome job vpn home) replyTo =>
      let done := fun (t : State) (x : Word) => (t.pageStatus c job m.src replyTo x).endActivation c
      match pageEntry s job vpn with
      | none => done s (if vpnValid vpn then 1 else 5)
      | some p =>
        if busy (some p) then s.pageHold c m
        else if p.home == home then done s 0
        else if homeGone s p then s.handlerFault c 0 causeUNCORR 0 (vpnBase vpn)
        else if !movable s (frameSharers s p) then s.pageHold c m
        else if home.extractLsb' 18 8 != p.mod && !keyUsable s p.key job then s.handlerFault c 0 causePAGEFAULT 4 (vpnBase vpn)
        else
          match entryHome s p with
          | some h =>
            if !canMove s h (sharers s h p.large p.frame) then s
            else
              match s.newFrame home p.large (sharers s h p.large p.frame).length with
              | none => done s 6
              | some (f, t) => (t.startMove p h home f (some job) (some (m.src, replyTo))).endActivation c
          | none =>
            match s.newFrame home p.large (frameSharers s p).length with
            | none => done s 6
            | some (f, t) => (t.orderMove c p home f (some (m.src, replyTo))).endActivation c
    | _ => s
  | none => s

def execRehome (c : Nat) (s : State) : Res := .next (s.performRehome c)

/-- A copy message has been written at its new home, or has left for it: the next one leaves. -/
def State.copyNext (s : State) (old : Nat) (r : Rehome) (index : Nat) : State :=
  let last := index + 1 == copyMessages r.large
  let next := fun (x : Rehome) => { x with copied := index + 1, step := if last then 5 else 4 }
  let t := s.updCore old (fun k => { k with rehomes := mapFirst (fun x => x.job == r.job && x.vpn == r.vpn && x.step == 4) next k.rehomes })
  if last then t else t.sendCopy old r (index + 1)

/-- Eight blocks of a copy written: those that could not be read stay uncorrectable (R428). -/
def State.putCopy (s : State) (key : Nat) (bs : List Byte) (bad : List Nat) : State :=
  let t := s.putBytes key bs
  if bad.isEmpty then t else { t with bad := t.bad ++ bad.map (fun i => key + 64 * i) }

/-- A move whose copy cannot go on ends (R365, R480; log entry 8): the old home's entries are mapped again, the new home's are removed, the
requests that were held begin again, and the one who asked for it gets the fault. -/
def State.abortMove (s : State) (c : Nat) (r : Rehome) (f : FaultInfo) : State :=
  let isOurs := fun (y : PageEntry) => r.pages.contains (y.job, y.vpn)
  let moved := ((s.core c).vaultMap.filter isOurs).map (fun y => y.homedAt r.newHome r.newFrame)
  let s1 := s.updCore c (fun k => { k with rehomes := k.rehomes.filter (fun x => x.id != r.id) })
  let s2 := r.pages.foldl (fun t x => t.updPage x.1 x.2 (fun y => { y with st := 1 })) s1
  let s3 := match s.ofId r.newHome with
    | some d => s2.updCore d (fun k => { k with vaultMap := k.vaultMap.filter (fun y => !moved.contains { y with st := 2 }) })
    | none => moved.foldl (fun t y => t.tellHome c y .remove) s2
  let s4 := (s3.releaseHeld c r.pages).wakePages
  match r.reply with
  | some (q, none) => s4.post q.core 63 q (.deferred 0 (some f))
  | some (_, some a) => s4.toHubs (.told 8 a)
  | none => s4

/-- REHOME_COPY: eight blocks are written at the new home, at the old home's cost (R356), and the next message leaves.  One from
another module is paid for there, and written to the frame that the moving entry names. -/
def State.performCopy (s : State) (c : Nat) : State :=
  match s.work c with
  | some m =>
    match m.body with
    | .rehomeCopy job vpn old index bs bad =>
      if 2 ^ 20 ≤ old then
        match findPage (s.core c).vaultMap job vpn with
        | some p => (if p.st == 2 then s.putCopy (vaultKey c (frameOff p.frame) + 512 * index) bs bad else s).endActivation c
        | none => s.endActivation c
      else
        match (s.core old).rehomes.find? (fun r => r.job == job && r.vpn == vpn && r.step == 4) with
        | none => s.endActivation c
        | some r =>
          match s.payFor old r.payer (copyCoins s old r) with
          | none => s
          | some t => ((t.putCopy (vaultKey c (frameOff r.newFrame) + 512 * index) bs bad).copyNext old r index).endActivation c
    | .moveFail job vpn f =>
      (match (s.core c).rehomes.find? (fun (r : Rehome) => r.job == job && r.vpn == vpn && !r.cow && (r.step == 4 || r.step == 5)) with
        | none => s
        | some r => s.abortMove c r f).endActivation c
    | _ => s
  | none => s

def execRehomeCopy (c : Nat) (s : State) : Res := .next (s.performCopy c)

/-- The oldest request held at an old home for some pages goes on to the new one, when the old home's purse covers it (step 5). -/
def State.forwardHeld (s : State) (c d : Nat) (pages : List (BitVec 24 × BitVec 33)) : State :=
  match takeFirst (heldFor pages) (s.core c).held with
  | none => s
  | some (m, rest) => ((s.updCore c (fun k => { k with held := rest })).sendOn c d m).getD s

/-- Reservations move with their page. -/
def State.moveResvs (s : State) (c d : Nat) (pages : List (BitVec 24 × BitVec 33)) : State :=
  let isOurs := fun (r : Resv) => pages.contains (r.job, vpnOf r.va)
  let mine := (s.core c).resvs.filter isOurs
  (s.updCore c (fun k => { k with resvs := k.resvs.filter (fun r => !isOurs r) })).updCore d (fun k => { k with resvs := k.resvs ++ mine })

/-- A move at an old home goes to another step of Table 13.3. -/
def State.stepMove (s : State) (c id n acks : Nat) : State :=
  s.updCore c (fun k => { k with rehomes := mapFirst (fun x => x.id == id) (fun x => { x with step := n, acks := acks }) k.rehomes })

/-- The first part of step 5: the new home's entries are mapped, the requests held there go on, and the stubs are installed. -/
def State.mapMoved (s : State) (c : Nat) (r : Rehome) : State :=
  let at1 := fun (y : PageEntry) => if r.pages.contains (y.job, y.vpn) then { y with st := (1 : BitVec 3) } else y
  let s1 : State := match s.ofId r.newHome with
    | some d => (s.updCore d (fun k => { k with vaultMap := k.vaultMap.map at1 })).releaseHeld d r.pages
    | none => ((s.core c).vaultMap.filter (fun y => r.pages.contains (y.job, y.vpn))).foldl (fun (t : State) (y : PageEntry) =>
        t.tellHome c { y.homedAt r.newHome r.newFrame with st := 1 } .write) s
  (s1.updCore c (fun k => { k with stubs := k.stubs ++ r.pages.map (fun x => Stub.page x.1 x.2 r.newHome) })).stepMove c r.id 6 0

/-- Step 6 of Table 13.3 for one page: its clearing core enters the new home, which a clearing core in another module is told of. -/
def State.enterHome (s : State) (c : Nat) (p : PageEntry) (move : Option (Nat × Nat)) : State :=
  if clearsHere s p.job then
    s.updCore (clearingCore s p.job p.vpn) (fun k => { k with pages := k.pages.map (fun y =>
      if y.job == p.job && y.vpn == p.vpn then
        { y with mod := p.mod, core := p.core, frame := p.frame, share := p.share, cow := p.cow, st := p.st }
      else y) })
  else s.tellClearing c p move

/-- The end of step 5 and step 6, once no request is held: the old home's entries are removed, and the clearing cores enter the new
home and start the shoot-downs. -/
def State.endMove (s : State) (c : Nat) (r : Rehome) : State :=
  let isOurs := fun (y : PageEntry) => r.pages.contains (y.job, y.vpn)
  let entries := (s.core c).vaultMap.filter isOurs
  let s1 := (s.updCore c (fun k => { k with vaultMap := k.vaultMap.filter (fun y => !isOurs y) })).stepMove c r.id 7 r.pages.length
  let s2 := entries.foldl (fun t y => t.enterHome c { y.homedAt r.newHome r.newFrame with st := 1 } (some (c, r.id))) s1
  let s3 := match s.ofId r.newHome with
    | some d => s2.moveResvs c d r.pages
    | none => s2
  let s4 := (r.pages.filter (fun x => clearsHere s x.1)).foldl (fun t x => t.shoot x.1 x.2 (some (c, r.id))) s3
  match r.reply with
  | some q => s4.pageStatus c r.job q.1 q.2 0
  | none => s4

/-- A request for some pages is on its way to a core or waits there: the entry names the new home only after it, so that the requests of
one slot keep their order (R259, R353). -/
def requestsDue (s : State) (c : Nat) (pages : List (BitVec 24 × BitVec 33)) : Bool :=
  s.net.any (fun m => m.dst == c && heldFor pages m) || (s.core c).msgs.any (heldFor pages)

/-- The new home has room for the reservations that move with some pages (R179). -/
def resvRoom (s : State) (c : Nat) (home : BitVec 26) (pages : List (BitVec 24 × BitVec 33)) : Bool :=
  match s.ofId home with
  | none => true
  | some d =>
    d == c || resvRecords (s.core d) +
      resvRecords { Core.reset with resvs := (s.core c).resvs.filter (fun r => pages.contains (r.job, vpnOf r.va)) } ≤ 64

/-- REHOME_STUB: step 5 when the stub table has room (R357), then the held requests one by one, then step 6. -/
def State.performStub (s : State) (c : Nat) : State :=
  match (s.core c).rehomes.find? (fun r => (r.step == 5 || r.step == 6) && !r.cow) with
  | none => s
  | some r =>
    if r.step == 5 then (if (s.core c).stubs.length + r.pages.length ≤ 64 then s.mapMoved c r else s)
    else if (s.core c).held.any (heldFor r.pages) then s.forwardHeld c (s.dstOf r.newHome) r.pages
    else if requestsDue s c r.pages || !resvRoom s c r.newHome r.pages then s
    else (s.endMove c r).wakePages

def execRehomeStub (c : Nat) (s : State) : Res := .next (s.performStub c)

/-- The oldest stub of a page to a home freed. -/
def dropStub (page : BitVec 24 × BitVec 33) (home : BitVec 26) (xs : List Stub) : List Stub :=
  match takeFirst (fun x : Stub => x == .page page.1 page.2 home) xs with
  | some (_, rest) => rest
  | none => xs

/-- REHOME_FREE: the shoot-downs of every page have been acknowledged (step 7). -/
def State.performFree (s : State) (c : Nat) : State :=
  match takeFirst (fun r : Rehome => r.step == 7 && r.acks == 0) (s.core c).rehomes with
  | none => s
  | some (r, rest) =>
    (s.updCore c (fun k => { k with
      rehomes := rest
      stubs := r.pages.foldl (fun xs y => dropStub y r.newHome xs) k.stubs })).wakePages

def execRehomeFree (c : Nat) (s : State) : Res := .next (s.performFree c)

/-! ### Copy-on-write (R364) -/

/-- COWBREAK at the clearing core: step 1.  A page whose home is lost meets R441's fault (log entry 12). -/
def State.performCowbreak (s : State) (c : Nat) : State :=
  match s.work c with
  | some m =>
    match m.body with
    | .page (.cowbreak job vpn) replyTo =>
      let done := fun (t : State) (x : Word) => (t.pageStatus c job m.src replyTo x).endActivation c
      match pageEntry s job vpn with
      | none => done s (if vpnValid vpn then 1 else 5)
      | some p =>
        if busy (some p) || runOn s job vpn then s.pageHold c m
        else if !p.cow then done s 0
        else if homeGone s p then s.handlerFault c 0 causeUNCORR 0 (vpnBase vpn)
        else ((s.updPage job vpn (fun y => { y with st := 2 })).post (s.dstOf p.home) 7 m.src (.cowBreak job vpn replyTo)).endActivation c
    | _ => s
  | none => s

def execCowbreak (c : Nat) (s : State) : Res := .next (s.performCowbreak c)

/-- KEEP: the page is the last that maps the frame. -/
def State.cowKeep (s : State) (c : Nat) (job : BitVec 24) (vpn : BitVec 33) : State :=
  (s.updPage job vpn (fun y => { y with st := 1, cow := false })).releaseHeld c [(job, vpn)]

/-- COPY: the share count falls, and the frame's copy to a new frame begins. -/
def State.cowCopy (s : State) (c d : Nat) (f : BitVec 8) (p : PageEntry) (reply : Req × Option Word) : State :=
  let others := (sharers s c p.large p.frame).filter (fun x => x != (p.job, p.vpn))
  let s1 := s.setShare others (p.share.toNat - 1)
  let r : Rehome := ⟨(s.core c).nextOp, p.job, p.vpn, s.coreId d, f, p.frame, p.large, 0, 4, [(p.job, p.vpn)], some reply, true, 0, some p.job⟩
  let id := s.coreId d
  let s2 := if c = d then s1 else s1.updCore d (fun k => { k with vaultMap := k.vaultMap ++
    [{ p.homedAt id f with share := 1, cow := false, st := 2 }] })
  (s2.updCore c (fun k => { k with rehomes := k.rehomes ++ [r], nextOp := k.nextOp + 1 })).sendCopy c r 0

/-- COW_BREAK_DECIDE at the frame's home: one break of a frame at a time. -/
def State.decideCow (s : State) (c : Nat) : State :=
  match s.work c with
  | some m =>
    match m.body with
    | .cowBreak job vpn replyTo =>
      match findPage (s.core c).vaultMap job vpn with
      | none => s.endActivation c
      | some p =>
        if copyBusy (s.core c) p then s.pageHold c m
        else if rowInFlight s c (sharers s c p.large p.frame) then s
        else if p.share.toNat ≤ 1 then ((s.cowKeep c job vpn).pageStatus c job m.src replyTo 0).endActivation c |>.wakePages
        else
          let place := if (freeFrames s c p.large).isEmpty then placeFrame s (classCore s job vpn p.cls) p.large else some c
          match (place.filter (fun d => d == c || mapRoom s d 1)).bind (fun d => (s.pick (freeFrames s d p.large)).map (fun x => (d, x))) with
          | none =>
            (((s.updPage job vpn (fun y => { y with st := 1 })).releaseHeld c [(job, vpn)]).pageStatus c job m.src replyTo 6).endActivation c
              |>.wakePages
          | some (d, f, t) => (t.cowCopy c d f p (m.src, replyTo)).endActivation c
    | _ => s
  | none => s

def execCowBreakDecide (c : Nat) (s : State) : Res := .next (s.decideCow c)

/-- COWBREAK_COPY_END at the frame's home: steps 4 and 5. -/
def State.endCow (s : State) (c : Nat) : State :=
  match takeFirst (fun r : Rehome => r.cow && r.step == 5) (s.core c).rehomes with
  | none => s
  | some (r, rest) =>
    match findPage (s.core c).vaultMap r.job r.vpn with
    | none => s.updCore c (fun k => { k with rehomes := rest })
    | some p =>
      let d := s.dstOf r.newHome
      let page := [(r.job, r.vpn)]
      if c != d && (s.core c).held.any (heldFor page) then s.forwardHeld c d page
      else if c != d && (requestsDue s c page || !resvRoom s c r.newHome page) then s
      else
      let p' := { p.homedAt r.newHome r.newFrame with share := 1, cow := false, st := 1 }
      let isOurs := fun (y : PageEntry) => y.job == r.job && y.vpn == r.vpn
      let s1 := s.updCore c (fun k => { k with rehomes := rest, vaultMap := k.vaultMap.filter (fun y => !isOurs y) })
      let s2 := s1.updCore d (fun k => { k with vaultMap := k.vaultMap.filter (fun y => !isOurs y) ++ [p'] })
      let s3 := s2.enterHome c p' none
      let left := sharers s3 c r.large r.oldFrame
      let s4 := match left with
        | [x] => s3.updPage x.1 x.2 (fun y => { y with cow := false })
        | _ => s3
      let s5 := (s4.releaseHeld c ((r.job, r.vpn) :: left)).releaseHeld d [(r.job, r.vpn)]
      let s6 := if c = d then s5 else s5.moveResvs c d [(r.job, r.vpn)]
      let s6 := if c = d || !clearsHere s r.job then s6 else s6.shoot r.job r.vpn
      (match r.reply with
        | some q => s6.pageStatus c r.job q.1 q.2 0
        | none => s6).wakePages

def execCowbreakCopyEnd (c : Nat) (s : State) : Res := .next (s.endCow c)

/-! ### Rebuilding a lost clearing core's entries (R440) -/

/-- An entry is one that a move has put at its new home and that the clearing core does not name yet. -/
def comingHere (s : State) (p : PageEntry) : Bool :=
  s.cores.any (fun k => s.coreId k.1 != p.home &&
    k.2.rehomes.any (fun r => r.step < 7 && r.newHome == p.home && r.pages.contains (p.job, p.vpn)))

/-- PAGE_ENTRY_REBUILD: the entries on the spare core are those of every vault map of the module; of a page that moves, its old home's. -/
def State.rebuildPages (s : State) (c : Nat) : State :=
  if !(s.core c).rebuilding then s
  else
    let mine := fun (p : PageEntry) => clearingCore s p.job p.vpn == c && !comingHere s p && !((s.core c).pages.any (fun q => q.job == p.job && q.vpn == p.vpn))
    let found := (s.cores.map (fun k => k.2.vaultMap.filter mine)).flatten
    s.updCore c (fun k => { k with pages := k.pages ++ found, rebuilding := false })

def execPageEntryRebuild (c : Nat) (s : State) : Res := .next (s.rebuildPages c)

end Machine

end Sys2Proof
end

