-- ==== Sys2Proof/Machine/Sync.lean ====
section
/-!
DEFINITION. Fences, barriers and batches (06_memory_messages.md, R167 to R170, R185 to R190).
-/
namespace Sys2Proof.Machine

/-- FENCE (R185): kind 1 acquire, 2 release, 3 both. -/
def execFence (k : BitVec 2) (z : BitVec 3) (s : State) : Res :=
  if fenceDone s z.toNat (k.getLsbD 0) (k.getLsbD 1) then finish s 2 id else notReady s

/-- The barrier number of a field. -/
def barNo (n : BitVec 4) : Fin 16 := n.toFin

/-- A slot's ticket for a barrier of its core (R186). -/
def State.setTicket (s : State) (n : Fin 16) (p : Option (BitVec 32)) : State :=
  if s.isTeller then s else s.updSlot (fun l => { l with tickets := l.tickets.set n p n.isLt })

def execBinit (d a b : BitVec 5) (n : BitVec 4) (s : State) : Res :=
  let mm := (s.g d).extractLsb' 0 8
  let bar := s.barrier s.curCore (barNo n)
  if 2 ^ 24 ≤ (s.g a).toNat || 2 ^ 40 ≤ (s.g b).toNat || 2 ^ 8 ≤ (s.g d).toNat || mm.getLsbD (octetPos s.curCore) then
    trapped s causeBARRIER 1 (n.zeroExtend 64)
  else
    match inactivePos s s.curCore mm with
    | some x => trapped s causeREMOTEREF 2 (positionVal s x)
    | none =>
      finish s 2 (fun p => p.setBarrier s.curCore (barNo n)
        { bar with ea := (s.g a).extractLsb' 0 24, eb := (s.g b).extractLsb' 0 40, ca := 0, cb := 0, dr := 0, mm := mm })

/-- A local arrival, with or without a drop: the ticket is the phase it counted in (R188). -/
def arriveLocal (s : State) (n : BitVec 4) (dr : Nat) : Res :=
  let ph := (s.barSum s.curCore (barNo n)).base.p
  finish s 2 (fun p => (p.setTicket (barNo n) (some ph)).barrierUpdate s.curCore (barNo n) 1 0 dr)

def execArrive (a : BitVec 5) (n : BitVec 4) (s : State) : Res :=
  let c := (s.g a).extractLsb' 0 26
  if !fenceDone s 3 false true then notReady s
  else if a = 0 || c = s.coreId s.curCore then arriveLocal s n 0
  else if !s.isReachable c then trapped s causeREMOTEREF 2 (c.zeroExtend 64)
  else if !s.isTeller && !s.canJoin then notReady s
  else
    finish s (2 + s.hopsTo c) (fun p =>
      let q := if s.isTeller then p
        else p.startOp .sent (c.zeroExtend 64) (encode (.arrive a n)) .none none 1 none
      q.post (s.placeOf c) 8 (s.me s.nextOpId) (.arrive (barNo n)))

def execArrdrop (n : BitVec 4) (s : State) : Res :=
  if !fenceDone s 3 false true then notReady s else arriveLocal s n 1

/-- A co-resident launch holds a unit's first BWAIT until all of its units are placed, and again after a
restore (R323). -/
def coresidentHold (s : State) : Bool :=
  s.slot.firstBwait && s.dist.launches.any (fun l => l.num == s.slot.launchid && l.desc.coresident &&
    (l.next < l.desc.units || !l.saved.isEmpty))

/-- An instruction that waits (R40 item 6): it issues for two coins, and retires at once or when its wait is over. -/
def waitFor (s : State) (ready : Bool) (fin : State → State) : Res :=
  if s.slot.waiting then
    if ready then .next ((fin (s.updSlot (fun l => { l with waiting := false }))).retire s) else notReady s
  else
    paying s 2 (fun p => if ready then .next ((fin p).retire s) else .next (p.updSlot (fun l => { l with waiting := true })))

/-- BWAIT (R190): a pending fault record of an operation that credits the barrier traps first. -/
def execBwait (n : BitVec 4) (s : State) : Res :=
  let b := barNo n
  let cur := (s.barrier s.curCore b).p
  let t := match s.slot.bwait with
    | some w => w.2
    | none => (s.slot.tickets.get b).getD cur
  let q := s.updSlot (fun l => { l with bwait := some (b, t) })
  let done := cur != t && !coresidentHold s
  let fin := fun p : State => (p.setTicket b none).updSlot (fun l => { l with bwait := none, firstBwait := false })
  if s.isTeller then illegal s (.bwait n)
  else
    match s.slot.fault with
    | some r => if r.barrier == some b then .next (s.trapRecord r) else waitFor q done fin
    | none => waitFor q done fin

def execBtest (d : BitVec 5) (n : BitVec 4) (s : State) : Res :=
  let b := s.barrier s.curCore (barNo n)
  let x := BitVec.ofNat 64 (b.p.toNat + (b.ea.toNat - b.ca) * 2 ^ 32)
  finish s 2 (fun p => ((p.logged 5 (bytesOf 8 x.toNat)).setTicket (barNo n) (some b.p)).setG d x)

def execAbatch (s : State) : Res :=
  if s.isTeller then illegal s .abatch else finish s 2 (fun p => p.closeBatch)

/-- Some operation of the executing slot in a batch below a number is not complete. -/
def batchesLive (s : State) (below : Nat) : Bool :=
  s.here.ops.any (fun o => o.slot == s.curSlotNo && !o.failed && o.batch < below)

/-- AWAIT (R169): the open batch is closed, then every batch but the n newest must be complete; a fault record of a batch
waited for traps (R170). -/
def execAwait (n : BitVec 3) (s : State) : Res :=
  if s.isTeller then illegal s (.await n)
  else
    let q := s.closeBatch
    let below := q.slot.batch - n.toNat
    match s.slot.fault with
    | some r =>
      if r.batch < below then .next (q.trapRecord r) else waitFor q (!batchesLive q below) id
    | none => waitFor q (!batchesLive q below) id

end Sys2Proof.Machine
end

