-- ==== Sys2Proof/Machine/Work.lean ====
section
/-!
DEFINITION. The work, energy and collective instructions as they issue (07_matrix_spans_work.md, R213 to R227); the
distributor performs their requests in machine steps (Machine/Root.lean).
-/
namespace Sys2Proof.Machine

/-- A request of class D (R194): the operation joins the open batch and the request, read from n bytes at a local address, goes to the
root. -/
def request (s : State) (i : Instr) (coins : Nat) (d : Dest) (deferred : Bool) (addr : Word) (r : Req → RootReq)
    (base : Word := 0) (n : Nat := 0) : Res :=
  if !s.canJoin then notReady s
  else
    finish s coins (fun p =>
      ((p.correctedLocal s.curCore base.toNat n).startOp (if deferred then .result else .sent) addr (encode i) d none 1 none).toRoot (r (s.me s.nextOpId)))

/-- An instruction whose record of n bytes lies at the local address g[a], a multiple of `align`. -/
def recordOp (s : State) (i : Instr) (a d : BitVec 5) (n align coins : Nat) (r : Req → List Byte → RootReq) : Res :=
  if s.isTeller then illegal s i
  else
    match recordCheck s (s.g a) n align with
    | some e => stopped s e
    | none =>
      request s i coins (destG d) true (s.g a) (fun q => r q (readLocal s s.curCore (s.g a).toNat n)) (s.g a) n

/-- An operand that holds a number in [31:0] (R213). -/
def numbered (s : State) (i : Instr) (x : Word) (k : Res) : Res :=
  if s.isTeller then illegal s i
  else if x.extractLsb' 32 32 != 0 then trapped s causeLAUNCH 3 x
  else k

/-- LAUNCH (R214): a release at scope .sys. -/
def execLaunch (d a : BitVec 5) (s : State) : Res :=
  if s.isTeller || releaseDone s 4 then recordOp s (.launch d a) a d 128 64 40 (fun q bs => .launch q bs)
  else notReady s

/-- A launch of a job, by number. -/
def findLaunch (s : State) (job : BitVec 24) (n : BitVec 32) : Option Launch :=
  s.dist.launches.find? (fun l => l.num == n && l.desc.job == job)

/-- A launch has ended: states 3, 4 and 5 (R307). -/
def Launch.ended (l : Launch) : Bool := 3 ≤ l.st && l.st ≤ 5

/-- What a unit sees of a launch: whether it has ended; of a job that was opened on another module, as that module has it in this cycle
(log entry 8). -/
def endedOf (s : State) (job : BitVec 24) (n : BitVec 32) : Option Bool :=
  if clearingMod s job == s.modNo then (findLaunch s job n).map Launch.ended else Config.remoteEnded (clearingMod s job) n s.cycle

/-- LWAIT (R215). -/
def execLwait (a : BitVec 5) (s : State) : Res :=
  let x := s.g a
  numbered s (.lwait a) x (
    if x.extractLsb' 0 32 = s.slot.launchid then trapped s causeLAUNCH 2 x
    else
      match endedOf s s.slot.jobid (x.extractLsb' 0 32) with
      | none =>
        if s.slot.waiting then trapped s causeLAUNCH 1 x else paying s 2 (fun p => trapped p causeLAUNCH 1 x)
      | some e => waitFor s e id)

/-- LCANCEL (R216). -/
def execLcancel (a : BitVec 5) (l : BitVec 3) (s : State) : Res :=
  let x := s.g a
  let i := Instr.lcancel a l
  numbered s i x (request s i 10 .none false x (fun q => .cancel q l.toNat (x.extractLsb' 0 32)))

/-- LSTAT (R217). -/
def execLstat (d a : BitVec 5) (s : State) : Res :=
  let x := s.g a
  let i := Instr.lstat d a
  numbered s i x (request s i 10 (destG d) true x (fun q => .lstat q (x.extractLsb' 0 32)))

/-- TREG (R218). -/
def execTreg (d a : BitVec 5) (s : State) : Res := recordOp s (.treg d a) a d 64 64 10 (fun q bs => .treg q bs)

/-- PURSE (R220). -/
def execPurse (d a : BitVec 5) (s : State) : Res :=
  if s.isTeller then illegal s (.purse d a)
  else request s (.purse d a) 10 (destG d) true (s.g a) (fun q => .purse q (s.g a))

/-- SUBS (R221). -/
def execSubs (d a : BitVec 5) (s : State) : Res := recordOp s (.subs d a) a d 32 32 10 (fun q bs => .subs q bs)

/-- UNSUBS (R222). -/
def execUnsubs (a : BitVec 5) (s : State) : Res :=
  let x := s.g a
  if s.isTeller then illegal s (.unsubs a)
  else if x.extractLsb' 8 56 != 0 then trapped s causeILLOP 9 x
  else request s (.unsubs a) 10 .none false x (fun q => .unsubs q (x.extractLsb' 0 8))

/-- CRINIT (R224). -/
def execCrinit (d a : BitVec 5) (s : State) : Res := recordOp s (.crinit d a) a d 64 64 10 (fun q bs => .crinit q bs)

/-- CRADD (R225): the contribution is read as SEND reads its payload. -/
def execCradd (a b : BitVec 5) (s : State) : Res :=
  let x := s.g a
  let k := (x.extractLsb' 26 4).toNat
  let pay := s.g b
  if s.isTeller then illegal s (.cradd a b)
  else if x.extractLsb' 30 34 != 0 || k = 0 || 8 < k then trapped s causeBARRIER 1 x
  else if pay.toNat % 64 ≠ 0 then trapped s causeMISALIGN 0 pay
  else
    match localRange s pay (64 * k) true with
    | some e => stopped s e
    | none =>
      let slot := (x.extractLsb' 0 16).toNat
      let num := (x.extractLsb' 16 10).toNat
      let data := readLocal s s.curCore pay.toNat (64 * k)
      request s (.cradd a b) (2 + 20 * k) .none false x (fun q => .cradd q slot num k data) pay (64 * k)

/-- A reduction of a job, by number. -/
def findReduction (s : State) (job : BitVec 24) (n : BitVec 10) : Option Reduction :=
  s.dist.reductions.find? (fun r => r.num == n && r.job == job)

/-- What a unit sees of a reduction: its completed rounds and whether it has failed; of one whose engine sits on another module, as that
module has it in this cycle (log entry 8). -/
def roundsOf (s : State) (job : BitVec 24) (n : BitVec 10) : Option (Nat × Bool) :=
  if clearingMod s job == s.modNo then (findReduction s job n).map (fun r => (r.round, r.failed))
  else Config.remoteRounds (clearingMod s job) job n s.cycle

/-- A round has completed (R227). -/
def roundDone (c r : Nat) : Bool :=
  let d := (c + 65536 - r) % 65536
  1 ≤ d && d ≤ 32767

/-- CRWAIT (R227). -/
def execCrwait (a : BitVec 5) (s : State) : Res :=
  let x := s.g a
  let stop := fun (sub : BitVec 8) =>
    if s.slot.waiting then trapped s causeBARRIER sub x else paying s 2 (fun p => trapped p causeBARRIER sub x)
  if s.isTeller then illegal s (.crwait a)
  else
    match roundsOf s s.slot.jobid (x.extractLsb' 16 10) with
    | none => stop 2
    | some r => if r.2 then stop 4 else waitFor s (roundDone (r.1 % 65536) (x.extractLsb' 0 16).toNat) id

end Sys2Proof.Machine
end

