-- ==== Sys2Proof/Machine/Dist.lean ====
section
/-!
DEFINITION. What the distributor's steps share: replies to the hubs, reads and writes of a job's pages, completion counters, and
the end of a launch (12_launch_scheduling.md, R306 to R314, R331 to R338; 07, R216, R217).
-/
namespace Sys2Proof.Machine

/-! ### Command ports (Tables 12.7 and 12.8) -/

def State.port (s : State) (h : Hub) : Port := match h with | .a => s.portA | .b => s.portB

def State.setPort (s : State) (h : Hub) (p : Port) : State :=
  match h with
  | .a => { s with portA := p }
  | .b => { s with portB := p }

/-- An index of a ring moved by one. -/
def ringNext (i : BitVec 12) (size : BitVec 13) : BitVec 12 := if i.toNat + 1 = size.toNat then 0 else i + 1

/-- A size that a ring may have (Table 12.7); a ring of another size is empty and has no room (log entry 52). -/
def ringOk (size : BitVec 13) : Bool := [16, 32, 64, 128, 256, 512, 1024, 2048, 4096].contains size.toNat

/-- The reply ring has room for a reply. -/
def replyRoom (p : Port) : Bool := ringOk p.rqsize && ringNext p.rqtail p.rqsize != p.rqhead

/-- A port has a command that the device may read: the port is on and its reply ring has room (R337). -/
def portReady (s : State) (h : Hub) : Bool :=
  let p := s.port h
  8 ≤ s.bootStep && ringOk p.cqsize && p.cqhead != p.cqtail && p.owed.isEmpty && replyRoom p

/-- Replies that wait are written into the ring as far as it has room. -/
def State.flushReplies (s : State) (h : Hub) : List (List Byte) → State
  | [] => s.setPort h { s.port h with owed := [] }
  | r :: rest =>
    let p := s.port h
    if replyRoom p then
      let s1 := s.setPort h { p with rqtail := ringNext p.rqtail p.rqsize }
      State.flushReplies { s1 with mem := hubPut s1.mem h (p.rqbase.toNat + 32 * p.rqtail.toNat) r } h rest
    else s.setPort h { p with owed := r :: rest }

/-- A reply of 32 bytes (Table 12.8). -/
def State.hubReply (s : State) (h : Hub) (tag : BitVec 32) (status : Nat) (value : Word) : State :=
  s.flushReplies h ((s.port h).owed ++
    [bytesOf 4 tag.toNat ++ bytesOf 4 status ++ bytesOf 8 value.toNat ++ List.replicate 16 0])

/-! ### Reads and writes of a job's pages -/

/-- What a read or write of the distributor meets. -/
inductive Glob (α : Type) where
  | ok (x : α)
  | fault (f : FaultInfo)
  /-- A page is moving. -/
  | wait

/-- A page of a job for the distributor: its memory key, when it lies in this module and is mapped. -/
def globKey (s : State) (job : BitVec 24) (va : Word) (w : Bool) : Glob Nat :=
  if !isGlobal va then .fault ⟨causeLOCALBOUND, 0, va⟩
  else
    match pageEntry s job (vpnOf va) with
    | none => .fault ⟨causePAGEFAULT, 1, va⟩
    | some p =>
      if p.st == 2 || p.st == 3 then .wait
      else if (if w then !p.w else !p.rd) then .fault ⟨causePAGEFAULT, 2, va⟩
      else if w && p.cow then .fault ⟨causePAGEFAULT, 3, va⟩
      else if homeGone s p then .fault ⟨causeUNCORR, 0, va &&& ~~~63⟩
      else
        match entryHome s p with
        | some c => .ok (vaultKey c (vaultOff p va))
        | none => .fault ⟨causeREMOTEREF, 2, va⟩

/-- The entry of a page that a home in another module, which can be reached, holds and lets be read or written (R341). -/
def globAway (s : State) (job : BitVec 24) (va : Word) (w : Bool) : Option PageEntry :=
  (pageEntry s job (vpnOf va)).filter (fun p => isGlobal va && p.mod != s.modNo && p.st == 1 && (if w then p.w && !p.cow else p.rd) &&
    s.isReachable p.home)

/-- n bytes at a job's address from a home in another module, block by block (log entry 8). -/
def awayBytes (s : State) (p : PageEntry) (va : Word) (n : Nat) : List Byte :=
  (List.range (n / 64)).flatMap (fun i => bytesOf 64 (Config.remoteBlock p.home p.job (va + BitVec.ofNat 64 (64 * i)) s.cycle))

/-- Reads of 64-byte blocks from an address upward. -/
def globBlocks (s : State) (job : BitVec 24) : Nat → Word → Glob (List Byte)
  | 0, _ => .ok []
  | n + 1, va =>
    let block : Glob (List Byte) :=
      match globKey s job va false with
      | .fault f =>
        match globAway s job va false with
        | some p => .ok (awayBytes s p va 64)
        | none => .fault f
      | .wait => .wait
      | .ok k => if s.bad.contains k then .fault ⟨causeUNCORR, 0, va⟩ else .ok (s.mem.readBytes k 64)
    match block with
    | .ok b =>
      match globBlocks s job n (va + 64) with
      | .ok r => .ok (b ++ r)
      | e => e
    | e => e

/-- What such reads find: each correctable block counts (R426), and the first uncorrectable one, which ends them, is reported (R428). -/
def State.globFound (s : State) (job : BitVec 24) : Nat → Word → State
  | 0, _ => s
  | n + 1, va =>
    match globKey s job va false with
    | .ok k => if s.bad.contains k then s.foundBad k else (s.corrected k).globFound job n (va + 64)
    | _ => s.globFound job n (va + 64)

/-- Bytes of a job's pages from a 64-byte aligned address (R312, step 2). -/
def globRead (s : State) (job : BitVec 24) (va : Word) (n : Nat) : Glob (List Byte) :=
  match globBlocks s job ((n + 63) / 64) va with
  | .ok bs => .ok (bs.take n)
  | e => e

/-- An address of a job can be written (R221, R224): its page is mapped with W set and COW clear. -/
def globWritable (s : State) (job : BitVec 24) (va : Word) : Bool :=
  isGlobal va && (pageEntry s job (vpnOf va)).any (fun p => p.st != 3 && p.w && !p.cow)

/-! ### Launches, scopes and jobs -/

def State.updDist (s : State) (f : Dist → Dist) : State := { s with dist := f s.dist }

abbrev launchNo (s : State) (n : BitVec 32) : Option Launch := s.launchNo n

def State.updLaunch (s : State) (n : BitVec 32) (f : Launch → Launch) : State :=
  s.updDist (fun d => { d with launches := mapFirst (fun l : Launch => l.num == n) f d.launches })

def State.updJob (s : State) (j : BitVec 24) (f : Job → Job) : State :=
  s.updDist (fun d => { d with jobs := mapFirst (fun x : Job => x.num == j && !x.away) f d.jobs })

/-- The kernel image of a launch's units; that of a launch which another module's distributor holds is left open (log entry 8). -/
def codeOf (s : State) (n : BitVec 32) : List Byte := ((launchNo s n).map (fun l => l.code)).getD (Config.remoteImage n)

/-- A core's program store holds the image of a launch, and no load of another is to come. -/
def hasImage (s : State) (c : Nat) (n : BitVec 32) : Bool := (s.core c).image == some (codeOf s n) && (s.core c).imageDue.isNone

/-- A graph or phase of a job. -/
def findScope (s : State) (job : BitVec 24) (phase : Bool) (n : BitVec 32) : Option Scope :=
  s.dist.scopes.find? (fun x => x.job == job && x.phase == phase && x.num == n)

def State.updScope (s : State) (job : BitVec 24) (phase : Bool) (n : BitVec 32) (f : Scope → Scope) : State :=
  s.updDist (fun d => { d with scopes := mapFirst (fun x : Scope => x.job == job && x.phase == phase && x.num == n) f d.scopes })

/-- Every unit of the launch that has not exited is saved (R325). -/
def Launch.preempted (l : Launch) : Bool := l.next == l.desc.units && l.placed != 0 && l.saved.length == l.placed

/-- Table 7.10. -/
def Launch.stat (l : Launch) : Word :=
  BitVec.ofNat 64 ((if !l.ended && l.preempted then 6 else l.st) * 2 ^ 50 + l.placed * 2 ^ 25 + l.done)

/-- A number that stops at 2^20 - 1. -/
def sat20 (n : Nat) : Nat := min (2 ^ 20 - 1) n

/-- An ended launch leaves a scope's counter (R309). -/
def Scope.less (x : Scope) (complete : Bool) : Scope :=
  { x with
    live := x.live - 1
    comp := if complete then sat20 (x.comp + 1) else x.comp
    canc := if complete then x.canc else sat20 (x.canc + 1)
    st := if x.live ≤ 1 then 0 else x.st }

/-! ### The distributor's own stores (R312, R397) -/

/-- The sender of the distributor's own stores, to which a home in another module answers: slot 5 of the root core (log entry 8). -/
def rootReq (s : State) (id : Nat) (job : BitVec 24) : Req := ⟨rootCore s, 5, id, job, 0, 0⟩

/-- How far one of the distributor's stores has come. -/
inductive Stored where
  | done (s : State)
  /-- The page is moving. -/
  | wait
  | cannot (s : State)
  /-- On its way to a home in another module. -/
  | sent (s : State)

/-- A doubleword of a job's pages is stored at its home (R312, R397): in this module at once, at the cost of the home's plate; to another module, with its hops, at that of the root's (Table 15.4). -/
def State.rootStore (s : State) (id : Nat) (job : BitVec 24) (va x : Word) : Stored :=
  match globKey s job va true with
  | .wait => .wait
  | .ok k =>
    if s.bad.contains (k / 64 * 64) then .cannot (s.foundBad (k / 64 * 64))
    else .done (({ s with mem := s.mem.writeNat k 8 x.toNat } : State).housePay (keyCore k) 40)
  | .fault _ =>
    match pageEntry s job (vpnOf va) with
    | none => .cannot s
    | some p =>
      if p.mod == s.modNo || !p.w || p.cow || !s.isReachable (p.mod ++ p.core) then .cannot s
      else .sent ((s.housePay (rootCore s) (40 + 2 * s.hopsFrom (rootCore s) p.home)).post (s.dstOf p.home) 1 (rootReq s id job)
        (.store va (bytesOf 8 x.toNat)))

/-- A store that cannot be made: the subscription goes, or the NOTIFY is skipped, and both hubs are told (R312, R400); a SUBS whose
reference sample it is gets status 3. -/
def State.storeLost (s : State) (x : Notice) : State :=
  let t :=
    match x.sub with
    | none => s.toHubs (.told 1 x.va)
    | some i =>
      let u := s.updDist (fun d => { d with subs := d.subs.filter (fun y => !(y.job == x.job && y.num == i)) })
      if x.answer.isSome then u else u.toHubs (.told 3 x.va)
  match x.answer with
  | none => t
  | some a => t.post a.1.core 63 a.1 (.deferred (3 <<< 56) none)

/-- A store has been made: an answer that followed it goes out. -/
def State.storeMade (s : State) (x : Notice) : State :=
  match x.answer with
  | none => s
  | some a => s.post a.1.core 63 a.1 (.deferred a.2 none)

/-- One of the distributor's stores begins; it waits while the page moves. -/
def State.beginStore (s : State) (x : Notice) : State :=
  let keep := fun (y : Notice) (t : State) => t.updDist (fun d => { d with notices := d.notices ++ [y] })
  match s.rootStore x.id x.job x.va x.value with
  | .done t => t.storeMade x
  | .wait => keep x s
  | .cannot t => t.storeLost x
  | .sent t => keep { x with sent := true } t

/-- A new store of the distributor. -/
def State.newStore (s : State) (job : BitVec 24) (va value : Word) (sub : Option (BitVec 8)) (answer : Option (Req × Word)) : State :=
  (s.updDist (fun d => { d with nextNotice := d.nextNotice + 1 })).beginStore ⟨s.dist.nextNotice, job, va, value, sub, answer, false, none⟩

/-- A store can go on: one that a home in another module has answered, or else the oldest one that waits for a page. -/
def State.storeOn (s : State) : State :=
  match takeFirst (fun x : Notice => x.heard.isSome) s.dist.notices with
  | some (x, rest) =>
    let t := s.updDist (fun d => { d with notices := rest })
    if x.heard = some true then t.storeLost x else t.storeMade x
  | none =>
    match takeFirst (fun x : Notice => !x.sent && (match s.rootStore x.id x.job x.va x.value with | .wait => false | _ => true)) s.dist.notices with
    | some (x, rest) => (s.updDist (fun d => { d with notices := rest })).beginStore x
    | none => s

/-- The final LSTAT value goes to NOTIFY; one that cannot be written is reported to both hubs (R312). -/
def State.notifyEnd (s : State) (l : Launch) : State :=
  if l.desc.notify = 0 then s else s.newStore l.desc.job l.desc.notify l.stat none none

/-- A launch every one of whose placed units is saved is no longer saved by force (R325). -/
def Launch.forced (l : Launch) : Launch := if l.forcing && l.saved.length == l.placed then { l with forcing := false } else l

/-- Every placed unit of a launch that a hub pre-empts is saved: its command is answered (Table 12.9). -/
def State.endPreempts (s : State) : State :=
  s.dist.preempts.foldl (fun t x =>
    match launchNo t x.1 with
    | none => t
    | some l =>
      if l.ended || l.saved.length == l.placed then
        (((t.updDist (fun d => { d with preempts := d.preempts.filter (fun y => y != x) })).updLaunch x.1 (fun y => { y with
          preempting := none })).hubReply x.2.1 x.2.2 0 0)
      else t) (s.updDist (fun d => { d with launches := d.launches.map Launch.forced }))

/-- A launch ends in state 3, 4 or 5 (R307, R309, R312). -/
def State.endLaunch (s : State) (n : BitVec 32) (st : Nat) : State :=
  match launchNo s n with
  | none => s
  | some l =>
    if l.ended then s
    else
      let l' := { l with st := st, placed := 0, saved := [], code := [], init := [], preempting := none, forcing := false, endedAt := s.cycle }
      let c := st == 3
      let s1 := s.updLaunch n (fun _ => l')
      let s2 := (s1.updScope l.desc.job false l.desc.graph (fun x => x.less c)).updScope l.desc.job true l.desc.phase (fun x => x.less c)
      let s3 := s2.updJob l.desc.job (fun j => { j with
        live := j.live - 1, comp := if c then sat20 (j.comp + 1) else j.comp, canc := if c then j.canc else sat20 (j.canc + 1) })
      (s3.notifyEnd l').endPreempts

/-! ### Stopping units (R331, R332) -/

/-- A unit of a launch still holds a slot or a park record somewhere. -/
def launchLive (s : State) (n : BitVec 32) : Bool :=
  s.cores.any (fun p => p.2.slots.toList.any (fun l => l.phase != .empty && l.launchid == n) ||
    p.2.parked.any (fun x => x.launch == n))

/-- A unit stops in its slot: commands not begun are discarded, and the slot empties (R331). -/
def State.stopUnit (s : State) (c : Nat) (t : Fin 4) : State :=
  let s1 := if (s.core c).owner == some t then s.updCore c (fun k => { k with mtxQ := [] }) else s
  s1.endUnit c t

/-- A park record is freed. -/
def State.leavePark (s : State) (c : Nat) (p : Parked) : State :=
  let s1 := match p.place with
    | some x => s.freeRecord c (parkRecord x.1)
    | none => s
  s1.updCore c (fun k => { k with parked := k.parked.filter (fun y => !(y.launch == p.launch && y.unit == p.unit)) })

/-- What a cancelled unit holds on other cores: its reservations pass on, and its stubs are freed (R331). -/
def State.dropUnit (s : State) (launch : BitVec 32) (unit : BitVec 24) : State := (s.dropReservations launch unit).dropStubs launch unit

/-- A parked context is discarded, with what its unit holds (R331, R332). -/
def State.dropParked (s : State) (c : Nat) (p : Parked) : State := (s.leavePark c p).dropUnit p.launch p.unit

/-- A save record is given up. -/
def State.dropSaved (s : State) (n : BitVec 32) (x : SavedUnit) : State :=
  match x.slot, x.hub with
  | some i, none =>
    (s.freeRecord x.core (saveRecord i)).updCore x.core (fun k => { k with
      saveSet := k.saveSet.filter (fun y => !(y.2.1 == n && y.2.2 == x.unit)) })
  | _, _ => s

/-- The slots that hold a launch's units. -/
def unitsOf (s : State) (n : BitVec 32) : List (Nat × Fin 4) :=
  s.cores.flatMap (fun p => ((List.finRange 4).filter (fun t =>
    let l := p.2.slots.get t
    l.phase != .empty && l.launchid == n)).map (fun t => (p.1, t)))

/-- A unit that a cancel may stop now: it stands at an instruction boundary, no row step is in flight, and it does not migrate. -/
def stopsNow (l : Slot) : Bool :=
  (l.phase == .run || l.phase == .drain) && !l.leaving.any (fun v => match v.why with | .preempt _ => false | _ => true) &&
  !l.tile.any (fun y => !y.data.isEmpty)

/-- A cancelled launch's units that stand at an instruction boundary stop, and its parked and saved contexts are discarded;
a unit in PLACING, RESTORE or migration, or in the middle of a row step, stops later (R331, R332). -/
def State.stopLaunch (s : State) (n : BitVec 32) : State :=
  match launchNo s n with
  | none => s
  | some l =>
    let s1 := (unitsOf s n).foldl (fun t x => if stopsNow (t.slotAt x.1 x.2) then t.stopUnit x.1 x.2 else t) s
    let s2 := s1.coreList.foldl (fun t c => ((t.core c).parked.filter (fun p => p.launch == n && p.inc.go)).foldl
      (fun u p => u.dropParked c p) t) s1
    (l.saved.foldl (fun t x => (t.dropSaved n x).dropUnit n x.unit) s2).updLaunch n (fun l => { l with saved := [] })

/-- A cancelled launch none of whose units is left takes state 4. -/
def State.endCancelled (s : State) : State :=
  s.dist.launches.foldl (fun t l =>
    if l.cancelling && !l.ended && !launchLive t l.num then t.endLaunch l.num 4 else t) s

/-- The launches of a cancel's scope. -/
def Cancel.covers (x : Cancel) (l : Launch) : Bool :=
  match x.level with
  | 0 => l.num == x.num && l.desc.job == x.job
  | 1 => l.desc.job == x.job && l.desc.graph == x.num
  | 2 => l.desc.job == x.job && l.desc.phase == x.num
  | _ => l.desc.job == x.job

/-- A cancel has ended when no launch of its scope is left (R331). -/
def cancelDone (s : State) (x : Cancel) : Bool := s.dist.launches.all (fun l => !x.covers l || l.ended)

/-- What a JOBCLOSE releases when its job's cancel has ended: handlers, subscriptions, pages with their pins (R280, R338, R361),
pools, tensors, reductions and the counters. -/
def State.closeJob (s : State) (j : BitVec 24) : State :=
  let s1 := s.coreList.foldl (fun t c => t.updCore c (fun k => { k with
    handlers := k.handlers.filter (fun h => !(16 ≤ h.1 && h.2.job == j))
    pools := k.pools.filter (fun p => p.job != j)
    poolDue := k.poolDue.filter (fun p => p.1 != j)
    entryPools := k.entryPools.filter (fun p => p.job != j)
    seqs := k.seqs.filter (fun x => x.job != j)
    logPage := k.logPage.filter (fun va => !k.vaultMap.any (fun p => p.vpn == vpnOf va && p.job == j)) })) s
  let pages := s1.cores.flatMap (fun p => p.2.pages.filter (fun e => e.job == j))
  let s2 := pages.foldl (fun t e => t.unmapEntry e) s1
  s2.updDist (fun d => { d with
    subs := d.subs.filter (fun x => x.job != j)
    notices := d.notices.filter (fun x => x.job != j || x.sub.isNone || x.sent)
    tensors := d.tensors.filter (fun x => x.job != j)
    reductions := d.reductions.filter (fun x => x.job != j)
    scopes := d.scopes.filter (fun x => x.job != j)
    jobs := d.jobs.filter (fun x => x.num != j) })

/-- Cancels that have ended answer who waits for them. -/
def State.endCancels (s : State) : State :=
  let s0 := s.endCancelled
  s0.dist.cancels.foldl (fun t x =>
    if cancelDone t x then
      let t1 := t.updDist (fun d => { d with cancels := d.cancels.filter (fun y => y != x) })
      let t2 := if x.close then t1.closeJob x.job else t1
      match x.who with
      | .unit q => t2.post q.core 63 q (.deferred 0 none)
      | .hub h tag => t2.hubReply h tag 0 0
    else t) s0

/-- A unit of a cancelled launch that could not stop at once stops when its row steps have been written (R331). -/
def State.stopLater (s : State) (c : Nat) (t : Fin 4) : State :=
  if s.stopping c t && stopsNow (s.slotAt c t) then (s.stopUnit c t).endCancels else s

/-! ### Log pages (R460) -/

/-- A recording core without a log page gets one from the device runtime: a page of the job at an address of the runtime's choice,
homed on the core (log entry 16). -/
def State.nameLog (s : State) (c : Nat) (job : BitVec 24) : State :=
  if !((jobOf s job).any (fun j => j.recording)) || (s.core c).logPage.any (fun va => (ownPage s c va).isSome || logMoving s c) then s
  else
    let vpn : BitVec 33 := BitVec.ofNat 33 (0x10000 + s.draw.1.toNat % (2 ^ 31 - 0x10000))
    match s.draw.2.pick (freeFrames s c false) with
    | none => s
    | some (f, t) =>
      if (pageEntry s job vpn).isSome || !hasRoom s c job vpn then s
      else (t.enterPage c f job vpn 2 true true 0).updCore c (fun k => { k with logPage := some (vpnBase vpn) })

/-- A recording core whose log page is gone, as with its job (R310), gets another for the units that it holds. -/
def State.keepLog (s : State) (c : Nat) : State :=
  match (s.core c).slots.toList.find? (fun l => l.phase != .empty && (jobOf s l.jobid).any (fun j => j.recording)) with
  | none => s
  | some l => s.nameLog c l.jobid

/-- A slot has come to RUN: a unit of a launch that is being cancelled stops before its first instruction (R332). -/
def State.arrived (s : State) (c : Nat) (t : Fin 4) : State :=
  match launchNo s (s.slotAt c t).launchid with
  | some l => if l.cancelling then (s.stopUnit c t).endCancels else s
  | none => s

end Sys2Proof.Machine
end

