-- ==== Sys2Proof/Machine/Migrate.lean ====
section
/-!
DEFINITION. Migration step by step, parking, and the restore of parked contexts (10_kernel_execution.md, R285 to R290).
-/
namespace Sys2Proof.Machine

/-! ### Steps 2 to 4 at the source -/

/-- A slot has drained: no mark, batch or claim, a tile instruction between row steps, an RPT between replays, and the MTX
done with its commands (Table 10.6, steps 2 and 3; R28, R112, R118, R171). -/
def drained (s : State) (c : Nat) (t : Fin 4) : Bool :=
  let l := s.slotAt c t
  l.marksG == 0 && l.marksV == 0 && !opsLive s c t && !l.nest.pending && atBoundary l && !mtxBusy s c t

/-- Ownership goes into the image, and ends (R38). -/
def State.takeMatrix (s : State) (c : Nat) (t : Fin 4) : State :=
  if (s.core c).owner == some t then
    let m := matrixOf (s.core c)
    (s.endOwner c t).updSlotAt c t (fun l => { l with leaving := l.leaving.map (fun v => { v with matrix := some m }) })
  else s

/-- A drained slot holds only what its image holds. -/
def State.settle (s : State) (c : Nat) (t : Fin 4) (stage : Nat) : State :=
  (s.takeMatrix c t).updSlotAt c t (fun l => { l with
    rpt := none, tile := none, bwait := none, waiting := false,
    leaving := l.leaving.map (fun v => { v with stage := stage }) })

/-- Messages that carry an image and a lease (R285, step 5): 8 payload flits each. -/
def migMessages (leaseBytes : Nat) : Nat := 8 + (leaseBytes + 511) / 512

/-- The k-th message of a leaving slot; its charge after the first one is not in the image that the first has carried (R286). -/
def migMessage (s : State) (c : Nat) (t : Fin 4) (v : Leaving) (k coins : Nat) : Body :=
  let l := s.slotAt c t
  let base := l.leaseBase.toNat * 64
  let n := l.leaseBytes
  let img := if k < 8 then ((slotImage s c t v.matrix).drop (512 * k)).take 512 else []
  let off := 512 * (k - 8)
  let cells := if k < 8 then [] else (s.mem.slice (tillKey c (base + off)) (min 512 (n - off))).map (fun x => (x.1 + off, x.2))
  .migImage (v.answer.getD none) k (k + 1 == migMessages n) v.why img cells base n l.upc (besideOf l)
    (if k = 0 then 0 else coins)

/-- Payload flits of the k-th message. -/
def migFlits (leaseBytes k : Nat) : Nat := if k < 8 then 8 else min 8 ((leaseBytes - 512 * (k - 8) + 63) / 64)

/-- A draining slot's next step at its source: the request of step 4, or a message of step 5, each when the source purse
covers its flit-hops (R286). -/
def State.migrateStep (s : State) (c : Nat) (t : Fin 4) : State :=
  match (s.slotAt c t).leaving with
  | none => s
  | some v =>
    let h := s.hopsFrom c v.dest
    let l := s.slotAt c t
    let d := s.placeOf v.dest
    match v.why with
    | .preempt _ => s
    | _ =>
      if v.stage = 0 then (if drained s c t then s.settle c t 1 else s)
      else if v.stage = 1 then
        if s.slotCanPay c t (2 * h) then
          ((s.chargeSlot c t (2 * h)).updSlotAt c t (fun l => { l with leaving := some { v with stage := 2 } })).post d 10
            (s.reqOf c t 0) (.migAsk t.val l.unitid l.launchid l.upc l.leaseSize.toNat l.heatcls)
        else s.heatStop c t (2 * h)
      else if v.stage = 3 && v.sent < migMessages l.leaseBytes then
        let n := 2 * h * (1 + migFlits l.leaseBytes v.sent)
        if s.slotCanPay c t n then
          let p := s.chargeSlot c t n
          (p.updSlotAt c t (fun l => { l with leaving := some { v with sent := v.sent + 1 } })).post d 10
            (s.reqOf c t 0) (migMessage p c t v v.sent n)
        else s.heatStop c t n
      else s

/-- MIGRATION_DRAIN. -/
def execMigrationDrain (c : Nat) (t : Fin 4) (s : State) : Res := .next (s.migrateStep c t)

/-! ### Reservation and parking at the destination (R289) -/

/-- A free place of the park area: an image record, and room for a lease of so many granules in parking order. -/
def parkPlace (k : Core) (granules : Nat) : Option (Fin 3 × Nat) :=
  let used := k.parked.filterMap (fun p => p.place.map (fun x => (x.1, x.2, x.2 + p.inc.leaseSize / 64)))
  match (List.finRange 3).find? (fun i => used.all (fun u => u.1 != i)) with
  | none => none
  | some i =>
    match ((0 :: used.map (fun u => u.2.2)).find? (fun a =>
        a + granules ≤ 896 && used.all (fun u => a + granules ≤ u.2.1 || u.2.2 ≤ a))) with
    | none => none
    | some a => some (i, a)

/-- A parked context as an incoming one: from the park area, or from hub DRAM. -/
def parkedContext (s : State) (c : Nat) (p : Parked) : Incoming :=
  match p.place with
  | none => p.inc
  | some (i, a) =>
    let x := p.inc
    { x with
      image := s.mem.readBytes (vaultKey c (parkRecord i)) 4096
      lease := s.mem.slice (vaultKey c (parkArea a)) x.leaseSize }

/-- A core can take a parked context now: a slot and its part are free, no grant lends the core, and no unit of another image is
left. -/
def canUnpark (s : State) (k : Core) (p : Parked) : Bool :=
  !p.saved && p.inc.whole && p.inc.go && !(emptySlots k).isEmpty && partFree k p.upc (partOf p.upc p.unit) && !freewheels k &&
  ((k.image == some (codeOf s p.launch) && k.imageDue.all (fun n => codeOf s n == codeOf s p.launch)) || !holdsUnit k)

/-- A core cannot take a context now (the four cases of R289): a slot and part that a parked context will take are given already
(R290), and with them the core's image. -/
def mustPark (s : State) (k : Core) (launch : BitVec 32) (upc part : Nat) : Bool :=
  let due := k.parked.filter (canUnpark s k)
  let other := fun (n : BitVec 32) => codeOf s n != codeOf s launch
  (emptySlots k).length ≤ due.length || !partFree k upc part || freewheels k || k.image.any (fun x => x != codeOf s launch) ||
  k.imageDue.any other || due.any (fun p => other p.launch || inPart p.upc (partOf p.upc p.unit) (partBase upc part) ||
    inPart upc part (partBase p.upc (partOf p.upc p.unit)))

/-- A slot is given to an incoming context. -/
def State.giveSlot (s : State) (c : Nat) (t : Fin 4) (unit : BitVec 24) (launch : BitVec 32) (job : BitVec 24) (upc : Nat)
    (heat : BitVec 2) (x : Incoming) : State :=
  ((s.setSlotAt c t { Slot.reset with
    phase := .restore, unitid := unit, launchid := launch, jobid := job, upc := upc, heatcls := heat, incoming := some x }).updCore c (fun k =>
      if k.image == some (codeOf s launch) then k else { k with imageDue := some launch })).nameLog c job

/-- A context that has not begun to arrive. -/
def Incoming.start (why : Leave) (leaseSize : Nat) : Incoming := ⟨why, [], [], 0, leaseSize, Beside.none, false, false, 0, 0, none⟩

/-- An answer is to the request that a slot waits with: it comes from the core that now stands for its destination, and not from one that
has been lost since (R440). -/
def answers (s : State) (answerer : BitVec 26) (v : Leaving) : Bool :=
  v.stage == 2 && s.dstOf v.dest == s.dstOf answerer && (s.ofId answerer).all (fun d => s.coreId d == answerer)

/-- What a source held for a unit goes on to its new core (R287). -/
def isHeldFor (l : Slot) (m : Msg) : Bool :=
  match m.body with
  | .block dst _ _ _ _ _ => inPart l.upc (partOf l.upc l.unitid) dst.toNat
  | .blockFor launch unit _ _ _ _ => launch == l.launchid && unit == l.unitid
  | .credit _ _ _ unit launch => launch == l.launchid && unit == l.unitid
  | _ => false

/-- A message of a migration cannot reach its destination (R480; log entry 8): the slot runs on at its source with a fault record, with
the matrix state it gave up; an AUTOMIG access traps with the fault.  What was held for the unit lands there. -/
def State.migFailed (s : State) (c : Nat) (t : Fin 4) (f : FaultInfo) : State :=
  let l := s.slotAt c t
  match l.leaving with
  | none => s
  | some v =>
    let back := (s.core c).held.filter (isHeldFor l)
    let r : FaultRec := ⟨f.addr, f.cause, f.sub, l.lastPc, l.batch, none, .none⟩
    let s1 := (s.updCore c (fun k => { k with held := k.held.filter (fun m => !isHeldFor l m) })).updSlotAt c t (fun l => { l with
      phase := .run, leaving := none
      fault := if v.why == .automig then l.fault else (match l.fault with | some x => some x | none => some r)
      moreFaults := l.moreFaults || (v.why != .automig && l.fault.isSome) })
    let s2 : State := { s1 with net := back.map (fun m : Msg => { m with dst := c }) ++ s1.net }
    let s3 := match v.matrix with
      | none => s2
      | some m => if (s2.core c).owner.isSome then s2.updSlotAt c t (fun l => { l with restoreOwn := some m }) else s2.loadOwner c t m
    if v.why == .automig then s3.trapAt c t f.cause f.sub f.addr else s3

/-- Handler 10 at the destination answers a request, and at the source takes the answer, with which the lease part freezes
(R285, steps 4 and 5). -/
def State.reserve (s : State) (c : Nat) : State :=
  match s.work c with
  | none => s
  | some m =>
    match m.body with
    | .migAsk slot unit launch upc granules heat =>
      let k := s.core c
      let x := Incoming.start .mig (64 * granules)
      if mustPark s k launch upc (partOf upc unit) then
        ((s.updCore c (fun k => { k with
          parked := k.parked ++ [⟨launch, unit, upc, parkPlace k granules, x, false⟩] })).post m.src.core 10 m.src
            (.migAnswer slot none (s.coreId c))).endActivation c
      else
        match s.pick (emptySlots k) with
        | none => s
        | some (t, p) =>
          ((p.giveSlot c t unit launch m.src.job upc heat x).post m.src.core 10 m.src (.migAnswer slot (some t) (s.coreId c))).endActivation c
    | .migAnswer slot grant answerer =>
      if h : slot < 4 then
        (s.updSlotAt c ⟨slot, h⟩ (fun l =>
          if l.unitid == m.src.unit && l.launchid == m.src.launch && l.leaving.any (answers s answerer) then
            { l with leaving := l.leaving.map (fun v => { v with stage := 3, answer := some grant }) }
          else l)).endActivation c
      else s
    | .migFail slot f =>
      if h : slot < 4 then
        let t : Fin 4 := ⟨slot, h⟩
        (if (s.slotAt c t).unitid == m.src.unit && (s.slotAt c t).launchid == m.src.launch then s.migFailed c t f else s).endActivation c
      else s
    | _ => s

/-- MIGRATION_RESERVE. -/
def execMigrationReserve (c : Nat) (s : State) : Res := .next (s.reserve c)

/-- A message's part joins an incoming context. -/
def Incoming.add (x : Incoming) (why : Leave) (img : List Byte) (cells : List Host.Cell) (base size : Nat) (beside : Beside)
    (last : Bool) (coins : Nat) : Incoming :=
  { x with
    why := why, image := x.image ++ img, lease := x.lease ++ cells, leaseBase := base, leaseSize := size, beside := beside,
    whole := last, got := x.got + 1, spent := x.spent + coins }

/-- A message of image or lease arrives for a parked context: it is written into the park area, or held by the device
runtime (R289). -/
def State.parkMessage (s : State) (c : Nat) (p : Parked) (x : Incoming) (index : Nat) (img : List Byte)
    (cells : List Host.Cell) : State :=
  let keep := fun (y : Incoming) (t : State) => t.updCore c (fun k => { k with
    parked := k.parked.map (fun q => if q.launch == p.launch && q.unit == p.unit then { q with inc := y } else q) })
  match p.place with
  | none => keep x s
  | some (i, a) =>
    let s1 :=
      if img.isEmpty then
        let off := 512 * (index - 8)
        s.putPart (vaultKey c (parkArea a + off)) (min 512 (x.leaseSize - off)) (cells.map (fun y => (y.1 - off, y.2)))
      else s.putBytes (vaultKey c (parkRecord i + 512 * index)) img
    keep { x with image := [], lease := [] } s1

/-- Handler 10 takes one message of step 5. -/
def State.migTake (s : State) (c : Nat) : State :=
  match s.work c with
  | none => s
  | some m =>
    match m.body with
    | .migImage slot index last why img cells base size _ beside coins =>
      match slot with
      | some t =>
        (s.updSlotAt c t (fun l => { l with
          incoming := l.incoming.map (fun x =>
            let y := x.add why img cells base size beside last coins
            { y with go := y.go || (last && m.src.foreign) }) })).endActivation c
      | none =>
        match (s.core c).parked.find? (fun p => p.launch == m.src.launch && p.unit == m.src.unit) with
        | none => s.endActivation c
        | some p =>
          let y := p.inc.add why img cells base size beside last coins
          (s.parkMessage c p { y with go := y.go || (last && m.src.foreign) } index img cells).endActivation c
    | _ => s

/-! ### Restores (R328, R329) -/

/-- A saved unit's image and lease where its record lies: in the save set, in the park area, or in hub DRAM. -/
def recordOfUnit (s : State) (n : BitVec 32) (x : SavedUnit) : List Byte × List Host.Cell :=
  match x.hub, x.slot with
  | some h, _ => h
  | none, some i =>
    (s.mem.readBytes (vaultKey x.core (saveRecord i)) 4096, s.mem.slice (vaultKey x.core (leaseStore x.leaseBase)) x.leaseSize)
  | none, none =>
    match (s.core x.core).parked.find? (fun p => p.launch == n && p.unit == x.unit) with
    | some p => ((parkedContext s x.core p).image, (parkedContext s x.core p).lease)
    | none => ([], [])

/-- The k-th chunk of a record: 512 bytes of the image, or of the lease. -/
def recordChunk (r : List Byte × List Host.Cell) (k : Nat) : List Byte × List Host.Cell :=
  if k < 8 then ((r.1.drop (512 * k)).take 512, [])
  else ([], r.2.filter (fun x => 512 * (k - 8) ≤ x.1 && x.1 < 512 * (k - 8) + 512))

/-- The coins of the k-th chunk: 44 a block, and the flit-hops of its message from another core (R328). -/
def chunkCoins (x : SavedUnit) (c k : Nat) : Nat :=
  let n := migFlits x.leaseSize k
  44 * n + (if x.core == c then 0 else 2 * hops x.core c * (1 + n))

/-- A unit being restored as its slot knows it now: its record may have moved since a chunk of it was asked for (R327). -/
def comingUnit (s : State) (n : BitVec 32) (x : SavedUnit) : SavedUnit :=
  ((s.cores.flatMap (fun p => p.2.slots.toList)).findSome? (fun l =>
    if l.launchid == n && l.unitid == x.unit then (l.incoming.bind (fun y => y.saved)).map (fun y => y.1) else none)).getD x

/-- Handler 10 of the core whose vault holds a record sends one chunk of it (R329). -/
def State.restoreServe (s : State) (c : Nat) : State :=
  match s.work c with
  | none => s
  | some m =>
    match m.body with
    | .restoreAsk x k t =>
      let y := comingUnit s m.src.launch x
      let r := recordChunk (recordOfUnit s m.src.launch y) k
      (s.post m.src.core 10 m.src (.migImage (some t) k (k + 1 == migMessages x.leaseSize) (.preempt none) r.1 r.2 x.leaseBase x.leaseSize
        1 x.beside 0)).endActivation c
    | _ => s

/-- MIGRATION_TRANSFER: handler 10 takes a message, or sends a chunk of a record. -/
def execMigrationTransfer (c : Nat) (s : State) : Res :=
  .next (match (s.work c).map (fun m => m.body) with
    | some (Body.restoreAsk _ _ _) => s.restoreServe c
    | _ => s.migTake c)

/-- A saved unit's record is free: its unit has been restored. -/
def State.freeSaved (s : State) (n : BitVec 32) (x : SavedUnit) : State :=
  match x.slot with
  | some _ => s.dropSaved n x
  | none => ((s.core x.core).parked.filter (fun p => p.launch == n && p.unit == x.unit)).foldl (fun t p => t.leavePark x.core p) s

/-- A restoring slot's next step: the next chunk, when its core's purse covers it, from the own vault or asked of the record's core; once
all have come, the record is free and the unit resumes. -/
def State.restoreStep (s : State) (c : Nat) (t : Fin 4) : State :=
  let l := s.slotAt c t
  match l.incoming with
  | none => s
  | some x =>
    match x.saved with
    | none => s
    | some (u, k) =>
      if x.whole then
        (s.freeSaved l.launchid u).updSlotAt c t (fun y => { y with incoming := some { x with go := true, saved := none } })
      else if migMessages u.leaseSize ≤ k then s
      else
        let n := chunkCoins u c k
        match s.payFor c (some l.jobid) n with
        | none => s
        | some p =>
          let y : Incoming := { x with saved := some (u, k + 1), spent := x.spent + n }
          if u.core == c then
            let r := recordChunk (recordOfUnit s l.launchid u) k
            p.updSlotAt c t (fun z => { z with incoming := some (y.add x.why r.1 r.2 u.leaseBase u.leaseSize u.beside (k + 1 == migMessages u.leaseSize) 0) })
          else (p.updSlotAt c t (fun z => { z with incoming := some y })).post u.core 10 (s.reqOf c t 0) (.restoreAsk u k t)

/-! ### Steps 6 and 7 -/

/-- The last message of a context has arrived at its destination; at one in another module, when no link has a message of it still
unacknowledged (log entry 8). -/
def migArrived (s : State) (d : Nat) (answer : Option (Fin 4)) (launch : BitVec 32) (unit : BitVec 24) : Bool :=
  let ours := fun (m : Msg) => 2 ^ 20 ≤ m.dst && m.src.launch == launch && m.src.unit == unit &&
    (match m.body with | .migImage _ _ _ _ _ _ _ _ _ _ _ => true | _ => false)
  if 2 ^ 20 ≤ d then !s.net.any ours && !s.links.toList.any (fun x => x.sent.any (fun y => ours y.2))
  else
  match answer with
  | some t => (s.slotAt d t).incoming.any (fun x => x.whole)
  | none => (s.core d).parked.any (fun p => p.launch == launch && p.unit == unit && p.inc.whole)

/-- Parked contexts of a pre-empted launch that meet a test become saved where they lie (R330). -/
def State.saveParked (s : State) (n : BitVec 32) (which : Nat → Bool) : State :=
  (s.cores.filter (fun p => which p.1)).foldl (fun t p =>
    (p.2.parked.filter (fun x => x.launch == n && !x.saved && x.inc.go)).foldl (fun u x =>
      (u.updCore p.1 (fun k => { k with parked := k.parked.map (fun y =>
        if y.launch == n && y.unit == x.unit then { y with saved := true } else y) })).updLaunch n (fun l => { l with
          saved := l.saved ++ [⟨x.unit, p.1, none, partOf x.upc x.unit, x.inc.leaseBase, x.inc.leaseSize, x.inc.beside, none, x.inc.spent⟩],
          waited := 0, aged := 0 })) t) s

/-- A slot is on its way into a save record. -/
def beingSaved (l : Slot) : Bool := l.leaving.any (fun v => match v.why with | .preempt _ => true | _ => false)

/-- A launch is being pre-empted: by a hub, by force, or with a unit that is being saved; a co-resident one with a unit that is saved
(R325, R330). -/
def preempted (s : State) (l : Launch) : Bool :=
  l.preempting.isSome || l.forcing || (l.desc.coresident && !l.saved.isEmpty && !l.passing) ||
  (unitsOf s l.num).any (fun x => beingSaved (s.slotAt x.1 x.2))

/-- A context has been parked: one of a launch that is being cancelled is discarded (R332), one of a pre-empted launch becomes saved
where it lies (R330). -/
def State.parkedDue (s : State) (d : Nat) (launch : BitVec 32) (unit : BitVec 24) : State :=
  match launchNo s launch with
  | none => s
  | some l =>
    if l.cancelling then
      (((s.core d).parked.filter (fun p => p.launch == launch && p.unit == unit)).foldl (fun t p => t.dropParked d p) s).endCancels
    else if preempted s l then (s.saveParked launch (fun _ => true)).endPreempts
    else s

/-- The destination may resume or restore the context. -/
def State.migGo (s : State) (d : Nat) (answer : Option (Fin 4)) (launch : BitVec 32) (unit : BitVec 24) : State :=
  match answer with
  | some t => s.updSlotAt d t (fun l => { l with incoming := l.incoming.map (fun x => { x with go := true }) })
  | none => (s.updCore d (fun k => { k with parked := k.parked.map (fun p =>
      if p.launch == launch && p.unit == unit then { p with inc := { p.inc with go := true } } else p) })).parkedDue d launch unit

/-- A held message goes on as its stub forwards it, at the old core's cost (R157), or its plate's for a credit (R248); none while the
purse does not cover it. -/
def State.heldOnward (s : State) (c : Nat) (l : Slot) (d : Nat) (m : Msg) : Option State :=
  match m.body with
  | .block dst _ bs _ bar page =>
    (s.payFor c (some m.src.job) (2 * s.hopsDst c d)).map (fun t => t.post d 63 m.src (.blockFor l.launchid l.unitid dst bs bar page))
  | .blockFor _ _ _ _ _ _ => (s.payFor c (some m.src.job) (2 * s.hopsDst c d)).map (fun t => t.post d 63 m.src m.body)
  | _ => some ((s.housePay c (s.hopsDst c d)).post d 63 m.src m.body)

/-- Step 6: what was held for the unit goes on, oldest first; then the source installs a context stub, when one is free (R288), and its
slot becomes EMPTY. -/
def State.migStub (s : State) (c : Nat) (t : Fin 4) : State :=
  let l := s.slotAt c t
  match l.leaving with
  | none => s
  | some v =>
    let d := s.dstOf v.dest
    let a := v.answer.getD none
    if v.stage = 3 && v.sent = migMessages l.leaseBytes && migArrived s d a l.launchid l.unitid && (s.core c).stubs.length < 64 then
      match takeFirst (isHeldFor l) (s.core c).held with
      | some (m, rest) => ((s.updCore c (fun k => { k with held := rest })).heldOnward c l d m).getD s
      | none =>
        let s1 := s.updCore c (fun k => { k with
          stubs := k.stubs ++ [.context l.launchid l.unitid (partOf l.upc l.unitid) l.upc d a] })
        (s1.emptySlot c t).migGo d a l.launchid l.unitid
    else s

/-- MIGRATION_STUB. -/
def execMigrationStub (c : Nat) (t : Fin 4) (s : State) : Res := .next (s.migStub c t)

/-- A context comes out of a save record, and not from a migration. -/
def restored (x : Incoming) : Bool := match x.why with | .preempt _ => true | _ => false

/-- A whole context is applied to its slot: the lease at the same till addresses (R231), then the image (R38); what was held
for the unit lands now. -/
def State.resume (s : State) (c : Nat) (t : Fin 4) : State :=
  let l := s.slotAt c t
  match l.incoming with
  | none => s
  | some x =>
    if l.phase == .restore && x.whole && x.go && hasImage s c l.launchid then
      let s1 := s.putPart (tillKey c x.leaseBase) x.leaseSize x.lease
      let s2 := (s1.applyImage c t x.image x.beside l.upc).updSlotAt c t (fun y => { y with
        coinspent := y.coinspent + BitVec.ofNat 64 x.spent, since := if restored x then s.cycle.toNat else y.since })
      let ours := (s2.core c).held.filter (isHeldFor l)
      let s3 := s2.updCore c (fun k => { k with held := k.held.filter (fun m => !isHeldFor l m) })
      let y := s3.slotAt c t
      let home := y.origin.extractLsb' 18 8
      let known := if home == s.modNo then s3 else s3.learnJob y.jobid home
      let s4 : State := { known with
        net := ours.map (fun m : Msg => { m with dst := c }) ++ s3.net
        notes := s3.notes ++ [⟨c, t, y.ctx.pc, y.instret, .arrive⟩] }
      s4.arrived c t
    else s

/-- MIGRATION_RESUME. -/
def execMigrationResume (c : Nat) (t : Fin 4) (s : State) : Res := .next (s.resume c t)

/-! ### Parked contexts (R290) -/

/-- The oldest parked context that an EMPTY slot can take goes to RESTORE. -/
def State.unpark (s : State) (c : Nat) (t : Fin 4) : State :=
  let k := s.core c
  if (k.slots.get t).phase != .empty then s
  else
    match k.parked.find? (canUnpark s k) with
    | none => s
    | some p =>
      let x := parkedContext s c p
      (s.leavePark c p).giveSlot c t p.unit p.launch (BitVec.ofNat 24 (imgNat x.image 0xEF0 8)) p.upc (BitVec.ofNat 2 (imgNat x.image 0xF08 8)) x

/-- PARKED_RESTORE. -/
def execParkedRestore (c : Nat) (t : Fin 4) (s : State) : Res := .next (s.unpark c t)

end Sys2Proof.Machine
end

