-- ==== Sys2Proof/Machine/Place.lean ====
section
/-!
DEFINITION. Placement, code loads, grants, and pre-emption (12_launch_scheduling.md, R313 to R330; 10, R277, R296 to R298, R487;
01, R36; 08, R230 to R232; 09, R274).
-/
namespace Sys2Proof.Machine

/-! ### Code loads (R274, R429) -/

/-- Program store bytes written, with their backup in the system area (Table 12.6). -/
def State.writeStore (s : State) (c addr : Nat) (bs : List Byte) : State :=
  (s.putBytes (storeKey c addr) bs).putBytes (vaultKey c (0xFC8000 + addr)) bs

/-- A handler table entry's bits (Table 10.2). -/
def handlerOf (x : Word) : Handler := ⟨x.extractLsb' 24 24, x.getLsbD 16, x.extractLsb' 0 15⟩

/-- The header of a code-store message with its words (R487).  With COUNT 0, ADDR must lie below 0x6000 all the same (DESIGN CHOICE, log
entry 71). -/
def codeValid (bs : List Byte) : Bool :=
  let addr := imgNat bs 0 2
  let n := imgNat bs 2 1
  let fl := imgNat bs 3 1
  let ix := imgNat bs 4 1
  let x := BitVec.ofNat 64 (imgNat bs 8 8)
  addr % 4 == 0 && n ≤ 112 && fl < 3 && bs.length == 64 * (1 + (n + 15) / 16) &&
  (n == 0 || addr + 4 * n ≤ 0x5000 || (0x5000 ≤ addr && addr + 4 * n ≤ 0x6000)) && addr < 0x6000 &&
  (if fl == 0 then ix < 64 else 16 ≤ ix && ix < 64) &&
  (if fl == 1 then x.extractLsb' 48 16 == 0 && x.extractLsb' 17 7 == 0 && !x.getLsbD 15 && x.getLsbD 16 &&
      0x5000 ≤ (handlerOf x).entry.toNat && (handlerOf x).entry.toNat < 0x6000 && (handlerOf x).job != 0
    else x == 0) &&
  ((bs.drop 5).take 3).all (fun b => b == 0) && ((bs.drop 16).take 48).all (fun b => b == 0)

/-- Handler 9 performs a code load as its activation ends. -/
def State.codeLoad (s : State) (c : Nat) : State :=
  match s.work c with
  | none => s
  | some m =>
    match m.body with
    | .user bs =>
      if m.handler != 9 then s
      else if !codeValid bs then s.handlerFault c 0 causeILLOP 0 0
      else
        let s1 := s.writeStore c (imgNat bs 0 2) ((bs.drop 64).take (4 * imgNat bs 2 1))
        let ix := imgNat bs 4 1
        let s2 :=
          match imgNat bs 3 1 with
          | 0 => s1
          | 1 => s1.updCore c (fun k => { k with handlers := Tab.put k.handlers ix (handlerOf (BitVec.ofNat 64 (imgNat bs 8 8))) })
          | _ => s1.updCore c (fun k => { k with handlers := Tab.erase k.handlers ix })
        s2.endActivation c
    | _ => s

/-- CODE_LOAD. -/
def execCodeLoad (c : Nat) (s : State) : Res := .next (s.codeLoad c)

/-- The bytes of a tensor's pages. -/
def Tensor.step (x : Tensor) : Nat := pageSize (vpnLarge (vpnOf x.base))

/-- A page's entry lies in a tensor. -/
def inTensor (x : Tensor) (p : PageEntry) : Bool :=
  p.job == x.job && x.base.toNat / 65536 * 65536 ≤ (vpnBase p.vpn).toNat && (vpnBase p.vpn).toNat < x.base.toNat + x.size

/-- Every page of a tensor whose first use is a launch is mapped, or never will be (R368). -/
def tensorsReady (s : State) (n : BitVec 32) : Bool :=
  s.dist.tensors.all (fun x => x.first != n || (launchNo s x.last).any (fun l => l.ended) ||
    (x.size ≤ x.step * x.done && s.cores.all (fun k => k.2.pages.all (fun p => !inTensor x p || p.st == 1))))

/-- A slot in PLACING whose core holds the image, and whose tensors are mapped, has its lease written: the .data image at its base and
zero in the rest (R232).  It goes to RUN. -/
def State.release (s : State) (c : Nat) (t : Fin 4) : State :=
  let l := s.slotAt c t
  if l.phase == .placing && hasImage s c l.launchid && tensorsReady s l.launchid then
    let base := l.leaseBase.toNat * 64
    let init := ((launchNo s l.launchid).map (fun x => x.init)).getD []
    let s1 := (s.clearBytes (tillKey c base) l.leaseBytes).putBytes (tillKey c base) init
    ((s1.housePay c (4 * (l.leaseBytes / 64))).updSlotAt c t (fun x => { x with phase := .run })).arrived c t
  else s

/-- The user handler region of an image, and the handler table entries of its job (R274, R280). -/
def State.loadHandlers (s : State) (c : Nat) (job : BitVec 24) (code : List Byte) : State :=
  let h := Config.imageHandlers code
  let s1 := (h.1.filter (fun x => x.1 % 4 == 0 && x.2.length % 4 == 0 && x.1 + x.2.length ≤ 4096)).foldl (fun t x =>
    t.writeStore c (0x5000 + x.1) x.2) s
  s1.updCore c (fun k => { k with handlers := (h.2.filter (fun x => 16 ≤ x.1 && x.1 < 64 && job != 0)).foldl (fun hs x =>
    Tab.put hs x.1 ⟨job, true, 0x5000 + x.2 % 0x1000 &&& ~~~3⟩) k.handlers })

/-- The job of a launch whose unit waits on a core. -/
def jobOn (s : State) (c : Nat) (n : BitVec 32) : BitVec 24 :=
  (((s.core c).slots.toList.find? (fun l => l.phase != .empty && l.launchid == n)).map (fun l => l.jobid)).getD 0

/-- The image load completes on a core: its store holds the image with its handlers, its queues are empty (R250), and every slot in
PLACING goes to RUN, as every context that waited for the image does (Table 10.1).  The image of a launch that has ended is not loaded. -/
def State.imageLoad (s : State) (c : Nat) : State :=
  match (s.core c).imageDue with
  | none => s
  | some n =>
    if (launchNo s n).any (fun l => l.ended) then s.updCore c (fun k => { k with imageDue := none })
    else
      let code := codeOf s n
      let s1 := (((s.writeStore c 0 code).loadHandlers c (jobOn s c n) code).housePay c ((code.length + 63) / 64 * 4)).updCore c
        (fun k => { k with image := some code, imageDue := none, queues := Vector.replicate 8 [] })
      (List.finRange 4).foldl (fun t i =>
        match (t.slotAt c i).phase with
        | .placing => t.release c i
        | .restore => t.resume c i
        | _ => t) s1

/-- IMAGE_LOAD. -/
def execImageLoad (c : Nat) (s : State) : Res := .next (s.imageLoad c)

/-! ### Where a unit may be placed (R316, R318 to R320) -/

/-- The active orthogonal neighbours of a core, with their directions. -/
def neighbours (s : State) (c : Nat) : List (Fin 4 × Nat) :=
  (List.finRange 4).filterMap (fun d => (neighbour c d).bind (fun n => if s.isActive n then some (d, n) else none))

/-- A lit core holds units of class 2 or 3 (R319). -/
def isLit (k : Core) : Bool := k.slots.toList.any (fun l => l.phase != .empty && 2 ≤ l.heatcls.toNat)

/-- The core's cell has been forced to freewheel (R438). -/
def cellForced (s : State) (c : Nat) : Bool := s.forced.any (fun x => x % 4096 == coreCell 0 c)

/-- A site that a class may use (Table 12.4). -/
def heatSite (cls : BitVec 2) (c : Nat) : Bool := cls.toNat < 2 || (coreX c + coreY c) % 2 == 0

/-- What R316 and R319 ask of a core for a unit of a launch, whatever waits elsewhere; a parked context that the core could take goes
first (R290). -/
def coreFits (s : State) (l : Launch) (unit : Nat) (c : Nat) : Bool :=
  let k := s.core c
  let mine := k.slots.toList.filter (fun x => x.phase != .empty)
  s.isActive c && !freewheels k && !cellForced s c &&
  mine.all (fun x => codeOf s x.launchid == l.code && x.upc == l.desc.upc && x.heatcls == l.desc.heat) &&
  k.parked.all (fun p => p.saved || (codeOf s p.launch == l.code && !canUnpark s k p)) &&
  k.imageDue.all (fun i => codeOf s i == l.code) &&
  partFree k l.desc.upc (unit % l.desc.upc) && mine.length < l.desc.upc && !(emptySlots k).isEmpty &&
  (!l.usesMtx || mtxWorks s c) && heatSite l.desc.heat c &&
  (neighbours s c).all (fun n => !isLit (s.core n.2)) &&
  (l.desc.heat.toNat < 2 || !mine.isEmpty || (neighbours s c).all (fun n => !busyCore (s.core n.2)))

/-- A core that a launch of class 2 or 3 could light: a site of its pattern that R316 does not rule out for good. -/
def couldLight (s : State) (l : Launch) (c : Nat) : Bool :=
  s.isActive c && heatSite l.desc.heat c && !cellForced s c && (!l.usesMtx || mtxWorks s c)

/-- A launch that waits to place units, or to restore them. -/
def Launch.waits (l : Launch) : Bool :=
  l.eligible && !l.ended && !l.cancelling && !l.forcing && (l.next < l.desc.units || (!l.saved.isEmpty && l.preempting.isNone))

/-- PRIO - floor(w / 10 ms), at least 0 (R315). -/
def Launch.effective (l : Launch) : Nat := l.desc.prio - l.aged

/-- A launch stands before another in the queues (R315). -/
def Launch.before (a b : Launch) : Bool :=
  a.effective < b.effective || (a.effective == b.effective && a.order < b.order)

/-- The launch at the front of the highest non-empty effective priority. -/
def frontLaunch (s : State) : Option Launch :=
  (s.dist.launches.filter (fun l => l.waits)).foldl (fun a l =>
    match a with
    | none => some l
    | some x => if l.before x then some l else some x) none

/-- A unit of lower effective priority keeps off the neighbours of the sites that the front launch could light (R319). -/
def litReserve (s : State) (l : Launch) (c : Nat) : Bool :=
  match frontLaunch s with
  | none => false
  | some f => 2 ≤ f.desc.heat.toNat && f.effective < l.effective && (neighbours s c).any (fun n => couldLight s f n.2)

/-- The cores of the module. -/
def allCores : List Nat := List.range 262144

/-- The units that a launch may place next: the next that has never been placed, or any saved one (R315, R329). -/
def Launch.nextUnits (l : Launch) : List Nat :=
  if l.forcing then []
  else if l.next < l.desc.units then [l.next]
  else if l.preempting.isSome then []
  else l.saved.map (fun x => x.unit.toNat)

/-- A core where a unit of a launch may stand now (R316, R319). -/
def siteFor (s : State) (l : Launch) (unit c : Nat) : Bool := coreFits s l unit c && !litReserve s l c

/-- A launch can place its next unit somewhere now. -/
def canPlace (s : State) (l : Launch) : Bool := l.nextUnits.any (fun u => allCores.any (siteFor s l u))

/-- Units below a number that take part j of their core. -/
def partCount (upc n j : Nat) : Nat := (n + upc - 1 - j) / upc

/-- Units of a launch still to be placed or restored that take part j. -/
def Launch.waiting (l : Launch) (j : Nat) : Nat :=
  partCount l.desc.upc l.desc.units j - partCount l.desc.upc l.next j + (l.saved.filter (fun x => x.unit.toNat % l.desc.upc == j)).length

/-- A co-resident launch can be placed whole with no other launch present (R323). -/
def fitsModule (s : State) (l : Launch) : Bool := (l.desc.units + l.desc.upc - 1) / l.desc.upc ≤ (allCores.filter (couldLight s l)).length

/-- Every unit of a launch still to be placed has its place now: each takes one part of a core, and no two of one launch stand in each
other's way. -/
def fitsNow (s : State) (l : Launch) : Bool :=
  (List.range l.desc.upc).all (fun j => l.waiting j ≤ (allCores.filter (siteFor s l j)).length)

/-- A co-resident launch in the middle of its pass. -/
def Launch.inPass (l : Launch) : Bool := l.desc.coresident && l.waits && l.passing

/-- A launch can be served now: a unit of it can be placed, and a co-resident launch begins only when it can be placed whole, with every unit
that it had placed saved (R315, R323, R325). -/
def servable (s : State) (l : Launch) : Bool :=
  l.waits && (if l.desc.coresident && !l.inPass then l.saved.length == l.placed && fitsNow s l else canPlace s l)

/-- The distributor's turn comes to a launch (R315, R323): a pass that can go on comes first, and then the launches before it. -/
def myTurn (s : State) (l : Launch) : Bool :=
  servable s l && (l.inPass || s.dist.launches.all (fun x => x.num == l.num || !(x.inPass || x.before l) || !servable s x))

/-- The distributor may serve a launch on a core now. -/
def mayServe (s : State) (l : Launch) (unit c : Nat) : Bool := myTurn s l && siteFor s l unit c

/-! ### The placement pattern (R321, Table 12.5) -/

/-- A core holds units of a launch that meet a test. -/
def coreHas (s : State) (l : Launch) (p : Nat → Bool) (c : Nat) : Bool :=
  (s.core c).slots.toList.any (fun x => x.phase != .empty && x.launchid == l.num && p x.unitid.toNat)

/-- What a pattern prefers for a unit, the strongest wish first; cores rise with their logical numbers, plate after plate. -/
def prefers (s : State) (l : Launch) (unit : Nat) : List (Nat → Bool) :=
  let group := fun (u : Nat) => u / l.desc.upc / 8
  let octetHas := fun (p : Nat → Bool) (c : Nat) => (List.range 8).any (fun i => coreHas s l p (octetCore (octetOf c) i))
  match l.desc.pattern.toNat with
  | 1 => [coreHas s l (fun _ => true)]
  | 2 => [fun c => !coreHas s l (fun _ => true) c]
  | 3 => [fun c => coreHas s l (fun u => u / l.desc.upc == unit / l.desc.upc) c,
      fun c => octetHas (fun u => group u == group unit) c && !coreHas s l (fun _ => true) c,
      fun c => octetHas (fun u => group u == group unit) c, fun c => !octetHas (fun _ => true) c]
  | _ => []

/-- The site that the distributor takes of its own accord: the lowest core of those that the pattern prefers, and its lowest slot. -/
def site (s : State) (l : Launch) (unit : Nat) : Option (Nat × Fin 4) :=
  if !myTurn s l then none
  else
    let cs := allCores.filter (siteFor s l unit)
    let c? := match (prefers s l unit).findSome? (fun p => cs.find? p) with
      | some c => some c
      | none => cs.head?
    c?.bind (fun c => (emptySlots (s.core c)).head?.map (c, ·))

/-! ### Grants (R296 to R298) -/

/-- A lit core is granted its dark neighbours that hold no unit. -/
def State.grantAll (s : State) (c : Nat) (launch : BitVec 32) : State :=
  (neighbours s c).foldl (fun t n =>
    if holdsUnit (t.core n.2) || (t.core c).grants.any (fun g => g.dir == n.1 && g.launch == launch) then t
    else
      let t1 := if (t.core n.2).lentTo.isEmpty then t.zeroLender n.2 else t
      (t1.updCore n.2 (fun k => { k with lentTo := if k.lentTo.contains c then k.lentTo else k.lentTo ++ [c] })).updCore c (fun k => { k with
        grants := k.grants ++ [⟨n.1, n.2, launch⟩] })) s

/-- The grants that a placement or a restore of a unit of a class begins. -/
def State.lend (s : State) (c : Nat) (launch : BitVec 32) (cls : BitVec 2) : State :=
  if 2 ≤ cls.toNat then s.grantAll c launch else s

/-- GRANT_END. -/
def execGrantEnd (c : Nat) (s : State) : Res := .next (s.endGrants c)

/-! ### Placing (R36, R232, R317) -/

/-- The registers that a placed unit starts with (R36), and its slot's own. -/
def placedSlot (s : State) (l : Launch) (unit c : Nat) : Slot :=
  let base := partBase l.desc.upc (unit % l.desc.upc)
  let x := Slot.reset
  { x with
    phase := .placing
    ctx := { x.ctx with
      pc := l.desc.entry
      g := x.ctx.g.set 30 (BitVec.ofNat 64 base) |>.set 2 (BitVec.ofNat 64 (base + l.desc.lease)) |>.set 3 l.desc.param }
    unitid := BitVec.ofNat 24 unit
    launchid := l.num
    jobid := l.desc.job
    leaseBase := BitVec.ofNat 11 (base / 64)
    leaseSize := BitVec.ofNat 11 (l.desc.lease / 64)
    heatcls := l.desc.heat
    origin := s.coreId c
    upc := l.desc.upc
    since := s.cycle.toNat }

/-- The code on a core is a launch's, or is to be loaded. -/
def State.wantImage (s : State) (c : Nat) (n : BitVec 32) : State :=
  if (s.core c).imageDue.isSome || (s.core c).image == some (codeOf s n) then s
  else s.updCore c (fun k => { k with imageDue := some n })

/-- The next unit of a launch is placed in a slot of a core. -/
def State.place (s : State) (l : Launch) (c : Nat) (t : Fin 4) : State :=
  let s1 := ((s.setSlotAt c t (placedSlot s l l.next c)).wantImage c l.num).lend c l.num l.desc.heat
  let s2 := s1.updLaunch l.num (fun x => { x with
    next := x.next + 1, placed := x.placed + 1, passing := true, st := if x.next + 1 = x.desc.units then 2 else 1 })
  (s2.nameLog c l.desc.job).release c t

/-- UNIT_PLACE. -/
def State.unitPlace (s : State) (n c : Nat) (t : Fin 4) : State :=
  match launchNo s (BitVec.ofNat 32 n) with
  | none => s
  | some l =>
    if l.next < l.desc.units && (s.slotAt c t).phase == .empty && mayServe s l l.next c then s.place l c t else s

def execUnitPlace (l c : Nat) (t : Fin 4) (s : State) : Res := .next (s.unitPlace l c t)

/-! ### Pre-emption (R324 to R330) -/

/-- A state as it would be without some slots' units: the parked contexts of their launches become saved (R330). -/
def without (s : State) (xs : List (Nat × Fin 4)) : State :=
  let ls := xs.map (fun x => (s.slotAt x.1 x.2).launchid)
  let t := xs.foldl (fun t x => t.setSlotAt x.1 x.2 Slot.reset) s
  { t with cores := t.cores.map (fun k => (k.1, { k.2 with
    parked := k.2.parked.map (fun p => if ls.contains p.launch then { p with saved := true } else p) })) }

/-- Every slot that holds a unit. -/
def heldSlots (s : State) : List (Nat × Fin 4) :=
  s.cores.flatMap (fun p => ((List.finRange 4).filter (fun t => (p.2.slots.get t).phase != .empty)).map (fun t => (p.1, t)))

/-- A unit that may be pre-empted: of a launch that is pre-emptible, in RUN, at least 1 ms after its placement or restore (R324). -/
def preemptible (s : State) (x : Nat × Fin 4) : Bool :=
  let l := s.slotAt x.1 x.2
  l.phase == .run && l.leaving.isNone && 700000 ≤ s.cycle.toNat - l.since && (launchNo s l.launchid).any (fun y => y.desc.preemptible)

/-- The PRIO of a slot's launch. -/
def prioAt (s : State) (x : Nat × Fin 4) : Nat := ((launchNo s (s.slotAt x.1 x.2).launchid).map (fun l => l.desc.prio)).getD 0

/-- A slot may be taken for a waiting launch (R324, R325): a co-resident launch's unit only with all of them. -/
def takeable (s : State) (w : Launch) (x : Nat × Fin 4) : Bool :=
  preemptible s x && w.effective < prioAt s x &&
  match launchNo s (s.slotAt x.1 x.2).launchid with
  | none => false
  | some l => !l.desc.coresident || (unitsOf s l.num).all (preemptible s)

/-- A least set of slots, out of some, whose loss lets a launch's unit stand on a core: each one that is not needed is left alone. -/
def leastSet (s : State) (w : Launch) (unit c : Nat) (xs : List (Nat × Fin 4)) : Option (List (Nat × Fin 4)) :=
  if !siteFor (without s xs) w unit c then none
  else some (xs.foldl (fun a x => if siteFor (without s (a.filter (fun y => y != x))) w unit c then a.filter (fun y => y != x) else a) xs)

/-- The slots that a launch's unit needs on a core: out of those of the core and of its neighbours that may be taken, those of high
priority spared first. -/
def needAt (s : State) (w : Launch) (unit c : Nat) : Option (List (Nat × Fin 4)) :=
  let xs := ((c :: (neighbours s c).map (fun n => n.2)).flatMap (fun d => (List.finRange 4).map (fun t => (d, t)))).filter (takeable s w)
  leastSet s w unit c ((List.range 8).flatMap (fun p => xs.filter (fun x => prioAt s x == p)))

/-- One of two needs: that which spares the higher priorities, then the smaller one (R325). -/
def betterNeed (s : State) (a b : List (Nat × Fin 4)) : Bool :=
  let worst := fun (xs : List (Nat × Fin 4)) => xs.foldl (fun m x => min m (prioAt s x)) 8
  worst a < worst b || (worst a == worst b && b.length < a.length)

/-- The least need of a launch's unit over the cores that hold units, and their neighbours. -/
def unitNeed (s : State) (w : Launch) (unit : Nat) : Option (List (Nat × Fin 4)) :=
  let cs := (s.cores.flatMap (fun p => p.1 :: (neighbours s p.1).map (fun n => n.2))).eraseDups
  (cs.filterMap (needAt s w unit)).foldl (fun a x =>
    match a with
    | none => some x
    | some y => if betterNeed s y x then some x else some y) none

/-- What a co-resident launch needs: core after core until it could be placed whole. -/
def wholeNeed (s : State) (w : Launch) : Nat → List (Nat × Fin 4) → List (Nat × Fin 4)
  | 0, _ => []
  | fuel + 1, xs =>
    let t := without s xs
    if fitsNow t w then xs
    else
      match (List.range w.desc.upc).find? (fun j => (allCores.filter (siteFor t w j)).length < w.waiting j) with
      | none => []
      | some j =>
        match unitNeed t w j with
        | none => []
        | some ys => wholeNeed s w fuel (xs ++ ys)

/-- The slots to be pre-empted for a waiting launch that cannot be served without the cores of running launches (R324, R325): those that
are leaving already count as free. -/
def needOf (s : State) (w : Launch) : List (Nat × Fin 4) :=
  let going := (heldSlots s).filter (fun x => beingSaved (s.slotAt x.1 x.2))
  let t := without s going
  if !w.waits || servable t w then []
  else if w.desc.coresident && !w.inPass then wholeNeed t w (heldSlots t).length []
  else (w.nextUnits.findSome? (unitNeed t w)).getD []

/-- The waiting launch for which a slot's unit is to be pre-empted. -/
def claimant (s : State) (x : Nat × Fin 4) : Option Launch := s.dist.launches.find? (fun w => (needOf s w).contains x)

/-- Why a slot's unit is to be pre-empted now, with the job that pays: a refused forced move of a unit of its co-resident launch, which takes
any unit (R324, R325), a hub's order, or a waiting launch. -/
def preemptCause (s : State) (l : Launch) (x : Nat × Fin 4) : Option (Option (BitVec 24)) :=
  if l.forcing then (if (s.slotAt x.1 x.2).phase == .run && (s.slotAt x.1 x.2).leaving.isNone then some none else none)
  else if !preemptible s x then none
  else
    match l.preempting with
    | some j => some j
    | none => (claimant s x).map (fun w => some w.desc.job)

/-- Requests of a slot for a reservation are withdrawn, and its PC stands at the LRW again (R326), unless the grant is on its way. -/
def State.withdrawLrw (s : State) (c : Nat) (t : Fin 4) : State :=
  let isReq := fun (q : Req) => q.core == c && q.slot == t.val
  let isLrw := fun (m : Msg) => isReq m.src && (match m.body with | .lrw _ _ => true | _ => false)
  let granted := s.net.any (fun m => isReq m.src && (match m.body with | .grant _ _ _ => true | _ => false))
  let busy := s.cores.any (fun p => p.2.teller.act.any (fun a => isLrw a.msg))
  if (s.slotAt c t).lrw.isNone || granted || busy then s
  else
    let s1 : State := { s with net := s.net.filter (fun m => !isLrw m) }
    let s2 := s1.coreList.foldl (fun u d => u.updCore d (fun k => { k with
      resvs := k.resvs.map (fun r => { r with waiting := r.waiting.filter (fun w => !isReq w.1) })
      landed := k.landed.filter (fun x => !isLrw x.2)
      held := k.held.filter (fun m => !isLrw m)
      ready := k.ready.filter (fun m => !isLrw m) })) s1
    let isOp := fun (o : Op) =>
      o.slot == t && !o.failed && o.word.extractLsb' 26 6 == 0x23#6 && (match o.kind with | .marked _ _ => true | _ => false)
    let s3 := match (s2.core c).ops.find? isOp with
      | some o => (s2.completeOp c o none).updSlotAt c t (fun l => { l with ctx := { l.ctx with pc := o.pc }, instret := l.instret - 1 })
      | none => s2
    s3.updSlotAt c t (fun l => { l with lrw := none })

/-- A unit whose record lies in a save set: it waits, or it is being restored. -/
def savedUnit (s : State) (n : BitVec 32) (unit : BitVec 24) : Option SavedUnit :=
  match (launchNo s n).bind (fun l => l.saved.find? (fun x => x.unit == unit)) with
  | some x => some x
  | none => (s.cores.flatMap (fun p => p.2.slots.toList)).findSome? (fun l =>
      if l.launchid == n && l.unitid == unit then (l.incoming.bind (fun x => x.saved)).map (fun x => x.1) else none)

/-- A unit saved in a core's save set gives up its record to hub DRAM: the device runtime moves it (R327). -/
def State.moveRecord (s : State) (c : Nat) (i : Fin 4) (n : BitVec 32) (unit : BitVec 24) : State :=
  match savedUnit s n unit with
  | none => s
  | some x =>
    let y : SavedUnit := { x with hub := some (recordOfUnit s n x) }
    let s1 := s.updLaunch n (fun l => { l with saved := l.saved.map (fun z => if z.unit == unit then y else z) })
    let s2 : State := { s1 with cores := s1.cores.map (fun p => (p.1, { p.2 with slots := p.2.slots.map (fun l =>
      if l.launchid == n && l.unitid == unit then { l with incoming := l.incoming.map (fun x => { x with saved := x.saved.map (fun z => (y, z.2)) }) }
      else l) })) }
    (s2.freeRecord c (saveRecord i)).updCore c (fun k => { k with saveSet := k.saveSet.filter (fun y => y.1 != i) })

/-- A record of the save set stands in the way of a slot's image or of a lease. -/
def inTheWay (s : State) (t : Fin 4) (base size : Nat) (y : Fin 4 × BitVec 32 × BitVec 24) : Bool :=
  y.1 == t || (savedUnit s y.2.1 y.2.2).any (fun x => x.leaseBase < base + size && base < x.leaseBase + x.leaseSize)

/-- The older records that stand in a save's way are moved. -/
def State.clearRecords (s : State) (c : Nat) (t : Fin 4) (base size : Nat) : State :=
  ((s.core c).saveSet.filter (inTheWay s t base size)).foldl (fun u y => u.moveRecord c y.1 y.2.1 y.2.2) s

/-- A drained slot's image and lease are written into the save set, 64-byte block by block as the purse covers them (R328), and
the slot becomes EMPTY. -/
def State.saveBlocks (s : State) (c : Nat) (t : Fin 4) (v : Leaving) (job : Option (BitVec 24)) : State :=
  let l := s.slotAt c t
  let total := 64 + l.leaseBytes / 64
  let n := min (total - v.sent) (s.purse c / 44)
  let s1 := (s.setPurse c (s.purse c - 44 * n)).countTo job (44 * n)
  if v.sent + n < total then s1.updSlotAt c t (fun x => { x with leaving := some { v with sent := v.sent + n } })
  else
    let base := l.leaseBase.toNat * 64
    let s2 := s1.clearRecords c t base l.leaseBytes
    let s3 := (s2.putBytes (vaultKey c (saveRecord t)) (slotImage s c t v.matrix)).copyBlocks (tillKey c base)
      (vaultKey c (leaseStore base)) l.leaseBytes
    let u : SavedUnit := ⟨l.unitid, c, some t, partOf l.upc l.unitid, base, l.leaseBytes, besideOf l, none, 0⟩
    let s4 := (s3.emptySlot c t).updCore c (fun k => { k with saveSet := k.saveSet ++ [(t, l.launchid, l.unitid)] })
    (s4.updLaunch l.launchid (fun x => { x with saved := x.saved ++ [u], waited := 0, aged := 0 })).endPreempts

/-- Some units begin to be saved; the parked contexts of their launch become saved where they lie (R330). -/
def State.saveUnits (s : State) (n : BitVec 32) (xs : List (Nat × Fin 4)) (job : Option (BitVec 24)) : State :=
  ((xs.foldl (fun u y => u.leave y.1 y.2 (.preempt job) 0) s).updLaunch n (fun l => { l with passing := false })).saveParked n (fun _ => true)

/-- Units begin to be saved for a cause: a co-resident launch's all together (R325). -/
def State.beginSave (s : State) (l : Launch) (x : Nat × Fin 4) (job : Option (BitVec 24)) : State :=
  let xs := if l.desc.coresident && !l.forcing then unitsOf s l.num else [x]
  if !l.forcing && !xs.all (preemptible s) then s else s.saveUnits l.num xs job

/-- A slot's next step toward being saved: it begins to drain, drains, and is written. -/
def State.preemptSave (s : State) (c : Nat) (t : Fin 4) : State :=
  let l := s.slotAt c t
  match l.leaving with
  | none =>
    match launchNo s l.launchid with
    | none => s
    | some x =>
      match preemptCause s x (c, t) with
      | none => s
      | some job => s.beginSave x (c, t) job
  | some v =>
    match v.why with
    | .preempt job =>
      if v.stage = 3 then s.saveBlocks c t v job
      else
        let s1 := s.withdrawLrw c t
        if drained s1 c t then s1.settle c t 3 else s1
    | _ => s

/-- PREEMPT_SAVE. -/
def execPreemptSave (c : Nat) (t : Fin 4) (s : State) : Res := .next (s.preemptSave c t)

/-- A saved unit begins to come to a slot in RESTORE (R329). -/
def State.beginRestore (s : State) (l : Launch) (x : SavedUnit) (c : Nat) (t : Fin 4) : State :=
  let inc : Incoming := { Incoming.start (.preempt none) x.leaseSize with leaseBase := x.leaseBase, beside := x.beside, spent := x.spent, saved := some (x, 0) }
  let s1 := s.updLaunch l.num (fun y => { y with saved := y.saved.filter (fun z => z.unit != x.unit), passing := true })
  (s1.giveSlot c t x.unit l.num l.desc.job l.desc.upc l.desc.heat inc).lend c l.num l.desc.heat

/-- UNIT_RESTORE: a saved unit goes to RESTORE on a core that meets R316; a unit in RESTORE takes its next step, and goes to RUN when
its context is whole and the core holds its image (R328, R329). -/
def State.unitRestore (s : State) (n u c : Nat) (t : Fin 4) : State :=
  match launchNo s (BitVec.ofNat 32 n) with
  | none => s
  | some l =>
    let y := s.slotAt c t
    if y.phase == .restore && y.launchid == l.num && y.unitid.toNat == u then (s.restoreStep c t).resume c t
    else
      match l.saved.find? (fun x => x.unit.toNat == u) with
      | none => s
      | some x =>
        if y.phase != .empty || l.preempting.isSome || !mayServe s l u c then s else s.beginRestore l x c t

def execUnitRestore (l u c : Nat) (t : Fin 4) (s : State) : Res := .next (s.unitRestore l u c t)

end Sys2Proof.Machine
end

