-- ==== Sys2Proof/Machine/Vred.lean ====
section
/-!
DEFINITION. Reductions over lanes (05_vector.md, R144, R145; 02_numbers.md, R72).
-/
namespace Sys2Proof.Machine

/-- Two children of the tree of R72. -/
def treeJoin {α : Type} (f : α → α → α) : Option α → Option α → Option α
  | some x, some y => some (f x y)
  | some x, none => some x
  | none, y => y

/-- One level of the tree. -/
def treeLevel {α : Type} (f : α → α → α) : List (Option α) → List (Option α)
  | x :: y :: r => treeJoin f x y :: treeLevel f r
  | l => l

/-- The root over a power of two of at most 64 leaves (R72). -/
def treeRoot {α : Type} (f : α → α → α) (xs : List (Option α)) : Option α :=
  ((List.range 6).foldl (fun l _ => treeLevel f l) xs).head?.join

/-- A node formed from two, with the flags of the whole subtree. -/
def joinF (f : Nat → Nat → FOut) (x y : FOut) : FOut :=
  let r := f x.bits y.bits
  ⟨r.bits, r.fl ||| x.fl ||| y.fl⟩

/-- A leaf: a NaN lane enters as the canonical NaN (R72, R144). -/
def leafF (f : FFmt) (x : Nat) : FOut :=
  match unpack f x with
  | .nan sig => outNan f sig
  | _ => ⟨x, flNone⟩

/-- The active lanes of a row as leaves. -/
def leaves {α : Type} (mask : Word) (z : Nat) (f : Nat → α) : List (Option α) :=
  (List.range (64 / z)).map (fun i => if active mask z i then some (f i) else none)

/-- A floating-point reduction: element 0 is the root, the other bytes are zero. -/
def vRed (s : State) (n n64 : Nat) (d a : BitVec 5) (m : BitVec 3) (q e : BitVec 2) (empty : FFmt → Nat)
    (f : FFmt → Rm → Nat → Nat → FOut) : Res :=
  let z := fltSize e
  let fm := ewFmt e
  vecFinish s (fltCoins e n n64) q a 0 (fun x _ p =>
    let r := (treeRoot (joinF (f fm s.rm)) (leaves (s.m m) z (fun i => leafF fm (lane z x i)))).getD ⟨empty fm, flNone⟩
    (p.setV d (packLanes z [r.bits])).raise r.fl)

def execVrsum (d a : BitVec 5) (m : BitVec 3) (q e : BitVec 2) (s : State) : Res :=
  vRed s 12 16 d a m q e (fun _ => 0) fAdd
def execVrmax (d a : BitVec 5) (m : BitVec 3) (q e : BitVec 2) (s : State) : Res :=
  vRed s 6 6 d a m q e (fun f => f.signBit true + f.infBits) (fun f _ x y => fMinMax true f x y)
def execVrmin (d a : BitVec 5) (m : BitVec 3) (q e : BitVec 2) (s : State) : Res :=
  vRed s 6 6 d a m q e (fun f => f.infBits) (fun f _ x y => fMinMax false f x y)
/-- Lanes sign-extended to 64 bits and summed modulo 2^64, into bytes 0 to 7. -/
def execVrsumi (d a : BitVec 5) (m : BitVec 3) (q e : BitVec 2) (s : State) : Res :=
  let z := intSize e
  vecFinish s 6 q a 0 (fun x _ p =>
    p.setV d (packLanes 8 [((treeRoot (fun u v : Word => u + v)
      (leaves (s.m m) z (fun i => BitVec.ofInt 64 (signedOf (8 * z) (lane z x i))))).getD 0).toNat]))

/-- VSCAN (R145): the running sum, its flags, and the elements so far. -/
def scanLanes (f : FFmt) (rm : Rm) (mask : Word) (z : Nat) (old x : Row) : List Nat × FpFlags :=
  let r := (List.range (64 / z)).foldl (fun (acc : Option Nat × FpFlags × List Nat) i =>
    if active mask z i then
      let o := match acc.1 with
        | none => leafF f (lane z x i)
        | some t => fAdd f rm t (lane z x i)
      (some o.bits, acc.2.1 ||| o.fl, acc.2.2 ++ [o.bits])
    else (acc.1, acc.2.1, acc.2.2 ++ [lane z old i])) (none, flNone, [])
  (r.2.2, r.2.1)

def execVscan (d a : BitVec 5) (m : BitVec 3) (q e : BitVec 2) (s : State) : Res :=
  let z := fltSize e
  vecFinish s (fltCoins e 12 16) q a 0 (fun x _ p =>
    let r := scanLanes (ewFmt e) s.rm (s.m m) z (s.v d) x
    (p.setV d (packLanes z r.1)).raise r.2)

end Sys2Proof.Machine
end

