-- ==== Sys2Proof/Machine/Root.lean ====
section
/-!
DEFINITION. The distributor root at work (12_launch_scheduling.md, R306 to R315, R331 to R334; 07, R213 to R227; 13, R368; 15,
R396 to R400).  The root performs unit requests in the order in which they
reached it, and those of one cycle in that of R310; a step that finds another request in front leaves the state as it is.
-/
namespace Sys2Proof.Machine

/-! ### Whose turn it is (R310) -/

/-- A unit completion. -/
def RootReq.isCompletion : RootReq → Bool
  | .completion _ => true
  | _ => false

/-- The place of a request among those of one cycle: completions first, each kind in ascending sender. -/
def rootRank (s : State) (r : RootReq) : Nat := (if r.isCompletion then 0 else 2 ^ 26) + (s.reqId r.src).toNat

/-- A hub's command reached the root in a cycle. -/
def hubAt (s : State) (h : Hub) (n : Word) : Bool := portReady s h && (s.port h).since == n

/-- The cycle in which the last predecessor of a launch ended, when its resolution is due. -/
def dueAt (s : State) (l : Launch) : Option Word :=
  let ps := l.desc.preds.map (launchNo s)
  if l.ended || l.eligible || ps.isEmpty || !ps.all (fun p => p.any (fun x => x.ended)) then none
  else some (BitVec.ofNat 64 (ps.foldl (fun m p => max m ((p.map (fun x => x.endedAt.toNat)).getD 0)) 0))

/-- The unit request whose turn it is, and the state without it: the first of those that reached the root with the oldest one, when no
hub command of that cycle stands before it, and no resolution due by then stands before an instruction. -/
def State.rootHead (s : State) : Option (RootReq × State) :=
  match s.dist.queue with
  | [] => none
  | e :: q =>
    let best := (q.filter (fun x => x.cycle == e.cycle)).foldl (fun a x => if rootRank s x.req < rootRank s a.req then x else a) e
    if hubAt s .a e.cycle || hubAt s .b e.cycle then none
    else if !best.req.isCompletion && s.dist.launches.any (fun l => (dueAt s l).any (fun n => n.toNat ≤ e.cycle.toNat)) then none
    else some (best.req, s.updDist (fun d => { d with queue := ((takeFirst (fun x => x == best) d.queue).map (fun x => x.2)).getD [] }))

/-- An answer to a unit's request. -/
def State.rootAnswer (s : State) (q : Req) (x : Word) (f : Option FaultInfo) : State := s.post q.core 63 q (.deferred x f)

/-- A status in [63:56] of an answer, with a number below (R214, R221). -/
def statusWord (st n : Nat) : Word := BitVec.ofNat 64 (st * 2 ^ 56 + n)

/-! ### Launches (R311 to R314) -/

/-- Table 12.3. -/
def launchDescOf (bs : List Byte) : LaunchDesc :=
  let f := imgNat bs
  { image := BitVec.ofNat 64 (f 0 8), isize := f 8 4, entry := BitVec.ofNat 15 (f 0x0C 2), units := f 0x10 4, upc := f 0x14 1,
    heat := BitVec.ofNat 2 (f 0x15 1), pattern := BitVec.ofNat 2 (f 0x16 1), coresident := (bs.getD 0x17 0).getLsbD 0,
    preemptible := (bs.getD 0x17 0).getLsbD 1, lease := f 0x18 4, prio := f 0x1C 1,
    preds := (List.range (f 0x1D 1)).map (fun i => BitVec.ofNat 32 (f (0x20 + 4 * i) 4)), param := BitVec.ofNat 64 (f 0x30 8),
    graph := BitVec.ofNat 32 (f 0x38 4), phase := BitVec.ofNat 32 (f 0x3C 4), job := BitVec.ofNat 24 (f 0x40 4),
    dsize := f 0x44 4, data := BitVec.ofNat 64 (f 0x48 8), notify := BitVec.ofNat 64 (f 0x50 8) }

/-- A descriptor keeps Table 12.3. -/
def launchDescValid (bs : List Byte) : Bool :=
  let d := launchDescOf bs
  let f := imgNat bs
  isGlobal d.image && d.image.toNat % 64 == 0 && 4 ≤ d.isize && d.isize ≤ 20480 && d.isize % 4 == 0 && f 0x0C 2 < 2 ^ 15 &&
  f 0x0C 2 % 4 == 0 && f 0x0C 2 < d.isize && f 0x0E 2 == 0 && 1 ≤ d.units && d.units ≤ 2 ^ 24 &&
  (d.upc == 1 || d.upc == 2 || d.upc == 4) && f 0x15 1 < 4 && f 0x16 1 < 4 && f 0x17 1 < 4 && d.lease % 64 == 0 &&
  d.lease ≤ 122880 / d.upc && d.prio < 8 && f 0x1D 1 ≤ 4 && f 0x1E 2 == 0 &&
  (List.range 4).all (fun i => i < f 0x1D 1 || f (0x20 + 4 * i) 4 == 0) && f 0x43 1 == 0 && d.dsize % 64 == 0 &&
  d.dsize ≤ d.lease && (d.dsize == 0 || (isGlobal d.data && d.data.toNat % 64 == 0)) &&
  (d.notify == 0 || (isGlobal d.notify && d.notify.toNat % 8 == 0)) &&
  ((bs.drop 0x58).take 40).all (fun b => b == 0)

/-- An open graph that a phase other than the descriptor's holds (R306). -/
def graphElsewhere (s : State) (d : LaunchDesc) : Bool :=
  (findScope s d.job false d.graph).any (fun x => x.live != 0 && x.inPhase != d.phase)

/-- The words of an image that use the MTX (R316). -/
def wordUsesMtx (w : Nat) : Bool :=
  let m := w / 2 ^ 26
  let fn := w % 2 ^ 6
  m == 0x27 || m == 0x28 || (m == 0x15 && (fn == 1 || fn == 2)) || (m == 0x20 && fn == 3)

/-- The words of a byte list. -/
def wordsOf (bs : List Byte) : List Nat := (List.range (bs.length / 4)).map (fun i => imgNat bs (4 * i) 4)

/-- Why a launch is refused (R214), in the order of the rules, or what it is to be. -/
inductive Verdict where
  | refused (status : Nat)
  | fault (f : FaultInfo)
  /-- A page of the image or data is moving. -/
  | wait
  | accept (l : Launch)

/-- The verdict on a descriptor from a launcher of a job (R312).  Once every launch number has been assigned, a launch is refused with status
4 (R307; log entry 72). -/
def judge (s : State) (job : BitVec 24) (bs : List Byte) : Verdict :=
  let d := launchDescOf bs
  match jobOf s d.job with
  | none => .refused 2
  | some j =>
    if !launchDescValid bs || d.job != job || d.prio < j.floor || graphElsewhere s d then .refused 2
    else if d.preds.any (fun p => (findLaunch s d.job p).isNone) then .refused 3
    else if 4096 ≤ j.live || 2 ^ 32 ≤ s.dist.nextLaunch then .refused 4
    else if j.st == 2 || (findScope s d.job false d.graph).any (fun x => x.st == 2) ||
        (findScope s d.job true d.phase).any (fun x => x.st == 2) then .refused 5
    else
      match globRead s d.job d.image d.isize with
      | .fault f => .fault f
      | .wait => .wait
      | .ok code =>
        match globRead s d.job d.data d.dsize with
        | .fault f => .fault f
        | .wait => .wait
        | .ok init =>
          let l : Launch :=
            { num := BitVec.ofNat 32 s.dist.nextLaunch, desc := d, st := 0, placed := 0, done := 0, next := 0, saved := [],
              eligible := false, order := 0, waited := 0, aged := 0, cancelling := false, endedAt := 0, code, init,
              usesMtx := (wordsOf code).any wordUsesMtx, preempting := none, forcing := false, passing := false }
          if d.coresident && !fitsModule s l then .refused 1 else .accept l

/-- A graph or phase gains a launch; one that is not open is opened afresh (R307, R309). -/
def State.openScope (s : State) (job : BitVec 24) (phase : Bool) (n inPhase : BitVec 32) : State :=
  match findScope s job phase n with
  | some _ => s.updScope job phase n (fun x =>
      if x.live = 0 then { x with st := 1, canc := 0, comp := 0, live := 1, inPhase := inPhase } else { x with live := x.live + 1 })
  | none => s.updDist (fun d => { d with scopes := d.scopes ++ [⟨job, phase, n, 1, 0, 0, 1, inPhase⟩] })

/-- A launch whose predecessors have all completed is eligible; one with a cancelled or failed predecessor fails (R314). -/
def State.resolve (s : State) (n : BitVec 32) : State :=
  match launchNo s n with
  | none => s
  | some l =>
    let st := fun (p : BitVec 32) => ((launchNo s p).map (fun x => x.st)).getD 3
    if l.ended || l.eligible then s
    else if l.desc.preds.any (fun p => st p == 4 || st p == 5) then (s.endLaunch n 5).endCancels
    else if l.desc.preds.all (fun p => st p == 3) then
      (s.updLaunch n (fun x => { x with eligible := true, order := s.dist.nextOrder })).updDist (fun d => { d with nextOrder := d.nextOrder + 1 })
    else s

/-- A launch is entered (R307, R309, R312). -/
def State.acceptLaunch (s : State) (l : Launch) : State :=
  let s1 := s.updDist (fun d => { d with launches := d.launches ++ [l], nextLaunch := d.nextLaunch + 1 })
  let s2 := (s1.openScope l.desc.job false l.desc.graph l.desc.phase).openScope l.desc.job true l.desc.phase 0
  (s2.updJob l.desc.job (fun j => { j with live := j.live + 1 })).resolve l.num

/-- What reading a launch's image and data finds in memory (R426, R428). -/
def State.judged (s : State) (bs : List Byte) : State :=
  if s.bad.isEmpty && s.weak.isEmpty then s
  else
    let d := launchDescOf bs
    let t := s.globFound d.job ((d.isize + 63) / 64) d.image
    match globRead s d.job d.image d.isize with
    | .ok _ => t.globFound d.job ((d.dsize + 63) / 64) d.data
    | _ => t

/-- LAUNCH_ACCEPT. -/
def State.launchAccept (s : State) : State :=
  match s.rootHead with
  | some (.launch q bs, t) =>
    match judge s q.job bs with
    | .refused st => t.rootAnswer q (statusWord st 0) none
    | .fault f => (t.judged bs).rootAnswer q 0 (some f)
    | .wait => s
    | .accept l => ((t.judged bs).acceptLaunch l).rootAnswer q (statusWord 0 l.num.toNat) none
  | _ => s

def execLaunchAccept (s : State) : Res := .next s.launchAccept

/-- No request of a resolution's cycle stands before it: a hub's command, a completion, or the resolution of a lower launch (R310). -/
def resolvesNow (s : State) (l : Launch) (n : Word) : Bool :=
  !hubAt s .a n && !hubAt s .b n && s.dist.queue.all (fun e => !(e.req.isCompletion && e.cycle == n)) &&
  s.dist.launches.all (fun x => (dueAt s x).all (fun m => n.toNat < m.toNat || (n == m && l.num.toNat ≤ x.num.toNat)))

/-- PREDECESSOR_RESOLUTION: once the last of a launch's predecessors has ended. -/
def State.predecessors (s : State) (n : Nat) : State :=
  match launchNo s (BitVec.ofNat 32 n) with
  | none => s
  | some l =>
    match dueAt s l with
    | none => s
    | some m => if resolvesNow s l m then s.resolve l.num else s

def execPredecessorResolution (l : Nat) (s : State) : Res := .next (s.predecessors l)

/-- UNIT_COMPLETION (R309); one that follows a cancel is discarded (R334). -/
def State.unitCompletion (s : State) : State :=
  match s.rootHead with
  | some (.completion q, t) =>
    match launchNo s q.launch with
    | none => t
    | some l =>
      if l.ended || l.cancelling then t.endCancels
      else
        let t1 := t.updLaunch l.num (fun x => { x with done := x.done + 1, placed := x.placed - 1 })
        (if l.done + 1 = l.desc.units then t1.endLaunch l.num 3 else t1).endPreempts
  | _ => s

def execUnitCompletion (s : State) : Res := .next s.unitCompletion

/-- LSTAT_PERFORM (R217). -/
def State.lstatPerform (s : State) : State :=
  match s.rootHead with
  | some (.lstat q n, t) =>
    match findLaunch s q.job n with
    | some l => t.rootAnswer q l.stat none
    | none => t.rootAnswer q 0 (some ⟨causeLAUNCH, 1, n.zeroExtend 64⟩)
  | _ => s

def execLstatPerform (s : State) : Res := .next s.lstatPerform

/-- A launch has waited ten more milliseconds (R315). -/
def State.priorityAging (s : State) (n : Nat) : State :=
  s.updLaunch (BitVec.ofNat 32 n) (fun l => if l.waits && (l.aged + 1) * 10000 ≤ l.waited then { l with aged := l.aged + 1 } else l)

/-- PRIORITY_AGING. -/
def execPriorityAging (l : Nat) (s : State) : Res := .next (s.priorityAging l)

/-! ### Cancel (R331 to R334) -/

/-- The scope of a cancel is an object of the job: a launch, an open graph or phase, the job itself (R213, R338). -/
def cancelNames (s : State) (level : Nat) (job : BitVec 24) (n : BitVec 32) : Bool :=
  match level with
  | 0 => (findLaunch s job n).isSome
  | 1 => (findScope s job false n).any (fun x => x.live != 0)
  | 2 => (findScope s job true n).any (fun x => x.live != 0)
  | _ => (jobOf s job).isSome

/-- A scope is marked, its launches stop, and the cancel is entered (R331). -/
def State.cancel (s : State) (x : Cancel) : State :=
  let s1 :=
    match x.level with
    | 0 => s
    | 1 => s.updScope x.job false x.num (fun y => { y with st := 2 })
    | 2 => s.updScope x.job true x.num (fun y => { y with st := 2 })
    | _ => s.updJob x.job (fun j => { j with st := 2 })
  let hit := (s1.dist.launches.filter (fun l => x.covers l && !l.ended)).map (fun l => l.num)
  let s2 := hit.foldl (fun t n => t.updLaunch n (fun l => { l with cancelling := true })) s1
  let s3 := hit.foldl (fun t n => t.stopLaunch n) s2
  (s3.updDist (fun d => { d with cancels := d.cancels ++ [x] })).endCancels

/-- CANCEL_PERFORM. -/
def State.cancelPerform (s : State) : State :=
  match s.rootHead with
  | some (.cancel q level n, t) =>
    if cancelNames s level q.job n && (level != 3 || n == q.job.zeroExtend 32) then t.cancel ⟨level, q.job, n, .unit q, false⟩
    else t.rootAnswer q 0 (some ⟨causeLAUNCH, 1, n.zeroExtend 64⟩)
  | _ => s

def execCancelPerform (s : State) : Res := .next s.cancelPerform

/-! ### Tensors (R218, R368) -/

/-- A range stays in one region of Table 13.1; in the 2 MiB region it is made of whole pages (R340). -/
def regionsOk (base : Word) (size : Nat) : Bool :=
  if vpnLarge (vpnOf base) then base.toNat % 2 ^ 21 == 0 && size % 2 ^ 21 == 0 && base.toNat + size ≤ 2 ^ 48
  else base.toNat + size ≤ 0x800000000000

/-- Table 7.11 holds the limits of its fields. -/
def tregValid (bs : List Byte) : Bool :=
  let base := BitVec.ofNat 64 (imgNat bs 8 8)
  let size := imgNat bs 0x10 8
  imgNat bs 4 1 < 4 && imgNat bs 5 1 < 64 && imgNat bs 6 2 == 0 && isGlobal base && base.toNat % 65536 == 0 &&
  size % 65536 == 0 && 0 < size && size ≤ 2 ^ 40 && (bs.drop 0x20).all (fun b => b == 0) && regionsOk base size

/-- A TREG record as an entry. -/
def tensorOf (job : BitVec 24) (issuer : BitVec 26) (bs : List Byte) : Tensor :=
  ⟨job, BitVec.ofNat 32 (imgNat bs 0 4), BitVec.ofNat 2 (imgNat bs 4 1), BitVec.ofNat 6 (imgNat bs 5 1),
    BitVec.ofNat 64 (imgNat bs 8 8), imgNat bs 0x10 8, BitVec.ofNat 32 (imgNat bs 0x18 4), BitVec.ofNat 32 (imgNat bs 0x1C 4),
    issuer, 0, false⟩

/-- R218, in the order 3, 5, 4, 2, 1; the table of 4 096 entries is the clearing module's (R368).  A launch that was cancelled or failed has
ended as a completed one has (log entry 43). -/
def tregStatus (s : State) (job : BitVec 24) (bs : List Byte) : Nat :=
  let x := tensorOf job 0 bs
  let live := fun (n : BitVec 32) => (findLaunch s job n).any (fun l => !l.ended)
  if !tregValid bs then 3
  else if (s.keys.get x.key.toFin).grant != job then 5
  else if !live x.first || !live x.last || x.last.toNat < x.first.toNat then 4
  else if s.dist.tensors.any (fun y => y.job == job && y.base.toNat < x.base.toNat + x.size && x.base.toNat < y.base.toNat + y.size) then 2
  else if 4096 ≤ (s.dist.tensors.filter (fun y => clearingMod s y.job == clearingMod s job)).length then 1
  else 0

/-- How far one page of a tensor has come at first use. -/
inductive PageProgress where
  | done | waits | short
deriving DecidableEq, Repr

/-- One page of a tensor at first use (R368): it is mapped; one of class A that is mapped already is rehomed once, to its class home or
the next core with a frame, and `tensorsReady` waits for it to stand there. -/
def State.tensorPage (s : State) (x : Tensor) (i : Nat) : PageProgress × State :=
  let vpn := vpnOf (x.base + BitVec.ofNat 64 (x.step * i))
  let home := classCore s x.job vpn x.cls
  match pageEntry s x.job vpn with
  | none =>
    match s.mapOn home x.job vpn x.cls true true x.key with
    | some t => (.done, t)
    | none => (.short, s)
  | some p =>
    if p.st != 1 then (.waits, s)
    else if x.cls != 1 || p.home == s.coreId home || homeGone s p then (.done, s)
    else
      match placeFrame s home p.large with
      | none => (.short, s)
      | some d =>
        let pages := frameSharers s p
        if p.home == s.coreId d then (.done, s)
        else if (match entryHome s p with | some h => !canMove s h pages | none => !movable s pages) then (.waits, s)
        else
          match s.newFrame (s.coreId d) p.large pages.length with
          | none => (.short, s)
          | some (f, t) =>
            (.done, match entryHome s p with
              | some h => t.startMove p h (s.coreId d) f (some x.job) none
              | none => t.orderMove (clearingCore s p.job p.vpn) p (s.coreId d) f none)

/-- Pages of a tensor from the next one on. -/
def State.tensorPages (s : State) (x : Tensor) : Nat → State
  | 0 => s
  | fuel + 1 =>
    if x.size ≤ x.step * x.done then s
    else
      let keep := fun (y : Tensor) (t : State) => t.updDist (fun d => { d with tensors := d.tensors.map (fun z => if z == x then y else z) })
      let (r, t) := s.tensorPage x x.done
      match r with
      | .done => (keep { x with done := x.done + 1 } t).tensorPages { x with done := x.done + 1 } fuel
      | .waits => s
      | .short => if x.short then s else keep { x with short := true } (s.toHubs (.told 4 (x.tensor.zeroExtend 64)))

/-- The tensors whose first use is a launch, mapped as far as frames allow; the launch's units then leave PLACING. -/
def State.mapTensors (s : State) (n : BitVec 32) : State :=
  let due := s.dist.tensors.filter (fun x => x.first == n && x.done * x.step < x.size && !((launchNo s x.last).any (fun l => l.ended)))
  let s1 := due.foldl (fun t x => t.tensorPages x (x.size / x.step + 1)) s
  if tensorsReady s1 n then (unitsOf s1 n).foldl (fun t u => t.release u.1 u.2) s1 else s1

/-- TENSOR_FIRST_USE: once the distributor has chosen cores for as many units as it can place. -/
def State.tensorFirst (s : State) (n : Nat) : State :=
  match launchNo s (BitVec.ofNat 32 n) with
  | none => s
  | some l => if l.next = 0 || l.ended || (l.next < l.desc.units && canPlace s l) then s else s.mapTensors l.num

def execTensorFirstUse (l : Nat) (s : State) : Res := .next (s.tensorFirst l)

/-- A tensor whose last use has ended: its pages without a pin are unmapped, and the entry goes with the last one. -/
def State.endTensor (s : State) (x : Tensor) : State :=
  let pages := s.cores.flatMap (fun c => c.2.pages.filter (inTensor x))
  let firstEnded := (launchNo s x.first).all (fun l => l.ended)
  let drop := fun (t : State) => t.updDist (fun d => { d with tensors := d.tensors.filter (fun y => y != x) })
  if x.done = 0 then (if firstEnded then drop s else s)
  else
    let free := fun (p : PageEntry) => p.pin == 0 && p.st == 1 && !runOn s p.job p.vpn
    let t := (pages.filter free).foldl (fun t p => t.unmapEntry p) s
    if pages.all free then drop t else t

/-- TENSOR_LAST_USE. -/
def State.tensorLast (s : State) (n : Nat) : State :=
  if (launchNo s (BitVec.ofNat 32 n)).any (fun l => l.ended) then
    (s.dist.tensors.filter (fun x => x.last == BitVec.ofNat 32 n)).foldl (fun t x => t.endTensor x) s
  else s

def execTensorLastUse (l : Nat) (s : State) : Res := .next (s.tensorLast l)

/-- TREG_PERFORM: a first-use launch that already has units has its pages mapped at once (R368). -/
def State.tregPerform (s : State) : State :=
  match s.rootHead with
  | some (.treg q bs, t) =>
    match tregStatus s q.job bs with
    | 0 =>
      let x := tensorOf q.job (s.reqId q) bs
      let t1 := t.updDist (fun d => { d with tensors := d.tensors ++ [x] })
      (if (launchNo s x.first).any (fun l => l.next != 0) then t1.mapTensors x.first else t1).rootAnswer q 0 none
    | st => t.rootAnswer q (BitVec.ofNat 64 st) none
  | _ => s

def execTregPerform (s : State) : Res := .next s.tregPerform

/-! ### Quantities and subscriptions (Table 7.13, R220 to R222, R396 to R400) -/

/-- Active cores of the module. -/
def activeCount (s : State) : Nat := (allCores.filter s.isActive).length

/-- Average coins held per active core of a plate, or of the module. -/
def purseLevel (s : State) (region : Nat) : Nat :=
  let cs := if region == 0xFFFF then allCores.filter s.isActive
    else ((List.range 1024).map (fun i => region * 1024 + i)).filter s.isActive
  (cs.map s.purse).foldl (· + ·) 0 / max 1 cs.length

/-- Free user frames of the module. -/
def freeUserFrames (s : State) : Nat :=
  ((allCores.filter s.isActive).map (fun c => (freeFrames s c false).length)).foldl (· + ·) 0

/-- A quantity's region is in range (Table 7.13). -/
def regionOk (qty region : Nat) : Bool :=
  match qty with
  | 0 => region < 256 || region == 0xFFFF
  | 1 => region == 0
  | 2 => region < 2 ^ 15
  | 3 => region == 0
  | 4 => region == 0
  | _ => false

/-- A quantity's value now; of a job that another module opened, the coins counted in this module (log entry 8). -/
def sample (s : State) (job : BitVec 24) (qty region : Nat) : Word :=
  match qty with
  | 0 => BitVec.ofNat 64 (purseLevel s region)
  | 1 => BitVec.ofNat 64 s.power
  | 2 => BitVec.ofInt 64 (reading s (cellKey (region / 4096) (region / 64 % 64) (region % 64)))
  | 3 => ((s.dist.jobs.find? (fun x => x.num == job)).map (fun j => j.coins)).getD 0
  | _ => BitVec.ofNat 64 (freeUserFrames s)

/-- PURSE_PERFORM (R220). -/
def State.pursePerform (s : State) : State :=
  match s.rootHead with
  | some (.purse q x, t) =>
    let qty := x.toNat % 16
    let region := x.toNat / 2 ^ 16 % 2 ^ 16
    let ok := x.toNat == region * 2 ^ 16 + qty && regionOk qty region
    t.rootAnswer q (if ok then sample s q.job qty region else BitVec.allOnes 64) none
  | _ => s

def execPursePerform (s : State) : Res := .next s.pursePerform

/-- Table 15.5. -/
def notifyWord (qty : Nat) (seq : BitVec 16) (x : Word) : Word :=
  seq ++ (if qty == 3 then x.extractLsb' 16 48 else x.extractLsb' 0 48)

/-- Table 7.14 holds the limits of its fields. -/
def subsValid (bs : List Byte) : Bool :=
  imgNat bs 0 1 ≤ 4 && 1 ≤ imgNat bs 1 1 && imgNat bs 1 1 ≤ 3 && regionOk (imgNat bs 0 1) (imgNat bs 2 2) && imgNat bs 4 4 == 0 &&
  imgNat bs 0x10 8 % 8 == 0

/-- A free subscription number of a job: R221 does not say which SUBS gives, and the model gives the lowest (DESIGN CHOICE, log entry 71). -/
def freeSub (s : State) (job : BitVec 24) : Option Nat :=
  (List.range 256).find? (fun i => s.dist.subs.all (fun x => !(x.job == job && x.num.toNat == i)))

/-- SUBS_PERFORM (R221, R397): the reference sample is written before the reply. -/
def State.subsPerform (s : State) : State :=
  match s.rootHead with
  | some (.subs q bs, t) =>
    let qty := imgNat bs 0 1
    let notify := BitVec.ofNat 64 (imgNat bs 0x10 8)
    if !subsValid bs then t.rootAnswer q (statusWord 2 0) none
    else
      match freeSub s q.job with
      | none => t.rootAnswer q (statusWord 1 0) none
      | some i =>
        let x := sample s q.job qty (imgNat bs 2 2)
        let sub : Sub := ⟨q.job, BitVec.ofNat 8 i, qty, BitVec.ofNat 2 (imgNat bs 1 1), BitVec.ofNat 16 (imgNat bs 2 2),
          BitVec.ofNat 64 (imgNat bs 8 8), notify, BitVec.ofNat 64 (imgNat bs 0x18 8), x, true, true, 0, []⟩
        (t.updDist (fun d => { d with subs := d.subs ++ [sub] })).newStore q.job notify (notifyWord qty 0 x) (some (BitVec.ofNat 8 i))
          (some (q, statusWord 0 i))
  | _ => s

def execSubsPerform (s : State) : Res := .next s.subsPerform

/-- UNSUBS_PERFORM (R222): nothing of the subscription lands after it, so that it waits for a store on its way to another module. -/
def State.unsubsPerform (s : State) : State :=
  match s.rootHead with
  | some (.unsubs q n, t) =>
    let ours := fun (x : Notice) => x.job == q.job && x.sub == some n
    if s.dist.notices.any (fun x => ours x && (x.sent || x.answer.isSome)) then s
    else
      (t.updDist (fun d => { d with
        subs := d.subs.filter (fun x => !(x.job == q.job && x.num == n))
        notices := d.notices.filter (fun x => !ours x) })).rootAnswer q 0 none
  | _ => s

def execUnsubsPerform (s : State) : Res := .next s.unsubsPerform

/-- A subscription has a notify write to begin: none of it is under way (R397). -/
def subDue (s : State) (x : Sub) : Bool :=
  !x.pending.isEmpty && s.dist.notices.all (fun y => !(y.job == x.job && y.sub == some x.num))

/-- One of the distributor's stores that wait goes on, or the oldest notify write of a subscription is stored at its home; where it cannot
be, the subscription goes and both hubs are told (R312, R397, R400). -/
def State.notifyWrite (s : State) : State :=
  let u := s.storeOn
  if u != s then u
  else
    match s.pick (s.dist.subs.filter (subDue s)) with
    | none => s
    | some (x, t) =>
      (t.updDist (fun d => { d with subs := d.subs.map (fun y => if y == x then { y with pending := y.pending.drop 1 } else y) })).newStore
        x.job x.notify ((x.pending.head?).getD 0) (some x.num) none

/-- NOTIFY_WRITE. -/
def execNotifyWrite (s : State) : Res := .next s.notifyWrite

/-! ### Reductions (R223 to R227) -/

/-- Table 7.16 holds the limits of its fields.  A RES that is no global address passes here, and then has no page that can be written: status
4 and not 3 (DESIGN CHOICE, log entry 43). -/
def crinitValid (bs : List Byte) : Bool :=
  imgNat bs 0 2 < 1024 && imgNat bs 2 1 ≤ 16 && 1 ≤ imgNat bs 3 1 && imgNat bs 3 1 ≤ 8 && imgNat bs 4 4 == 0 &&
  imgNat bs 8 8 % 64 == 0 && (bs.drop 0x10).all (fun b => b == 0)

/-- CRINIT_PERFORM (R224). -/
def State.crinitPerform (s : State) : State :=
  match s.rootHead with
  | some (.crinit q bs, t) =>
    let num := BitVec.ofNat 10 (imgNat bs 0 2)
    let k := imgNat bs 3 1
    let res := BitVec.ofNat 64 (imgNat bs 8 8)
    if !crinitValid bs then t.rootAnswer q 3 none
    else
      match findReduction s q.job num with
      | some r => t.rootAnswer q (if r.logs == imgNat bs 2 1 && r.k == k && r.res == res then 1 else 2) none
      | none =>
        if (List.range k).all (fun i => globWritable s q.job (res + BitVec.ofNat 64 (64 * i))) then
          (t.updDist (fun d => { d with reductions := d.reductions ++ [⟨q.job, num, imgNat bs 2 1, k, res, 0, false, [], [], [], false, false⟩] })).rootAnswer
            q 0 none
        else t.rootAnswer q 4 none
  | _ => s

def execCrinitPerform (s : State) : Res := .next s.crinitPerform

/-- Neighbouring nodes joined: one level of the canonical slot tree (R226). -/
def joinPairs : List Nat → List Nat
  | a :: b :: r => (fAdd .fp32 .rne a b).bits :: joinPairs r
  | r => r

/-- The root of the canonical slot tree over S = 2^logs leaves. -/
def slotTree : Nat → List Nat → Nat
  | 0, xs => xs.headD 0
  | n + 1, xs => slotTree n (joinPairs xs)

/-- The result of a round: element e is the root over element e of every slot. -/
def roundResult (r : Reduction) : List Byte :=
  (List.range (16 * r.k)).flatMap (fun e =>
    bytesOf 4 (slotTree r.logs ((List.range (2 ^ r.logs)).map (fun i =>
      imgNat ((r.slots.find? (fun x => x.1 == i)).map (fun x => x.2) |>.getD []) (4 * e) 4))))

/-- A block of RES: its key, or the home in another module that writes it (R341). -/
def resBlock (s : State) (r : Reduction) (i : Nat) : Glob (Nat ⊕ Nat) :=
  let va := r.res + BitVec.ofNat 64 (64 * i)
  match globKey s r.job va true with
  | .ok k => .ok (.inl k)
  | .wait => .wait
  | .fault f =>
    match pageEntry s r.job (vpnOf va) with
    | none => .fault f
    | some p =>
      if p.mod == s.modNo || !p.w || p.cow || !s.isReachable (p.mod ++ p.core) then .fault f
      else .ok (.inr (s.dstOf (p.mod ++ p.core)))

/-- The blocks of RES, unless one cannot be written. -/
def resKeys (s : State) (r : Reduction) : Glob (List (Nat ⊕ Nat)) :=
  (List.range r.k).foldr (fun i acc =>
    match resBlock s r i, acc with
    | .ok k, .ok ks => .ok (k :: ks)
    | .fault f, _ => .fault f
    | _, .fault f => .fault f
    | _, _ => .wait) (.ok [])

/-- A reduction replaced. -/
def State.setReduction (s : State) (r : Reduction) : State :=
  s.updDist (fun d => { d with reductions := d.reductions.map (fun x => if x.job == r.job && x.num == r.num then r else x) })

/-- The round counter rises; a round whose result could not be written fails the reduction (R226). -/
def State.closeRound (s : State) (r : Reduction) (lost : Bool) : State × Reduction :=
  let r' := { r with round := r.round + 1, slots := [], failed := r.failed || lost, due := [], lost := false, sent := false }
  ((if lost then s.toHubs (.told 2 (r.num.zeroExtend 64)) else s).setReduction r', r')

/-- A block of the result is written, or goes to its home in another module with a number. -/
def State.writeRes (s : State) (r : Reduction) (id i : Nat) (dest : Nat ⊕ Nat) (bs : List Byte) : State :=
  match dest with
  | .inl key => s.putBytes key bs
  | .inr d => s.post d 1 (rootReq s id r.job) (.store (r.res + BitVec.ofNat 64 (64 * i)) bs)

/-- A full round writes RES, then raises the round counter; when RES cannot be written the reduction fails (R226).  It waits while a page
of RES moves, and the counter waits for the homes in other modules. -/
def State.endRound (s : State) (r : Reduction) : State × Reduction :=
  match resKeys s r with
  | .ok ks =>
    let bs := roundResult r
    let id := s.dist.nextNotice
    let t := ((List.range r.k).zip ks).foldl (fun u x => u.writeRes r (id + x.1) x.1 x.2 ((bs.drop (64 * x.1)).take 64)) s
    let due := (((List.range r.k).zip ks).filter (fun x => x.2.isRight)).map (fun x => id + x.1)
    if due.isEmpty then t.closeRound r false
    else
      let r' := { r with due := due, sent := true }
      ((t.updDist (fun d => { d with nextNotice := d.nextNotice + r.k })).setReduction r', r')
  | .wait => (s, r)
  | .fault _ => s.closeRound r true

/-- A contribution counts in the current round. -/
def State.countSlot (s : State) (r : Reduction) (q : Req) (i : Nat) (bs : List Byte) : State × Reduction :=
  let r1 := { r with slots := r.slots ++ [(i, bs)] }
  let t := (s.setReduction r1).rootAnswer q 0 none
  if r1.slots.length = 2 ^ r.logs then t.endRound r1 else (t, r1)

/-- Contributions that waited count in arrival order as far as the round has room for their slots; a failed reduction takes none
(R225, R226). -/
def State.countWaiting (s : State) (r : Reduction) : Nat → State
  | 0 => s
  | fuel + 1 =>
    if r.failed then
      let s1 := r.waiting.foldl (fun t w => t.rootAnswer w.1 0 (some ⟨causeBARRIER, 4,
        BitVec.ofNat 64 (w.2.1 + r.num.toNat * 2 ^ 16 + r.k * 2 ^ 26)⟩)) s
      s1.setReduction { r with waiting := [] }
    else
      match takeFirst (fun w : Req × Nat × List Byte => r.slots.all (fun x => x.1 != w.2.1)) r.waiting with
      | none => s
      | some (w, rest) =>
        let x := s.countSlot { r with waiting := rest } w.1 w.2.1 w.2.2
        x.1.countWaiting x.2 fuel

/-- A full round goes on: it writes RES once its pages stand still, and ends when every home in another module has answered. -/
def State.roundOn (s : State) : State :=
  match s.dist.reductions.find? (fun r => r.slots.length == 2 ^ r.logs && r.due.isEmpty &&
      (r.sent || (match resKeys s r with | .wait => false | _ => true))) with
  | none => s
  | some r =>
    let x := if r.sent then s.closeRound r r.lost else s.endRound r
    x.1.countWaiting x.2 (r.waiting.length + 1)

/-- CRADD_COUNT (R225): the contribution at the head of the root's queue. -/
def State.craddCount (s : State) : State :=
  match s.rootHead with
  | some (.cradd q i n k bs, t) =>
    let fault := fun (sub : BitVec 8) => t.rootAnswer q 0 (some ⟨causeBARRIER, sub, BitVec.ofNat 64 (i + n * 2 ^ 16 + k * 2 ^ 26)⟩)
    match findReduction s q.job (BitVec.ofNat 10 n) with
    | none => fault 2
    | some r =>
      if r.failed then fault 4
      else if 2 ^ r.logs ≤ i || k != r.k then fault 3
      else if r.slots.any (fun x => x.1 == i) then t.setReduction { r with waiting := r.waiting ++ [(q, i, bs)] }
      else
        let x := t.countSlot r q i bs
        x.1.countWaiting x.2 (r.waiting.length + 1)
  | _ => s

def execCraddCount (s : State) : Res := .next s.craddCount

end Sys2Proof.Machine
end

