-- ==== Sys2Proof/Machine/Energy.lean ====
section
/-!
DEFINITION. The mint, purses, heat windows, ballast, and the cadence pulse (15_energy.md, R388 to R404; 20_observation_replay.md,
R453, R454).
-/
namespace Sys2Proof.Machine

/-! ### The mint (R388 to R392) -/

/-- Which cores are active, by index. -/
def activeArray (s : State) : Array Bool :=
  (s.fused ++ s.harvested ++ s.lost).foldl (fun a c => a.setIfInBounds c false) (Array.replicate 262144 true)

/-- The purses by index. -/
def purseArray (s : State) : Array Nat := s.purses.foldl (fun a p => a.setIfInBounds p.1 p.2) (Array.replicate 262144 0)

/-- What withholding takes from a tick's allowance, and what is carried to the next (R404): the sum due, the allowance. -/
def withholding (s : State) (allowance : Nat) : Nat × Nat :=
  let w := s.withheldCarry + (s.withhold.map (fun x => x.1)).foldl (· + ·) 0
  (allowance - w, w - allowance)

/-- The neighbours of a core that are active. -/
def activeNear (act : Array Bool) (c : Nat) : List Nat :=
  (List.finRange 4).filterMap (fun d => (neighbour c d).bind (fun n => if act.getD n false then some n else none))

/-- What a core passes to each active neighbour at a level (Table 15.2, step 2). -/
def passed (act : Array Bool) (lv : Array Nat) (c : Nat) : Nat :=
  let x := lv.getD c 0
  let n := (activeNear act c).length
  if act.getD c false && 2 ^ 19 < x && n != 0 then (x - 2 ^ 19) / n else 0

/-- The purses after a tick with a share (Table 15.2). -/
def tickPurses (act : Array Bool) (before : Array Nat) (share : Nat) : Tab Nat :=
  let lv : Array Nat := Array.ofFn (fun i : Fin 262144 => before.getD i.val 0 + (if act.getD i.val false then share else 0))
  let out : Array Nat := Array.ofFn (fun i : Fin 262144 => passed act lv i.val)
  allCores.filterMap (fun c =>
    let near := activeNear act c
    let got := (near.map (fun n => out.getD n 0)).foldl (· + ·) 0
    let x := if act.getD c false then min (2 ^ 20) (lv.getD c 0 - near.length * out.getD c 0 + got) else lv.getD c 0
    if x = 0 then none else some (c, x))

/-- The plates' housekeeping pools credited with a tick's coins by their active cores, at most 2 ms of such credits (R395). -/
def tickPlates (s : State) (act : Array Bool) (coins n : Nat) : Tab Plate :=
  (List.range 256).map (fun p =>
    let x := Tab.get s.plates p Plate.reset
    let k := ((List.range 1024).filter (fun i => act.getD (1024 * p + i) false)).length
    let share := coins * k / max 1 n
    (p, { x with pool := min (x.pool + share) (2000 * share : Nat) }))

/-! ### Subscriptions (R396, R399) -/

/-- A quantity's number: temperatures are signed. -/
def quantity (qty : Nat) (x : Word) : Int := if qty == 2 then x.toInt else x.toNat

/-- A subscription after a sample: a counted crossing disarms its direction and adds a notify write.  R399 gives job coins their own
crossing and says nothing of how it re-arms: the sample is compared with THRESH - HYST as plain unsigned numbers (DESIGN CHOICE, log
entry 71). -/
def Sub.sample (b : Sub) (x : Word) : Sub :=
  let th := quantity b.qty b.thresh
  let now := quantity b.qty x
  let old := quantity b.qty b.prev
  let hy : Int := b.hyst.toNat
  let rise :=
    if b.qty == 3 then (x - b.thresh).toNat < 2 ^ 63 && 2 ^ 63 ≤ (b.prev - b.thresh).toNat else decide (th ≤ now ∧ old < th)
  let fall := b.qty != 3 && decide (now < th ∧ th ≤ old)
  let countUp := rise && b.armedUp && b.dir.getLsbD 0
  let countDown := fall && b.armedDown && b.dir.getLsbD 1
  let armUp := if countUp then false else b.armedUp || decide (now ≤ th - hy)
  let armDown := if countDown then false else b.armedDown || decide (th + hy ≤ now)
  if countUp || countDown then
    { b with
      prev := x, armedUp := armUp, armedDown := armDown, seq := b.seq + 1,
      pending := b.pending ++ [notifyWord b.qty (b.seq + 1) x] }
  else { b with prev := x, armedUp := armUp, armedDown := armDown }

/-! ### A tick -/

/-- A core that sleeps for coins wakes; a wake flag clears its hints (R359). -/
def Core.awake (k : Core) : Core :=
  if k.asleep then
    if k.wake then { k with asleep := false, wake := false, hints := Vector.replicate 16 none } else { k with asleep := false }
  else k

/-- A waiting launch waits one more tick; after 10 ms its effective priority is one lower (R315). -/
def Launch.tick (l : Launch) : Launch :=
  if l.waits then { l with waited := l.waited + 1, aged := max l.aged ((l.waited + 1) / 10000) } else l

/-- MINT_TICK: every 700 cycles; nothing is minted before step 5 of a boot (R445). -/
def State.mintTick (s : State) : State :=
  if s.cycle.toNat / 700 ≤ s.tick then s
  else if s.bootStep < 4 then { s with tick := s.tick + 1 }
  else
    let coins := s.capNext * 250000000
    let reserve := coins * 4 / 100
    let w := withholding s (coins - reserve)
    let act := activeArray s
    let n := (act.toList.filter id).length
    let share := w.1 / max 1 n
    let s1 : State := { s with
      tick := s.tick + 1
      cap := s.capNext
      purses := tickPurses act (purseArray s) share
      plates := tickPlates s act (reserve + (w.1 - share * n)) n
      withheldCarry := w.2
      withhold := (s.withhold.map (fun x => (x.1, x.2 - 1))).filter (fun x => x.2 != 0)
      cadDue := s.cadOnce || (s.cadPeriod != 0 && (s.tick + 1) % s.cadPeriod == 0)
      cadOnce := false }
    s1.updDist (fun d => { d with
      launches := d.launches.map Launch.tick
      subs := d.subs.map (fun b => b.sample (sample s1 b.job b.qty b.region.toNat)) })

def execMintTick (s : State) : Res := .next s.mintTick

/-- HEAT_METER_WINDOW: every 10 ticks; a core that sleeps because of the hold wakes (R393). -/
def State.heatWindow (s : State) : State :=
  if s.tick / 10 ≤ s.windows then s
  else
    { s with
      windows := s.windows + 1
      cores := s.cores.map (fun p => (p.1, { (if p.2.heatHeld then p.2.awake else p.2) with heat := 0, heatHeld := false })) }

def execHeatMeterWindow (s : State) : Res := .next s.heatWindow

/-! ### Ballast (R401 to R404, R438) -/

/-- BALLAST_K_STEP: an octet's MTX that works, lies in no forced cell and has no grant, on a plate with a floor (the step's occurrence says that the running
average is below it). -/
def State.ballastStep (s : State) (o : Nat) : State :=
  let c := octetCore o 0
  let p := Tab.get s.plates (plateOf c) Plate.reset
  if s.mtxBad.contains o || cellForced s c || (nextGrant s o).isSome || s.ballastOff || p.floor ≤ 0 then s
  else
    let t := s.housePay c 120
    let q := Tab.get t.plates (plateOf c) Plate.reset
    { t with plates := Tab.put t.plates (plateOf c) { q with ballast := q.ballast + 120 } }

def execBallastKStep (o : Nat) (s : State) : Res := .next (s.ballastStep o)

/-- A plate's events bear the place of its first core. -/
def State.plateEvent (s : State) (p : Nat) (kind : BitVec 8) (data : Word) : State := s.event (1024 * p) kind 0 0 data

/-- The device's part at an interval's end: the overspend and what it withholds (R403, R404). -/
def State.overspend (s : State) (power : Nat) : State :=
  let spent := (s.plates.map (fun p => p.2.ballast)).foldl (· + ·) 0
  let o := min (250 * power - s.cap * 250000000) spent
  { s with
    plates := s.plates.map (fun p => (p.1, { p.2 with ballast := 0 }))
    overspends := if o = 0 then 0 else s.overspends + 1
    ballastOff := s.ballastOff && s.cap * 1000000 < power
    withhold := s.withhold ++ (if o = 0 then [] else [(o / 2000, 2000), (o % 2000, 1)]) }

/-- BALLAST_INTERVAL: a plate's measured current of the interval in mA, and the device power in mW; the last plate of an interval
closes it. -/
def State.ballastInterval (s : State) (p current power : Nat) : State :=
  let x := Tab.get s.plates p Plate.reset
  let s1 := if (current : Int) < x.floor && !s.ballastOff then s.plateEvent p 0x0B 1 else s
  let s2 : State := { s1 with
    plates := Tab.put s1.plates p { x with floor := (current : Int) - 16000 }
    power := power }
  if p = 255 then s2.overspend power else s2

def execBallastInterval (p : Fin 256) (current power : Nat) (s : State) : Res := .next (s.ballastInterval p.val current power)

/-- BALLAST_STOP: after 200 consecutive intervals with overspend (R403). -/
def execBallastStop (s : State) : Res :=
  .next (if s.overspends < 200 || s.ballastOff then s else ({ s with ballastOff := true } : State).plateEvent 0 0x0B 2)

/-! ### The cadence pulse (R453, R454) -/

/-- Table 20.2 for a slot of an active core; it has issued in the pulse cycle when its last issue fell in the cycle of the tick. -/
def slotState (s : State) (c : Nat) (t : Fin 4) (ready : Bool) : Nat :=
  let l := s.slotAt c t
  match l.phase with
  | .empty => 0
  | .run =>
    if (s.core c).dbgMod.reason.get t == 6 then 6
    else if isStopped s c t then 5
    else if s.issued == some (c, t, BitVec.ofNat 64 (700 * s.tick)) then 1
    else if ready then 2
    else 3
  | _ => 4

/-- Table 20.1 for a core, RUN left zero, with the readiness of its slots. -/
def coreSample (s : State) (c : Nat) (ready : Nat) : Nat :=
  let k := s.core c
  if !s.isActive c then 0xE000E000E000E000
  else
    let slots := (List.finRange 4).foldl (fun x t =>
      x + (slotState s c t (ready.testBit t.val) * 2 ^ 13 + (k.slots.get t).ctx.pc.toNat / 4) * 2 ^ (16 * t.val)) 0
    let held := 8 - (freeBuffers k).length
    let teller := (if k.teller.act.isSome then 2 ^ 15 else 0) + (if k.asleep then 2 ^ 14 else 0) +
      ((k.teller.act.map (fun a => a.handler.toNat)).getD 0) * 2 ^ 8 + held
    slots + teller * 2 ^ 80

/-- Runs of equal samples, of at most 1 024 cores. -/
def runEntries : List Nat → List (Nat × Nat)
  | [] => []
  | x :: r =>
    match runEntries r with
    | (y, n) :: rest => if x == y then (y, n + 1) :: rest else (x, 0) :: (y, n) :: rest
    | [] => [(x, 0)]

/-- A plate's block. -/
def plateBlock (s : State) (ready : Nat → Nat) (p : Nat) : List Byte :=
  let es := runEntries ((List.range 1024).map (fun i => coreSample s (1024 * p + i) (ready (1024 * p + i))))
  bytesOf 2 p ++ bytesOf 2 es.length ++ List.replicate 12 0 ++ es.flatMap (fun e => bytesOf 16 (e.1 + e.2 * 2 ^ 96))

/-- A record. -/
def cadenceRecord (s : State) (ready : Nat → Nat) : List Byte :=
  let blocks := (List.range 256).flatMap (plateBlock s ready)
  bytesOf 8 s.cadCount ++ bytesOf 8 s.tick ++ bytesOf 8 s.modNo.toNat ++ bytesOf 4 (64 + blocks.length) ++ List.replicate 36 0 ++ blocks

/-- CADENCE_PULSE: in an armed tick, with the slots that are then ready; a pulse that meets a record still being sent is skipped, and counts. -/
def State.pulse (s : State) : State :=
  if !s.cadDue then s
  else
    let t : State := { s with readySlots := [], cadDue := false, cadCount := s.cadCount + 1 }
    if !s.portA.cadence.isEmpty || !s.portB.cadence.isEmpty then t
    else
      let r := cadenceRecord t (fun c => Tab.get s.readySlots c 0)
      { t with portA := { t.portA with cadence := [r] }, portB := { t.portB with cadence := [r] } }

def execCadencePulse (s : State) : Res := .next s.pulse

end Sys2Proof.Machine
end

