-- ==== Sys2Proof/Machine/Repair.lean ====
section
/-!
DEFINITION. Refresh, thermal cells, scrubbing, repair, retirement and the loss of cores (18_repair_harvest.md, R420 to R442; 08, R244
to R246; 13, R354 to R356).  A step that finds no occasion leaves the state as it is.
-/
namespace Sys2Proof.Machine

/-! ### Refresh (R244, R425) -/

/-- REFRESH begins in a bank with an open row. -/
def State.refresh (s : State) (c z : Nat) : State :=
  let b := s.bank c z
  if refreshing s c z && b.row.isSome && !b.refresh then s.setBank c z { b with refresh := true } else s

def execRefresh (c : Nat) (z : Fin 32) (s : State) : Res := .next (s.refresh c z.val)

/-- REFRESH_END: after 36 cycles; the row that was open is open again, at housekeeping's cost. -/
def State.refreshEnd (s : State) (c z : Nat) : State :=
  let b := s.bank c z
  if b.refresh && !refreshing s c z then
    let t := s.setBank c z { b with refresh := false }
    if b.row.isSome then t.housePay c 250 else t
  else s

/-- What a bank's schedule asks for in this cycle. -/
def State.refreshDue (s : State) (c z : Nat) : State := (s.refreshEnd c z).refresh c z

def execRefreshEnd (c : Nat) (z : Fin 32) (s : State) : Res := .next (s.refreshEnd c z.val)

/-! ### Thermal cells (R437, R438) -/

/-- Table 18.3. -/
def bandOf (x : Int) : Nat := if 920 ≤ x then 4 else if 840 ≤ x then 3 else if 760 ≤ x then 2 else if 680 ≤ x then 1 else 0

/-- The cores of a cell. -/
def cellCores (row col : Nat) : List Nat :=
  (List.range 64).map (fun i => coreAt (8 * col + i % 8) (8 * row + i / 8))

/-- The record of a cell stands at its first core, with its layer. -/
def State.cellEvent (s : State) (layer row col : Nat) (kind : BitVec 8) (data : Word) : State :=
  s.event (coreAt (8 * col) (8 * row)) kind (BitVec.ofNat 5 layer) 0 data

/-- A unit is saved by force; a co-resident launch only as a whole, its units that do not run as soon as they do (R324, R325, R330). -/
def State.forceSave (s : State) (c : Nat) (t : Fin 4) : State :=
  let n := (s.slotAt c t).launchid
  if (launchNo s n).any (fun l => l.desc.coresident) then
    (s.updLaunch n (fun l => { l with forcing := true })).saveUnits n
      ((unitsOf s n).filter (fun x => (s.slotAt x.1 x.2).phase == .run && (s.slotAt x.1 x.2).leaving.isNone)) none
  else s.saveUnits n [(c, t)] none

/-- A unit leaves a forced cell: for a core that R316 allows, or, when none takes it or the move is refused, into a save
record (R438). -/
def State.moveOff (s : State) (c : Nat) (t : Fin 4) : State :=
  let u := s.slotAt c t
  match launchNo s u.launchid with
  | none => s
  | some l =>
    let fits := if 32768 < u.leaseBytes then [] else allCores.filter (fun d => coreFits s l u.unitid.toNat d)
    match s.pick fits with
    | none => s.forceSave c t
    | some (d, p) => p.leave c t .moved (p.coreId d)

/-- The running units of some cores, which nothing moves yet. -/
def settledUnits (s : State) (cs : List Nat) : List (Nat × Fin 4) :=
  cs.flatMap (fun c => ((List.finRange 4).filter (fun t =>
    (s.slotAt c t).phase == .run && (s.slotAt c t).leaving.isNone)).map (fun t => (c, t)))

/-- The units of a forced cell move off, and its cores' grants are withdrawn (R299). -/
def State.vacate (s : State) (row col : Nat) : State :=
  let cs := cellCores row col
  let s1 := (settledUnits s cs).foldl (fun t x => t.moveOff x.1 x.2) s
  cs.foldl (fun t c => (t.core c).grants.foldl (fun u g => u.endGrant c g) t) s1

/-- A cell enters band 4, or stays forced, or leaves (R438). -/
def State.cellForce (s : State) (layer row col : Nat) : State :=
  let key := cellKey 0 row col
  let layers := (List.range 8).map (fun l => reading s (cellKey l row col))
  if s.forced.contains key then
    if layers.all (fun x => x < 800) then
      ({ s with forced := s.forced.filter (fun x => x != key) } : State).cellEvent layer row col 9
        ((BitVec.ofInt 16 (reading s (cellKey layer row col))).zeroExtend 64)
    else s.vacate row col
  else if layers.any (fun x => 920 ≤ x) then
    let n := (settledUnits s (cellCores row col)).length
    (({ s with forced := insertNat key s.forced } : State).vacate row col).cellEvent layer row col 0x0A (BitVec.ofNat 64 n)
  else s

/-- A reading comes into force: `set` enters it. -/
def State.newReading (s : State) (layer row col : Nat) (set : State → State) : State :=
  let key := cellKey layer row col
  let old := reading s key
  let t := set s
  let now := reading t key
  let n := s.cycle.toNat
  let fast := decide (680 ≤ now)
  let rule := if fastRefresh s key == fast then (0, fast) else ((n + 2729) / 2730 * 2730, fast)
  let t1 : State := { t with refreshRule := Tab.put t.refreshRule key rule }
  let t2 :=
    if bandOf old = bandOf now then t1
    else t1.cellEvent layer row col 9 (BitVec.ofNat 64 ((BitVec.ofInt 16 now).toNat + bandOf now * 2 ^ 16))
  t2.cellForce layer row col

/-- SENSOR_CONVERSION. -/
def State.conversion (s : State) (layer row col : Nat) (x : BitVec 16) : State :=
  if s.badSensors.contains (cellKey layer row col) then s
  else s.newReading layer row col (fun t => { t with temps := Tab.put t.temps (cellKey layer row col) x })

def execSensorConversion (layer : Fin 8) (row col : Fin 64) (x : BitVec 16) (s : State) : Res :=
  .next (s.conversion layer.val row.val col.val x)

/-- SENSOR_FAIL: it reads 125 C until the next boot. -/
def State.sensorFail (s : State) (layer row col : Nat) : State :=
  let key := cellKey layer row col
  if s.badSensors.contains key then s
  else (s.newReading layer row col (fun t => { t with badSensors := insertNat key t.badSensors })).cellEvent layer row col 0x0E 0

def execSensorFail (layer : Fin 8) (row col : Fin 64) (s : State) : Res := .next (s.sensorFail layer.val row.val col.val)

/-! ### Patrol scrub (R427) -/

/-- A scrub of one block: an uncorrectable one is reported, a correctable one is counted and written back. -/
def State.scrubBlock (s : State) (key : Nat) : State :=
  if s.bad.contains key then s.foundBad key
  else if (Tab.find s.weak key).isSome then (s.corrected key).sound key
  else s

/-- Blocks of a vault row that need correction. -/
def rowWeak (s : State) (c off : Nat) : Nat :=
  ((List.range 32).filter (fun i => (Tab.find s.weak (vaultKey c (off + 64 * i))).isSome)).length

/-- A vault row is scrubbed: corrections in two passes in a row mark it (R430). -/
def State.scrubRow (s : State) (c off : Nat) : State :=
  let s1 := (List.range 32).foldl (fun t i => t.scrubBlock (vaultKey c (off + 64 * i))) s
  let z := bankOf off
  let row := rowOfOff off
  let b := s1.bank c z
  if rowWeak s c off = 0 then s1.setBank c z { b with suspect := b.suspect.filter (fun r => r != row) }
  else if b.suspect.contains row then s1.markRow c off 1
  else s1.setBank c z { b with suspect := b.suspect ++ [row] }

/-- Position p of a pass: a row of a bank, the banks in rotation. -/
def scrubOff (p : Nat) : Nat := p % 32 * 2 ^ 19 + p / 32 % 256 * 2 ^ 11

/-- The end of a pass: CECNT takes the correction count, which restarts. -/
def State.scrubPassEnd (s : State) (c : Nat) : State :=
  s.updCore c (fun k => { k with
    cecnt := min 255 k.passCorr, passCorr := 0, banks := k.banks.map (fun b => (b.1, { b.2 with laneHits := [] })) })

/-- The plate's pool does not cover deferrable work (R395). -/
def poolShort (s : State) (c coins : Nat) : Bool := (Tab.get s.plates (plateOf c) Plate.reset).pool < (coins : Int)

/-- SCRUB_VAULT_STEP: the next bank in service with no open row, when the plate's pool covers the step (R395). -/
def State.scrubVaultStep (s : State) (c : Nat) : State :=
  let from' := (s.core c).scrubVault
  match ((List.range 32).map (fun i => from' + i)).find? (fun p => (s.bank c (p % 32)).row.isNone && (s.bank c (p % 32)).spoke != 2) with
  | none => s
  | some p =>
    let off := scrubOff p
    let b := s.bank c (p % 32)
    let coins := 250 + 32 * 40 + 40 * rowWeak s c off
    if refreshing s c (p % 32) || b.awaiting.contains (rowOfOff off) || poolShort s c coins then s
    else
      let t := (s.scrubRow c off).housePay c coins
      let u := t.updCore c (fun k => { k with scrubVault := (p + 1) % 8192 })
      if 8192 ≤ p + 1 then u.scrubPassEnd c else u

def execScrubVaultStep (c : Nat) (s : State) : Res := .next (s.scrubVaultStep c)

/-- The coins of a scrub of one till or program store line: an access, and one to write a corrected line back (Table 15.1). -/
def lineCoins (s : State) (key : Nat) : Nat := if (Tab.find s.weak key).isSome && !s.bad.contains key then 8 else 4

/-- SCRUB_TILL_LINE. -/
def State.scrubTillLine (s : State) (c : Nat) : State :=
  let key := tillKey c (64 * (s.core c).scrubTill)
  if poolShort s c (lineCoins s key) then s
  else ((s.scrubBlock key).housePay c (lineCoins s key)).updCore c (fun k => { k with scrubTill := (k.scrubTill + 1) % 2048 })

def execScrubTillLine (c : Nat) (s : State) : Res := .next (s.scrubTillLine c)

/-- SCRUB_PSTORE_LINE. -/
def State.scrubStoreLine (s : State) (c : Nat) : State :=
  let key := storeKey c (64 * (s.core c).scrubStore)
  if poolShort s c (lineCoins s key) then s
  else ((s.scrubBlock key).housePay c (lineCoins s key)).updCore c (fun k => { k with scrubStore := (k.scrubStore + 1) % 512 })

def execScrubPstoreLine (c : Nat) (s : State) : Res := .next (s.scrubStoreLine c)

/-! ### Row repair (R431) -/

/-- The offset of a row of a bank. -/
def rowOff (z : Nat) (row : BitVec 8) : Nat := z * 2 ^ 19 + row.toNat * 2 ^ 11

/-- A tile instruction keeps a bank's open row, or has a step in flight there. -/
def bankBusy (s : State) (c z : Nat) : Bool := refreshing s c z || tileHolds s c z none

/-- ROW_REPAIR: the oldest waiting row of an idle bank goes to a spare row; its correctable blocks are corrected. -/
def State.rowRepair (s : State) (c z : Nat) : State :=
  let b := s.bank c z
  match b.awaiting with
  | [] => s
  | row :: rest =>
    if bankBusy s c z || 8 ≤ b.sparesUsed then s
    else
      let off := rowOff z row
      let s1 := (List.range 32).foldl (fun t i =>
        let key := vaultKey c (off + 64 * i)
        if (Tab.find t.weak key).isSome && !t.bad.contains key then (t.corrected key).sound key else t) s
      let s2 := s1.setBank c z { s1.bank c z with
        awaiting := rest, sparesUsed := b.sparesUsed + 1, suspect := b.suspect.filter (fun r => r != row) }
      (s2.housePay c (2 * (250 + 32 * 40))).event c 4 (BitVec.ofNat 5 z) (BitVec.ofNat 64 off) (BitVec.ofNat 64 (7 - b.sparesUsed))

def execRowRepair (c : Nat) (z : Fin 32) (s : State) : Res := .next (s.rowRepair c z.val)

/-! ### Moving pages off frames (R432, R435) -/

/-- User frames of a core in service (USERFR). -/
def userFrames (k : Core) : Nat :=
  ((List.range 252).filter (fun f =>
    match Tab.find k.banks (f / 8) with
    | none => true
    | some b => b.spoke != 2 && (List.range 32).all (fun i =>
        let row := BitVec.ofNat 8 (f % 8 * 32 + i)
        !b.withdrawn.contains row || b.awaiting.contains row))).length

/-- The pages that lie in a frame or its layer. -/
def pagesIn (s : State) (c f : Nat) : List PageEntry := (s.core c).vaultMap.filter (fun p => frameIn p.large p.frame f)

/-- The move inside a vault (R435, step 1; R485).  Table 15.4 names no purse for it: the plate's housekeeping pool pays (DESIGN CHOICE, log
entry 71). -/
def State.moveInside (s : State) (c : Nat) (p : PageEntry) (f : BitVec 8) : State :=
  let n := pageSize p.large
  let src := vaultKey c (frameOff p.frame)
  let dst := vaultKey c (frameOff f)
  let s1 := s.copyBlocks src dst n
  let s2 := (sharers s c p.large p.frame).foldl (fun t x => t.updPage x.1 x.2 (fun y => { y with frame := f })) s1
  s2.housePay c (80 * (n / 64))

/-- A page moves to another core (R435, step 2): the core that Table 13.5 chooses for its class, or the next with a free
frame. -/
def State.moveAway (s : State) (c : Nat) (p : PageEntry) : State :=
  let chosen := classCore s p.job p.vpn p.cls
  let d := if chosen = c then coreWithFrame s p.large s.ncores ((s.coreNo c).toNat + 1) else placeFrame s chosen p.large
  match d with
  | none => s
  | some d =>
    if d = c then s
    else
      match s.newFrame (s.coreId d) p.large (sharers s c p.large p.frame).length with
      | none => s
      | some (f, t) => t.startMove p c (s.coreId d) f none none

/-- The page of a frame moves: inside the vault when a frame is free there, otherwise away. -/
def State.evacuate (s : State) (c : Nat) (p : PageEntry) : State :=
  match freeFrames s c p.large with
  | f :: _ => s.moveInside c p f
  | [] => s.moveAway c p

/-- The first page in a list of frames that can move now: mapped, not pinned, not being copied (R361, R435). -/
def nextMove (s : State) (c : Nat) (fs : List Nat) : Option PageEntry :=
  fs.findSome? (fun f => (pagesIn s c f).find? (fun p => canMove s c (sharers s c p.large p.frame) && !copyBusy (s.core c) p))

/-- The user frames of a bank. -/
def bankFrames (z : Nat) : List Nat := (List.range 8).map (fun i => 8 * z + i) |>.filter (fun f => f < 252)

/-- A spoke begins to retire (R434). -/
def State.startRetire (s : State) (c z : Nat) : State :=
  let t := s.setBank c z { s.bank c z with spoke := 1 }
  t.event c 7 (BitVec.ofNat 5 z) 0 (BitVec.ofNat 64 ((bankFrames z).filter (frameUsed s c)).length)

/-- FRAME_WITHDRAW: the waiting rows of a bank without a free spare take their frames out of service, each once the frame's page has
moved; a frame that an earlier row has taken out is not reported again; in bank 31 the spoke retires instead (R432). -/
def State.frameWithdraw (s : State) (c z : Nat) : State :=
  let b := s.bank c z
  if b.awaiting.isEmpty || b.sparesUsed < 8 || b.spoke != 0 then s
  else if z = 31 then s.startRetire c z
  else
    let frame := fun (row : BitVec 8) => 8 * z + row.toNat / 32
    let s1 := s.setBank c z { b with withdrawn := b.withdrawn ++ b.awaiting.filter (fun r => !b.withdrawn.contains r) }
    match (b.awaiting.map frame).find? (fun f => !frameUsed s1 c f) with
    | some f =>
      let s2 := s1.setBank c z { s1.bank c z with awaiting := b.awaiting.filter (fun r => frame r != f) }
      if b.withdrawn.any (fun r => frame r == f && !b.awaiting.contains r) then s2
      else s2.event c 5 (BitVec.ofNat 5 z) (BitVec.ofNat 64 f) (BitVec.ofNat 64 (userFrames (s2.core c)))
    | none =>
      match nextMove s1 c (b.awaiting.map frame) with
      | some p => s1.evacuate c p
      | none => s1

def execFrameWithdraw (c : Nat) (z : Fin 32) (s : State) : Res := .next (s.frameWithdraw c z.val)

/-- LANE_STEER: a group with three corrections in this scrub pass goes to the next free spare; the second spare makes the
spoke retire (R433, R434). -/
def State.laneSteer (s : State) (c z : Nat) (g : Fin 9) : State :=
  let b := s.bank c z
  if b.spoke != 0 || 2 ≤ b.lanes.length || (b.laneHits.filter (fun x => x == g.val)).length < 3 then s
  else
    let s1 := (s.setBank c z { b with
      lanes := b.lanes ++ [g], laneHits := b.laneHits.filter (fun x => x != g.val), steerEnd := s.cycle.toNat + 200 }).event c 6
      (BitVec.ofNat 5 z) 0 (BitVec.ofNat 64 (g.val + 16 * b.lanes.length))
    if b.lanes.length = 1 then s1.startRetire c z else s1

def execLaneSteer (c : Nat) (z : Fin 32) (g : Fin 9) (s : State) : Res := .next (s.laneSteer c z.val g)

/-- FRAME_EVACUATE: the lowest frame of a retiring bank whose page can move (R435). -/
def State.frameEvacuate (s : State) (c z : Nat) : State :=
  if (s.bank c z).spoke != 1 then s
  else
    match nextMove s c (bankFrames z) with
    | none => s
    | some p => s.evacuate c p

def execFrameEvacuate (c : Nat) (z : Fin 32) (s : State) : Res := .next (s.frameEvacuate c z.val)

/-- SPOKE_RETIRED: every user frame of a retiring bank is empty (R436). -/
def State.spokeRetired (s : State) (c z : Nat) : State :=
  let b := s.bank c z
  if b.spoke != 1 || (bankFrames z).any (frameUsed s c) then s
  else
    let t := s.setBank c z { b with spoke := 2, refresh := false }
    t.event c 8 (BitVec.ofNat 5 z) 0 (BitVec.ofNat 64 (userFrames (t.core c)))

def execSpokeRetired (c : Nat) (z : Fin 32) (s : State) : Res := .next (s.spokeRetired c z.val)

/-! ### Core loss (R439 to R441) -/

/-- The spare core of a lost one: nearest by hops, then lowest (R440). -/
def spareOf (s : State) (c : Nat) : Option Nat :=
  let cs := ((List.range 1024).map (fun i => plateOf c * 1024 + i)).filter (fun d =>
    d != c && s.isActive d && !isLit (s.core d) && (s.core d).standIn.isNone)
  cs.foldl (fun a d =>
    match a with
    | none => some d
    | some x => if hops c d < hops c x then some d else some x) none

/-- The launches that have a unit, a context, a record or a stub on a core. -/
def launchesOn (s : State) (c : Nat) : List (BitVec 32) :=
  let k := s.core c
  (k.slots.toList.filter (fun l => l.phase != .empty)).map (fun l => l.launchid) ++ k.parked.map (fun p => p.launch) ++
  k.saveSet.map (fun y => y.2.1) ++
  k.stubs.filterMap (fun x =>
    match x with
    | .context l _ _ _ _ _ => some l
    | .page _ _ _ => none)

/-- What becomes of a message that a lost core holds or is about to get: a request for a page homed there faults UNCORR, a
page service request stays with the lost core's router, which sends it on to the spare (R440), as does a shoot-down (log entry 12), and
everything else is discarded. -/
def State.lostMessage (s : State) (c : Nat) (home : List PageEntry) (m : Msg) : State :=
  if m.body.isShoot then { s with net := s.net ++ [m] }
  else
  match m.page with
  | none => s
  | some (job, vpn) =>
    if (findPage home job vpn).isSome then
      match m.body.va.bind (fun va => m.body.faultReply ⟨causeUNCORR, 0, va &&& ~~~63⟩) with
      | some b => s.post m.src.core 63 m.src b
      | none => s
    else s.post c m.handler m.src m.body

/-- The grants that end with a core: those it holds and those it lends. -/
def grantsOf (s : State) (c : Nat) : List (Nat × Grant) :=
  (s.core c).grants.map (fun g => (c, g)) ++
  (s.core c).lentTo.flatMap (fun b => ((s.core b).grants.filter (fun g => g.lender == c)).map (fun g => (b, g)))

/-- What a lost core's departures and arrivals leave behind: a context on its way from it, or in a record of it, never comes; a unit that
was on its way to it ends with its launch, or asks again when it has no answer yet. -/
def State.orphans (s : State) (c : Nat) (k : Core) : State :=
  let from? := fun (n : BitVec 32) (u : BitVec 24) => k.slots.toList.any (fun x => x.phase != .empty && x.leaving.isSome && x.launchid == n && x.unitid == u)
  let s1 := (heldSlots s).foldl (fun t x =>
    let l := t.slotAt x.1 x.2
    let lost := l.incoming.any (fun y => y.saved.any (fun z => z.1.core == c) || (!y.go && from? l.launchid l.unitid))
    let coming := l.leaving.any (fun v => v.dest == s.coreId c && (match v.why with | .preempt _ => false | _ => true))
    if lost then t.endUnit x.1 x.2
    else if coming && l.leaving.any (fun v => v.stage == 3) then t.endUnit x.1 x.2
    else if coming then t.updSlotAt x.1 x.2 (fun y => { y with leaving := y.leaving.map (fun v => { v with stage := min v.stage 1 }) })
    else t) s
  s1.coreList.foldl (fun t d => ((t.core d).parked.filter (fun p => !p.inc.go && from? p.launch p.unit)).foldl (fun u p => u.dropParked d p) t) s1

/-- A core is lost: its launches are cancelled, its grants withdrawn, its number passes to the spare. -/
def State.loseCore (s : State) (c : Nat) (planned : Bool) : State :=
  if !s.isActive c then s
  else
    let k := s.core c
    let ls := launchesOn s c
    let spare := spareOf s c
    let s1 := s.event c 0x0C 0 0 (if planned then 1 else 0)
    let s2 := ls.foldl (fun t n => t.updLaunch n (fun l => { l with cancelling := true })) s1
    let s3 := (List.finRange 4).foldl (fun t i => if (t.slotAt c i).phase == .empty then t else t.stopUnit c i) s2
    let s4 := (ls.foldl (fun t n => t.stopLaunch n) s3).orphans c k
    let s5 := (grantsOf s4 c).foldl (fun t x => t.endGrant x.1 x.2) s4
    let ours := k.msgs ++ s5.net.filter (fun m => m.dst == c)
    let s6 : State := { s5 with net := s5.net.filter (fun m => m.dst != c), lost := insertNat c s5.lost }
    let s7 := s6.setCore c { Core.reset with tree := k.tree, shoots := k.shoots, banks := k.banks, cecnt := k.cecnt }
    let s8 := match spare with
      | some d => s7.updCore d (fun y => { y with standIn := some (s.coreNo c), rebuilding := true })
      | none => s7
    (ours.foldl (fun t m => t.lostMessage c k.vaultMap m) s8).endCancels

/-- The saved records and parked contexts of a core go to hub DRAM before a planned loss (R327, R439). -/
def State.rescue (s : State) (c : Nat) : State :=
  let s1 := (s.core c).saveSet.foldl (fun t y => t.moveRecord c y.1 y.2.1 y.2.2) s
  (s.core c).parked.foldl (fun t p =>
    let x := parkedContext s c p
    let u : SavedUnit := ⟨p.unit, c, some 0, partOf p.upc p.unit, x.leaseBase, x.leaseSize, x.beside, some (x.image, x.lease), x.spent⟩
    (t.leavePark c p).updLaunch p.launch (fun l => { l with saved := l.saved.filter (fun y => y.unit != p.unit) ++ [u] })) s1

/-- A planned loss, once bank 31 has retired: every user page moves away, the units are saved, and then the core is lost
(R436, R439). -/
def State.plannedLoss (s : State) (c : Nat) : State :=
  if !s.isActive c || (s.bank c 31).spoke != 2 then s
  else
    match nextMove s c (List.range 252) with
    | some p => s.moveAway c p
    | none =>
      if (List.range 252).any (frameUsed s c) then s
      else if !(settledUnits s [c]).isEmpty then (settledUnits s [c]).foldl (fun t x => t.forceSave x.1 x.2) s
      else if holdsUnit (s.core c) || !(s.core c).parked.all (fun p => p.inc.go) then s
      else (s.rescue c).loseCore c true

/-- CORE_LOSS. -/
def execCoreLoss (c : Nat) (planned : Bool) (s : State) : Res := .next (if planned then s.plannedLoss c else s.loseCore c false)

/-- IN_FIELD_TEST: it waits while the pool cannot cover it (R395); a core whose logic fails is lost. -/
def execInFieldTest (c : Nat) (logicOk : Bool) (s : State) : Res :=
  .next (if poolShort s c Config.testCoins then s
    else if logicOk then s.housePay c Config.testCoins
    else (s.housePay c Config.testCoins).loseCore c false)

/-- The program store lines that the contexts of a core fetch from: of a running slot, its instruction's, and those of the frame words of
an RPT; of the teller in a user handler, its instruction's. -/
def fetchLines (s : State) (c : Nat) : List Nat :=
  let k := s.core c
  let words := fun (l : Slot) =>
    let p := l.ctx.pc
    if l.ctx.status.getLsbD 0 && 0x5000 ≤ p.toNat && p.toNat < 0x6000 || !l.ctx.status.getLsbD 0 && 0x5000 ≤ p.toNat then []
    else
      match l.rpt, instrOf (s.storeWord c p) with
      | some r, _ => [framePc p ((l.ctx.g.get r.c.toFin).extractLsb' 40 4).toNat]
      | none, .rpt _ n _ _ _ => p :: (List.range (n.toNat + 1)).map (framePc p)
      | none, _ => [p]
  ((k.slots.toList.filter (fun l => l.phase == .run)).flatMap words ++
    (if k.teller.act.any (fun a => 16 ≤ a.handler.toNat) then [k.teller.ctx.pc] else [])).map (fun p => p.toNat / 64)

/-- PSTORE_LINE_REWRITE: a line is written again from its backup; with the backup bad too, the core is lost (R429). A word of the system
code region that no load has written is `Config.systemCode` in the store and in the backup alike (`storeWord`), so the copy keeps it. -/
def State.storeRewrite (s : State) (c line : Nat) : State :=
  let key := storeKey c (64 * line)
  let backup := vaultKey c (0xFC8000 + 64 * line)
  if !s.bad.contains key || !(fetchLines s c).contains line then s
  else
    let t := s.foundBad key
    if t.bad.contains backup then t.loseCore c false
    else ({ t with mem := t.mem.copy backup key 64 } : State).sound key

def execPstoreLineRewrite (c : Nat) (line : Fin 512) (s : State) : Res := .next (s.storeRewrite c line.val)

/-- ROUTER_FAIL: the mesh of the module stops (R422). -/
def execRouterFail (x y : Fin 512) (s : State) : Res :=
  .next (({ s with meshStopped := true } : State).event (coreAt x.val y.val) 0x0C 0 0 (1 <<< 63))

/-- CORR_REPORT: at most one record every 100 ms (R442). -/
def State.corrReport (s : State) (c : Nat) : State :=
  let k := s.core c
  if k.corr = 0 || k.corrTick.any (fun t => decide (s.tick < t + 100000)) then s
  else (s.event c 1 0 0 (BitVec.ofNat 64 k.corr)).updCore c (fun k => { k with corr := 0, corrTick := some s.tick })

def execCorrReport (c : Nat) (s : State) : Res := .next (s.corrReport c)

end Sys2Proof.Machine
end

