-- ==== Sys2Proof/Machine/Boot.lean ====
section
/-!
DEFINITION. Bringing the module up (19_boot.md, R443 to R452; 18, R420 to R424; 20, R465; 21, R475, R478, R482).  `bootStep` is the
last step of Table 19.1 that has ended.
-/
namespace Sys2Proof.Machine

/-! ### Beginning again (R14, R475, R482) -/

/-- A command port at a boot: its registers at reset (Table 12.7); what the hub itself keeps stays. -/
def Port.again (p : Port) : Port :=
  { Port.reset with
    peer := p.peer, rootPort := p.rootPort, pcieUp := p.pcieUp, events := p.events, cadence := p.cadence, mgmt := p.mgmt,
    bootLog := p.bootLog }

/-- The module before step 1.  Hub DRAM, storage, the boot images, the configuration that RIMCONF left and the physical readings stay;
a cold start empties hub DRAM too, and takes the cap back to 8 kW (R445), where it stays while the coolant is out of limits (R483). -/
def State.begin (s : State) (cold : Bool) : State :=
  let cap := if cold then 8 else s.capSet
  { State.reset with
    agenda := s.agenda, focus := s.focus, free := s.free
    mem := if cold then [] else s.mem.filter (fun x => 2 ^ 50 ≤ x.1)
    fused := s.fused, harvested := s.harvested, lost := s.lost, mtxBad := s.mtxBad
    portA := s.portA.again, portB := s.portB.again
    bootStep := 0, powered := true
    rimNext := match s.rimNext with
      | some r => some r
      | none => some (s.modNo, s.routes, s.linkKey)
    cap := if s.coolantLow then 8 else cap, capNext := if s.coolantLow then 8 else cap, capSet := cap
    coolantLow := s.coolantLow, coolant := s.coolant, temps := s.temps
    staged := s.staged, images := s.images, boots := s.boots, storage := s.storage }

/-- POWER_UP: power enters and a cold start begins; in step 2 the vault rails settle before the core rails rise. -/
def State.powerUp (s : State) : State :=
  if !s.powered then s.begin true else if s.bootStep = 1 && !s.bootStopped then { s with bootStep := 2 } else s

def execPowerUp (s : State) : Res := .next s.powerUp

/-- POWER_DOWN: the core rails fall, then the vault rails. -/
def execPowerDown (s : State) : Res := .next (if s.powered then { s.begin true with powered := false } else s)

/-! ### Steps 1 to 4 -/

/-- R465: the digest of the key is the vendor's, the signature verifies, and the version is at least the fused minimum. -/
def imageGood (image : List Byte) : Bool :=
  match Config.imageParts image with
  | none => false
  | some (version, key, sig, body) =>
    Config.shake256 32 key == Config.vendorRoot && Config.ed448Verify key (Config.shake256 64 body) sig && Config.minVersion ≤ version

/-- The image of a kind in force, and the one that the next boot takes: a staged one, when there is one. -/
def State.image (s : State) (kind : Nat) : List Byte := Tab.get s.images kind (Config.factoryImage kind)
def nextImage (s : State) (kind : Nat) : List Byte := Tab.get s.staged kind (s.image kind)

/-- The kind of a hub's firmware. -/
def hubImage : Hub → Nat
  | .a => 2
  | .b => 3

/-- The ROM of a hub accepts its firmware, the plate firmware and the device boot image (R465; log entry 73). -/
def romAccepts (s : State) (h : Hub) : Bool := [hubImage h, 1, 0].all (fun kind => imageGood (nextImage s kind))

/-- Both hubs keep the cause of a failure: the step (R443). -/
def State.bootCause (s : State) (step : Nat) : State :=
  { s with
    portA := { s.portA with bootLog := s.portA.bootLog ++ [step] }
    portB := { s.portB with bootLog := s.portB.bootLog ++ [step] } }

/-- A step fails: the boot stops. -/
def State.bootFails (s : State) (step : Nat) : State := ({ s with bootStopped := true } : State).bootCause step

/-- The boot stands behind a step. -/
def State.bootAt (s : State) (step : Nat) : Bool := s.powered && !s.bootStopped && s.bootStep = step

/-- BOOT_FIRMWARE: step 1, which fails when neither hub passes it (log entry 73). -/
def State.bootFirmware (s : State) : State :=
  if !s.bootAt 0 then s
  else
    let a := romAccepts s .a
    let b := romAccepts s .b
    let t : State := { s with portA := { s.portA with firmwareOk := a }, portB := { s.portB with firmwareOk := b } }
    if !a && !b then t.bootFails 1
    else
      let u : State := { t with
        bootStep := 1, images := (List.range 4).map (fun kind => (kind, nextImage s kind)), staged := [], boots := s.boots + 1 }
      if a && b then u else u.bootCause 1

def execBootFirmware (s : State) : Res := .next s.bootFirmware

/-- BOOT_PLATES: step 3, from hub A, or from hub B when hub A failed step 1. -/
def State.bootPlates (s : State) : State :=
  if s.bootAt 2 then { s with bootStep := 3, plates := [], plateHub := if s.portA.firmwareOk then .a else .b } else s

def execBootPlates (s : State) : Res := .next s.bootPlates

/-- Octets none of whose cores is active. -/
def deadOctets (s : State) : List Nat :=
  let off := (s.fused ++ s.harvested).map octetOf
  (off.filter (fun o => (List.range 8).all (fun p => !s.isActive (octetCore o p)))).foldl (fun l o => insertNat o l) []

/-- A bank after the boot test, with its failing rows and faulty lane groups: each on a spare while there are spares, and else a retired
spoke (R420, R421); a second spare group makes the spoke retire (R434). -/
def bootBank (rows : List (BitVec 8)) (lanes : List (Fin 9)) : Bank :=
  if 8 < rows.length || 2 < lanes.length then { Bank.reset with spoke := 2 }
  else { Bank.reset with sparesUsed := rows.length, lanes := lanes, spoke := if lanes.length = 2 then 1 else 0 }

/-- The boot test repairs a bank's rows and steers its lane groups, with the records of R431, R433 and R434; a bank that it takes out of
service sends none. -/
def State.bootRepair (s : State) (c z : Nat) (rows : List (BitVec 8)) (lanes : List (Fin 9)) : State :=
  let b := bootBank rows lanes
  let s1 := s.setBank c z b
  if b.spoke = 2 then s1
  else
    let s2 := rows.zipIdx.foldl (fun t x =>
      (t.countTo none (2 * (250 + 32 * 40))).event c 4 (BitVec.ofNat 5 z) (BitVec.ofNat 64 (rowOff z x.1)) (BitVec.ofNat 64 (7 - x.2))) s1
    let s3 := lanes.zipIdx.foldl (fun t x => t.event c 6 (BitVec.ofNat 5 z) 0 (BitVec.ofNat 64 (x.1.val + 16 * x.2))) s2
    if b.spoke = 1 then s3.event c 7 (BitVec.ofNat 5 z) 0 0 else s3

/-- The cores whose vaults the boot test has repaired. -/
def State.bootVaults (s : State) : State :=
  (Config.bootFound s.boots).foldl (fun t x =>
    if 262144 ≤ x.1 || 32 ≤ x.2.1 || !t.isActive x.1 then t
    else t.bootRepair x.1 x.2.1 x.2.2.1.eraseDups x.2.2.2.eraseDups) s

/-- The boot test leaves a column without its bank 31, or with fewer than 128 user frames (R421). -/
def vaultFails (k : Core) : Bool :=
  (Tab.find k.banks 31).any (fun b => b.spoke == 2) || userFrames k < 128

/-- Columns are harvested; an octet that this leaves without an active core has no working MTX (R420). -/
def State.harvest (s : State) (cs : List Nat) : State :=
  let t : State := { s with harvested := cs.foldl (fun l c => insertNat c l) s.harvested }
  { t with mtxBad := (deadOctets t).foldl (fun l o => insertNat o l) t.mtxBad }

/-- BOOT_COLUMNS: step 4, with the columns that fail their test and the octets whose MTX fails.  A column lost in life is harvested
(R441), and so is one whose vault fails; its tested cores start as R14 says, with their spare rows and lane groups in use.  A router that
fails its test stops the boot (R422). -/
def State.bootColumns (s : State) (failed mtx : List Nat) : State :=
  if !s.bootAt 3 then s
  else
    match (Config.bootRouters s.boots).filter (fun c => c < 262144) with
    | c :: rest => ((c :: rest).foldl (fun t c => t.event c 0x0C 0 0 0) s).bootFails 4
    | [] =>
      let bad := (failed ++ s.lost).filter (fun c => c < 262144 && !s.fused.contains c)
      let t : State := { s with bootStep := 4, harvested := [], mtxBad := (mtx.filter (fun o => o < 32768)).foldl (fun l o => insertNat o l) [], lost := [], cores := [], cycle := 0, tick := 0 }
      let u := (t.harvest bad).bootVaults
      u.harvest ((u.cores.filter (fun p => vaultFails p.2)).map (fun p => p.1))

def execBootColumns (failed mtxBad : List Nat) (s : State) : Res := .next (s.bootColumns failed mtxBad)

/-! ### Discovery (R446, R447) -/

/-- The cores of a plate. -/
def plateCores (p : Nat) : List Nat := (List.range 1024).map (fun i => 1024 * p + i)

def State.plate (s : State) (p : Nat) : Plate := Tab.get s.plates p Plate.reset

def State.setPlate (s : State) (p : Nat) (x : Plate) : State := { s with plates := Tab.put s.plates p x }

/-- The wave in which a core was reached. -/
def hopOf (s : State) (c : Nat) : Option Nat := (s.core c).tree.map (fun t => t.1)

/-- The parent that a core takes in a wave: the senders rank W, S, E, N. -/
def parentIn (s : State) (w c : Nat) : Option (Fin 4) :=
  ([3, 2, 1, 0] : List (Fin 4)).find? (fun d => (neighbour c d).any (fun n => plateOf n == plateOf c && s.isActive n && hopOf s n == some w))

/-- The children of a core. -/
def childMask (s : State) (c : Nat) : BitVec 4 :=
  (List.finRange 4).foldl (fun m d =>
    match neighbour c d with
    | some n =>
      if plateOf n == plateOf c && ((s.core n).tree.bind (fun t => t.2.1)) == some (d + 2) then m ||| (1#4 <<< d.val) else m
    | none => m) 0

/-- Where the boot record and the staged image lie in a till. -/
def recAt : Nat := 0x1D000
def stageAt : Nat := 0x15000

/-- The first bytes of a boot record (Table 19.2); `n` is NDISC. -/
def bootRecord (s : State) (seed c n : Nat) : List Byte :=
  let addr := fun (o : Option Nat) => bytesOf 8 ((o.map (fun x => coreY x * 512 + coreX x)).getD 0)
  match (s.core c).tree with
  | none => []
  | some (hop, parent, mask) =>
    bytesOf 2 (coreY c % 32 * 32 + coreX c % 32) ++ bytesOf 2 hop ++
    bytesOf 1 (match parent with | some d => d.val | none => 0xFF) ++ bytesOf 1 mask.toNat ++
    bytesOf 2 (if c = seed then n else 0) ++ addr (parent.bind (neighbour c)) ++
    (List.finRange 4).flatMap (fun d => addr (if mask.getLsbD d.val then neighbour c d else none)) ++ addr (some seed)

/-- The 16 KiB device boot image as discovery hands it to a seed (R447). -/
def seedImage (s : State) : List Byte :=
  let body := match Config.imageParts (s.image 0) with
    | some x => x.2.2.2
    | none => []
  (body ++ List.replicate 16384 0).take 16384

/-- A wave has added no core: parents learn of their children, the records are written, and cores not reached are harvested. -/
def State.discovered (s : State) (p seed : Nat) : State :=
  let cs := plateCores p
  let reached := cs.filter (fun c => (s.core c).tree.isSome)
  let s1 := reached.foldl (fun t c => t.updCore c (fun k => { k with
    tree := k.tree.map (fun x => (x.1, x.2.1, childMask s c)) })) s
  let s2 := reached.foldl (fun t c =>
    { t with mem := (t.mem.clear (tillKey c recAt) 0x900).writeBytes (tillKey c recAt) (bootRecord s1 seed c reached.length) }) s1
  let lone := cs.filter (fun c => s.isActive c && (s.core c).tree.isNone)
  let s3 := ({ s2 with mem := s2.mem.writeBytes (tillKey seed stageAt) (seedImage s2) } : State).harvest lone
  s3.setPlate p { s3.plate p with bootStage := 1 }

/-- The coordinates that a core takes over from the sender of its flit: the sender's, plus one step in the flit's direction ([4:0] x, [9:5] y),
as the core's router makes them. -/
def assigned (s : State) (c : Nat) (d : Fin 4) : BitVec 10 :=
  (match neighbour c d with
    | none => 0
    | some n =>
      let x := coreX n % 32
      let y := coreY n % 32
      match d with
      | 0 => BitVec.ofNat 10 (32 * (y + 1) + x)
      | 1 => BitVec.ofNat 10 (32 * y + (x - 1))
      | 2 => BitVec.ofNat 10 (32 * (y - 1) + x)
      | 3 => BitVec.ofNat 10 (32 * y + (x + 1))) ^^^ Config.flitError s.boots c

/-- A core's router has assigned other coordinates than bits [4:0] of the core's physical x and y: it is faulty (R446). -/
def wrongPlace (s : State) (c : Nat) (d : Fin 4) : Bool := assigned s c d != BitVec.ofNat 10 (coreY c % 32 * 32 + coreX c % 32)

/-- Step 5 begins on a plate: its purses are set, at the first run of discovery (R445). -/
def State.plateBegins (s : State) (p : Nat) : State :=
  if (s.plate p).bootRuns = 0 then (plateCores p).foldl (fun t c => if t.isActive c then t.setPurse c (2 ^ 20) else t) s else s

/-- DISCOVERY_WAVE: the next wave of a plate; a faulty router that it finds stops the boot (R446, R422). -/
def State.wave (s : State) (p : Nat) : State :=
  if !s.bootAt 4 || (s.plate p).bootStage != 0 then s
  else
    match seedOf s p with
    | none => s.setPlate p { s.plate p with bootStage := 3 }
    | some seed =>
      if (s.core seed).tree.isNone then (s.plateBegins p).updCore seed (fun k => { k with tree := some (0, none, 0) })
      else
        let w := (s.plate p).wave
        let new := (plateCores p).filterMap (fun c =>
          if s.isActive c && (s.core c).tree.isNone then (parentIn s w c).map (fun d => (c, d)) else none)
        if new.any (fun x => wrongPlace s x.1 x.2) then
          ((new.filter (fun x => wrongPlace s x.1 x.2)).foldl (fun t x => t.event x.1 0x0C 0 0 0) s).bootFails 5
        else if new.isEmpty then s.discovered p seed
        else (new.foldl (fun t x => t.updCore x.1 (fun k => { k with tree := some (w + 1, some x.2, 0) })) s).setPlate p
          { s.plate p with wave := w + 1 }

def execDiscoveryWave (p : Fin 256) (s : State) : Res := .next (s.wave p.val)

/-! ### The boot kernel (R445, R448, R450) -/

/-- The boot unit in slot 0 of the seed (R36): unit 0 of launch 0 and job 0, with no lease. -/
def bootSlot (s : State) (seed : Nat) : Slot := { Slot.reset with phase := .run, origin := s.coreId seed, since := s.cycle.toNat }

/-- A code load of the plate controller: 4 coins a line, counted to housekeeping (R274, R445). -/
def State.plateLoad (s : State) (c addr : Nat) (bs : List Byte) : State := (s.writeStore c addr bs).countTo none ((bs.length + 63) / 64 * 4)

/-- PLATE_BOOT: the program is loaded with entries 16 and 17, and its unit starts. -/
def State.plateBoot (s : State) (p : Nat) : State :=
  if !s.bootAt 4 || (s.plate p).bootStage != 1 then s
  else
    match seedOf s p with
    | none => s
    | some seed =>
      let cs := (plateCores p).filter (fun c => (s.core c).tree.isSome)
      let entry := fun (n : Nat) => (⟨0, true, BitVec.ofNat 15 (0x5000 + n)⟩ : Handler)
      let s1 := cs.foldl (fun t c =>
        ((t.plateLoad c 0 (codeBytes bootText)).plateLoad c 0x5000 (codeBytes (bootImg ++ bootDone))).updCore c (fun k => { k with
          handlers := Tab.put (Tab.put k.handlers 16 (entry 0)) 17 (entry (4 * bootImg.length)) })) s
      (s1.setSlotAt seed 0 (bootSlot s1 seed)).setPlate p { s.plate p with bootStage := 2 }

def execPlateBoot (p : Fin 256) (s : State) : Res := .next (s.plateBoot p.val)

/-- BOOT_IMAGE_INSTALL: the unit has exited; entries 16 and 17 are cleared, and the staged image goes into every program store. -/
def State.installImage (s : State) (p : Nat) : State :=
  match seedOf s p with
  | none => s
  | some seed =>
    if !s.bootAt 4 || (s.plate p).bootStage != 2 || (s.slotAt seed 0).phase != .empty then s
    else
      let cs := (plateCores p).filter (fun c => (s.core c).tree.isSome)
      let s1 := cs.foldl (fun t c =>
        let image := t.mem.readBytes (tillKey c stageAt) 16384
        (t.plateLoad c 0 image).updCore c (fun k => { k with
          handlers := Tab.erase (Tab.erase k.handlers 16) 17, image := some image })) s
      s1.setPlate p { s.plate p with bootStage := 3 }

def execBootImageInstall (p : Fin 256) (s : State) : Res := .next (s.installImage p.val)

/-- A reached core whose PRES bit is clear at the seed. -/
def absent (s : State) (seed c : Nat) : Bool :=
  let i := c % 1024
  (s.core c).tree.isSome && !(s.mem.read (tillKey seed (recAt + 0x80 + i / 8))).getLsbD (i % 8)

/-- BOOT_TIMEOUT: 50 ms after its placement the unit is stopped, and discovery runs again without the cores that are not present, whose banks keep their repairs; after a
third failed run the plate is harvested (R450). -/
def State.bootTimeout (s : State) (p : Nat) : State :=
  match seedOf s p with
  | none => s
  | some seed =>
    if !s.bootAt 4 || (s.plate p).bootStage != 2 || (s.slotAt seed 0).phase == .empty ||
      s.cycle.toNat - (s.slotAt seed 0).since < 35000000 then s
    else
      let cs := plateCores p
      let gone := cs.filter (absent s seed)
      let runs := (s.plate p).bootRuns + 1
      let s1 := gone.foldl (fun t c => t.event c 0x0C 0 0 0) s
      let s2 := cs.foldl (fun t c => t.setCore c { Core.reset with banks := (t.core c).banks }) s1
      let out := if runs < 3 then gone else cs.filter (fun c => !s.fused.contains c)
      let s3 := ({ s2 with net := s2.net.filter (fun m => plateOf m.dst != p) } : State).harvest out
      s3.setPlate p { s3.plate p with bootRuns := runs, bootStage := if runs < 3 then 0 else 3, wave := 0 }

def execBootTimeout (p : Fin 256) (s : State) : Res := .next (s.bootTimeout p.val)

/-! ### Steps 6 to 8 -/

/-- BOOT_NUMBERING: every plate has ended step 5; logical numbers are assigned, routers switch, and N is fixed. -/
def State.numbering (s : State) : State :=
  if s.bootAt 4 && (List.range 256).all (fun p => (s.plate p).bootStage = 3) then
    { s with bootStep := 6, logical := true, ncores := activeCount s }
  else s

def execBootNumbering (s : State) : Res := .next s.numbering

/-- A link comes up when its far module is another one that the table names for it. -/
def linkGood (modNo : BitVec 8) (routes : List (Nat × Nat)) (l m : Nat) : Bool :=
  m != modNo.toNat && m < 256 && (routes.find? (fun r => r.1 == m)).any (fun r => r.2 == l)

/-- BOOT_RIM: the far module number of each link that trains. -/
def State.bootRim (s : State) (far : List (Nat × Nat)) : State :=
  if !s.bootAt 6 then s
  else
    let r := s.rimNext.getD (s.modNo, s.routes, s.linkKey)
    let up : Vector Link 16 := Vector.ofFn (fun l : Fin 16 =>
      match far.find? (fun x => x.1 == l.val) with
      | some x =>
        if linkGood r.1 r.2.1 l.val x.2 then { Link.reset with up := true, far := some (BitVec.ofNat 8 x.2) } else Link.reset
      | none => Link.reset)
    let reached := (List.range 256).filter (fun m => m != r.1.toNat &&
      (r.2.1.find? (fun x => x.1 == m)).any (fun x => (up.toList.getD x.2 Link.reset).up))
    { s with
      bootStep := 7, modNo := r.1, routes := r.2.1, linkKey := r.2.2, rimNext := none, links := up
      joined := BitVec.ofNat 8 reached.length }

def execBootRim (far : List (Nat × Nat)) (s : State) : Res := .next (s.bootRim far)

/-- Working matrix units. -/
def mtxWorking (s : State) : Nat := 32768 - s.mtxBad.length

/-- BOOT_RUNTIME: the capacity map is built, the semaphores are free, and the ports accept commands; counts below the guarantee are
reported (R424). -/
def State.bootRuntime (s : State) : State :=
  if !s.bootAt 7 then s
  else
    let t : State := { s with bootStep := 8, mapGen := 0, sems := Vector.replicate 32 ⟨0, none, 0⟩ }
    let n := activeCount s
    if n < Config.orderedCores || mtxWorking s < Config.orderedMtx then
      t.event 0 0x0D 0 0 (BitVec.ofNat 64 (n + mtxWorking s * 2 ^ 32))
    else t

def execBootRuntime (s : State) : Res := .next s.bootRuntime

end Sys2Proof.Machine
end

