-- ==== Sys2Proof/Machine/Branch.lean ====
section
/-!
DEFINITION. Branches and jumps (04_scalar_control.md, R107 to R109).
-/
namespace Sys2Proof.Machine

/-- A transfer of control: the PC is the target; the trace takes it up (R459). -/
def State.goTo (s : State) (x : BitVec 15) : State := (s.note (.branch x)).retireTo x

/-- BR (R108): two coins; taken when the condition holds. -/
def branch (s : State) (c : Bool) (o : BitVec 13) : Res :=
  paying s 2 (fun p => .next (if c then p.goTo (pcPlus s.pc o.toInt) else p.retireTo (s.pc + 4)))

def execBeq (a b : BitVec 5) (o : BitVec 13) (s : State) : Res := branch s (s.g a == s.g b) o
def execBne (a b : BitVec 5) (o : BitVec 13) (s : State) : Res := branch s (s.g a != s.g b) o
def execBlt (a b : BitVec 5) (o : BitVec 13) (s : State) : Res := branch s ((s.g a).slt (s.g b)) o
def execBge (a b : BitVec 5) (o : BitVec 13) (s : State) : Res := branch s (!(s.g a).slt (s.g b)) o
def execBltu (a b : BitVec 5) (o : BitVec 13) (s : State) : Res := branch s ((s.g a).ult (s.g b)) o
def execBgeu (a b : BitVec 5) (o : BitVec 13) (s : State) : Res := branch s (!(s.g a).ult (s.g b)) o
def execBbs (a b : BitVec 5) (o : BitVec 13) (s : State) : Res := branch s ((s.g a).getLsbD (shOf (s.g b))) o
def execBbc (a b : BitVec 5) (o : BitVec 13) (s : State) : Res := branch s (!(s.g a).getLsbD (shOf (s.g b))) o

/-- The link: (PC + 4) mod 2^15 (R109). -/
def State.link (s : State) : Word := (s.pc + 4).zeroExtend 64

def execJal (d : BitVec 5) (o : BitVec 21) (s : State) : Res :=
  paying s 2 (fun p => .next ((p.setG d s.link).goTo (pcPlus s.pc o.toInt)))

/-- The target is read before the link is written; a misaligned one traps with no link. -/
def execJalr (d a : BitVec 5) (i : BitVec 16) (s : State) : Res :=
  let t := BitVec.ofInt 15 ((s.g a).toInt + i.toInt * 4)
  if t.extractLsb' 0 2 ≠ 0 then paying s 2 (fun p => trapped p causeMISALIGN 0 (t.zeroExtend 64))
  else paying s 2 (fun p => .next ((p.setG d s.link).goTo t))

end Sys2Proof.Machine
end

