-- ==== Sys2Proof/Machine/Hub.lean ====
section
/-!
DEFINITION. The device window of the hubs: command port registers, semaphores, and the hub commands
(12_launch_scheduling.md, R335 to R338; 21_interfaces.md, R470 to R474; 20, R467, R468).
-/
namespace Sys2Proof.Machine

/-! ### Registers (Tables 12.7 and 21.1) -/

/-- The hub that a port belongs to, other than a given one. -/
def otherHub : Hub → Hub
  | .a => .b
  | .b => .a

/-- A ring register is written only while the ring is empty; otherwise CQERR is set. -/
def ringWrite (p q : Port) : Port := if p.cqhead == p.cqtail then q else { p with cqerr := true }

/-- CQTAIL: at or beyond CQSIZE it sets CQERR; the first command of an empty ring reaches the root. -/
def State.writeCqtail (s : State) (h : Hub) (v : BitVec 64) : State :=
  let p := s.port h
  if (v.extractLsb' 0 12).toNat < p.cqsize.toNat then
    s.setPort h { p with cqtail := v.extractLsb' 0 12, since := if p.cqhead == p.cqtail then s.cycle else p.since }
  else s.setPort h { p with cqerr := true }

def execCqtail (h : Hub) (v : BitVec 64) (s : State) : Res := .next (s.writeCqtail h v)

/-- RQHEAD: replies that waited go into the room. -/
def State.writeRqhead (s : State) (h : Hub) (v : BitVec 64) : State :=
  let t := s.setPort h { s.port h with rqhead := v.extractLsb' 0 12 }
  t.flushReplies h (t.port h).owed

def execRqhead (h : Hub) (v : BitVec 64) (s : State) : Res := .next (s.writeRqhead h v)

/-- The semaphore that a write names. -/
def semOf (v : BitVec 64) : BitVec 5 := v.extractLsb' 0 5

def State.sem (s : State) (n : BitVec 5) : Sem := s.sems.get n.toFin

def State.setSem (s : State) (n : BitVec 5) (x : Sem) : State := { s with sems := s.sems.set n.toNat x n.isLt }

/-- SEMACQ: of two writes in one cycle, hub A's takes the semaphore (R336). -/
def State.acquireSem (s : State) (h : Hub) (v : BitVec 64) : State :=
  let x := s.sem (semOf v)
  if x.owner.isNone then s.setSem (semOf v) ⟨x.count + 1, some h, s.cycle⟩
  else if h = .a && x.owner = some .b && x.taken == s.cycle then s.setSem (semOf v) { x with owner := some .a }
  else s

def execSemacq (h : Hub) (v : BitVec 64) (s : State) : Res := .next (s.acquireSem h v)

/-- SEMREL. -/
def State.releaseSem (s : State) (h : Hub) (v : BitVec 64) : State :=
  let x := s.sem (semOf v)
  if x.owner = some h then s.setSem (semOf v) { x with owner := none } else s.setPort h { s.port h with semerr := true }

def execSemrel (h : Hub) (v : BitVec 64) (s : State) : Res := .next (s.releaseSem h v)

/-- SEMFREL. -/
def State.forceSem (s : State) (v : BitVec 64) : State := s.setSem (semOf v) { s.sem (semOf v) with owner := none }

def execSemfrel (_h : Hub) (v : BitVec 64) (s : State) : Res := .next (s.forceSem v)

/-- A write into the window: the ring registers, CPSTAT, and the registers with rows of their own; read-only ones ignore it, and an
offset that the tables do not list sets the bus-error flag (R470). -/
def State.windowWrite (s : State) (h : Hub) (off : Nat) (v : BitVec 64) : State :=
  let p := s.port h
  let page := (v.extractLsb' 12 36 ++ 0#12)
  if off % 8 != 0 then s.setPort h { p with busErr := true }
  else
    match off with
    | 0x008 => s.setPort h (ringWrite p { p with cqbase := page })
    | 0x010 => if s.bootStep < 8 then s else s.setPort h (ringWrite p { p with cqsize := v.extractLsb' 0 13 })
    | 0x018 => s.writeCqtail h v
    | 0x028 => s.setPort h (ringWrite p { p with rqbase := page })
    | 0x030 => s.setPort h (ringWrite p { p with rqsize := v.extractLsb' 0 13 })
    | 0x038 => s.writeRqhead h v
    | 0x048 => s.setPort h { p with cqerr := p.cqerr && !v.getLsbD 1, semerr := p.semerr && !v.getLsbD 0 }
    | 0x200 => s.acquireSem h v
    | 0x208 => s.releaseSem h v
    | 0x210 => s.forceSem v
    | _ =>
      if off == 0 || off == 0x20 || off == 0x40 || (0x100 ≤ off && off < 0x200) || off == 0x1000 || off == 0x1008 then s
      else s.setPort h { p with busErr := true }

/-- REGISTER_WRITE. -/
def execRegisterWrite (h : Hub) (off : Nat) (v : BitVec 64) (s : State) : Res := .next (s.windowWrite h off v)

/-- An aligned 8-byte access to an offset that Tables 12.7 and 21.1 list. -/
def windowOk (off width : Nat) : Bool :=
  width == 8 && off % 8 == 0 && (off ≤ 0x48 || (0x100 ≤ off && off < 0x200) || off == 0x200 || off == 0x208 || off == 0x210 ||
    off == 0x1000 || off == 0x1008)

/-- What a hub's aligned 8-byte load from the window reads (Tables 12.7 and 21.1); elsewhere zero. -/
def windowRead (s : State) (h : Hub) (off : Nat) : Nat :=
  let p := s.port h
  if !windowOk off 8 then 0
  else if 0x100 ≤ off && off < 0x200 then
    let x := s.sem (BitVec.ofNat 5 ((off - 0x100) / 8))
    x.count.toNat * 2 ^ 32 + (match x.owner with | none => 0 | some .a => 1 | some .b => 2)
  else
    match off with
    | 0x000 => 0x100 + (match h with | .a => 0 | .b => 1)
    | 0x008 => p.cqbase.toNat
    | 0x010 => p.cqsize.toNat
    | 0x018 => p.cqtail.toNat
    | 0x020 => p.cqhead.toNat
    | 0x028 => p.rqbase.toNat
    | 0x030 => p.rqsize.toNat
    | 0x038 => p.rqhead.toNat
    | 0x040 => p.rqtail.toNat
    | 0x048 => p.cqerr.toNat * 2 + p.semerr.toNat
    | 0x1000 => s.bootStep * 2 ^ 32 + p.peer.toNat * 256 + s.modNo.toNat
    | 0x1008 => s.cap
    | _ => 0

/-! ### What a hub does besides (R469, R470, R474, R475) -/

/-- A load from the window: what it reads, and the bus-error flag (R470). -/
def State.windowLoad (s : State) (h : Hub) (off width : Nat) : State × Nat :=
  if windowOk off width then (s, windowRead s h off) else (s.setPort h { s.port h with busErr := true }, 0)

/-- A store into the window (R470). -/
def State.windowStore (s : State) (h : Hub) (off width : Nat) (v : Word) : State :=
  if windowOk off width then s.windowWrite h off v else s.setPort h { s.port h with busErr := true }

/-- The messages of Table 21.3, in version 1 (R475). -/
def mgmtKnown (version code : Nat) : Bool := version == 1 && 1 ≤ code && code ≤ 0x12

/-- A hub's own act.  A management message of Table 21.3 comes as the machine step of its name; one with another code or version gets an
error message (R475; log entry 9).  An endpoint's external host reaches the 1 GiB window of BAR2 in writes of at most 512 bytes (R474). -/
def State.hubAct (s : State) (h : Hub) (a : HubAct) : State :=
  let p := s.port h
  match a with
  | .load off width => (s.windowLoad h off width).1
  | .store off width v => s.windowStore h off width v
  | .dram addr bs => { s with mem := hubPut s.mem h addr bs }
  | .window base => s.setPort h { p with bar2 := base }
  | .bar2 off bs =>
    match p.bar2 with
    | some base =>
      if !p.rootPort && p.pcieUp && bs.length ≤ 512 && off + bs.length ≤ 2 ^ 30 then { s with mem := hubPut s.mem h (base + off) bs } else s
    | none => s
  | .message version code =>
    if mgmtKnown version code then s
    else
      let body := Config.mgmtBody 0 (bytesOf 2 version ++ bytesOf 2 code)
      s.setPort h { p with mgmt := p.mgmt ++ [bytesOf 2 1 ++ bytesOf 2 0 ++ bytesOf 4 body.length ++ body] }

/-! ### Reading commands (R337, Table 12.8) -/

/-- A command entry. -/
structure Cmd where
  op : Nat
  level : Nat
  tag : BitVec 32
  job : BitVec 24
  num : BitVec 32
  arg : Word
  desc : List Byte
  /-- A Z field that every command has is not zero. -/
  bad : Bool
deriving DecidableEq, Repr

/-- Every byte of a part of an entry is zero. -/
def zeroPart (bs : List Byte) (off n : Nat) : Bool := ((bs.drop off).take n).all (fun b => b == 0)

/-- The fields of an entry. -/
def cmdOf (bs : List Byte) : Cmd :=
  let f := imgNat bs
  { op := f 0 1, level := f 1 1 % 4, tag := BitVec.ofNat 32 (f 4 4), job := BitVec.ofNat 24 (f 8 3), num := BitVec.ofNat 32 (f 0x0C 4),
    arg := BitVec.ofNat 64 (f 0x10 8), desc := (bs.drop 0x40).take 128
    bad := 4 ≤ f 1 1 || !zeroPart bs 2 2 || !zeroPart bs 11 1 || !zeroPart bs 0x18 40 || !zeroPart bs 0xC0 64 }

/-- The command at the head of a port's ring, when the device may read it (R337) and its turn has come: of two that reached the root in one
cycle, hub A's is the first (R310). -/
def headCmd (s : State) (h : Hub) : Option Cmd :=
  let p := s.port h
  if !portReady s h || (h = .b && hubAt s .a p.since) then none
  else some (cmdOf (hubGet s.mem h (p.cqbase.toNat + 256 * p.cqhead.toNat) 256))

/-- The head entry has been read; the next one reaches the root after it. -/
def State.popCmd (s : State) (h : Hub) : State :=
  let p := s.port h
  s.setPort h { p with cqhead := ringNext p.cqhead p.cqsize, since := s.cycle + 1 }

/-- DESC bytes that a command must leave zero: all of them, or for the DMA commands those from 0x58 on. -/
def descBad (x : Cmd) : Bool := !(if x.op = 8 || x.op = 9 then x.desc.drop 24 else x.desc).all (fun b => b == 0)

/-- Performs a port's head command when it is of a given kind; an unknown OP or a non-zero Z field gets BADCMD. -/
def State.command (s : State) (h : Hub) (op : Nat) (run : Cmd → State → State) : State :=
  match headCmd s h with
  | none => s
  | some x =>
    if x.op = 0 || 0x0B ≤ x.op then (s.popCmd h).hubReply h x.tag 8 0
    else if x.op != op then s
    else if x.op != 1 && (x.bad || descBad x) then (s.popCmd h).hubReply h x.tag 8 0
    else run x s

/-! ### The commands of Table 12.9 -/

/-- HUB_LAUNCH (R312), for the job that the command names (Table 12.9; log entry 52). -/
def State.hubLaunch (s : State) (h : Hub) : State :=
  s.command h 1 (fun x s =>
    let p := s.popCmd h
    if x.bad then p.hubReply h x.tag 2 0
    else
      match judge s x.job x.desc with
      | .refused st => p.hubReply h x.tag st 0
      | .fault f => (p.judged x.desc).hubReply h x.tag 10 f.addr
      | .wait => s
      | .accept l => ((p.judged x.desc).acceptLaunch l).hubReply h x.tag 0 (l.num.zeroExtend 64))

def execHubLaunch (h : Hub) (s : State) : Res := .next (s.hubLaunch h)

/-- HUB_CANCEL (R331). -/
def State.hubCancel (s : State) (h : Hub) : State :=
  s.command h 2 (fun x s =>
    let p := s.popCmd h
    if (jobOf s x.job).isSome && cancelNames s x.level x.job x.num then
      p.cancel ⟨x.level, x.job, x.num, .hub h x.tag, false⟩
    else p.hubReply h x.tag 9 0)

def execHubCancel (h : Hub) (s : State) : Res := .next (s.hubCancel h)

/-- HUB_LSTAT. -/
def State.hubLstat (s : State) (h : Hub) : State :=
  s.command h 3 (fun x s =>
    match findLaunch s x.job x.num, jobOf s x.job with
    | some l, some _ => (s.popCmd h).hubReply h x.tag 0 l.stat
    | _, _ => (s.popCmd h).hubReply h x.tag 9 0)

def execHubLstat (h : Hub) (s : State) : Res := .next (s.hubLstat h)

/-- Table 12.2. -/
def counterWord (st canc comp live : Nat) : Word := BitVec.ofNat 64 (st * 2 ^ 62 + canc * 2 ^ 42 + comp * 2 ^ 22 + live)

/-- COUNTER. -/
def State.hubCounter (s : State) (h : Hub) : State :=
  s.command h 4 (fun x s =>
    let p := s.popCmd h
    let answer := fun (w : Option Word) =>
      match w with
      | some w => p.hubReply h x.tag 0 w
      | none => p.hubReply h x.tag 9 0
    match x.level with
    | 0 => p.hubReply h x.tag 8 0
    | 1 => answer ((findScope s x.job false x.num).map (fun y => counterWord y.st y.canc y.comp y.live))
    | 2 => answer ((findScope s x.job true x.num).map (fun y => counterWord y.st y.canc y.comp y.live))
    | _ => answer ((jobOf s x.job).map (fun y => counterWord y.st y.canc y.comp y.live)))

def execCounter (h : Hub) (s : State) : Res := .next (s.hubCounter h)

/-- PREEMPT (R324, R330): its reply waits until every placed unit is saved. -/
def State.hubPreempt (s : State) (h : Hub) : State :=
  s.command h 5 (fun x s =>
    let p := s.popCmd h
    let payer : BitVec 24 := x.arg.extractLsb' 0 24
    if x.arg.extractLsb' 24 40 != 0 then p.hubReply h x.tag 8 0
    else
      match if (jobOf s x.job).isSome then findLaunch s x.job x.num else none with
      | none => p.hubReply h x.tag 9 0
      | some l =>
        if payer != 0 && (jobOf s payer).isNone then p.hubReply h x.tag 9 0
        else if !l.desc.preemptible then p.hubReply h x.tag 6 0
        else
          let q := (p.updDist (fun d => { d with preempts := d.preempts ++ [(l.num, h, x.tag)] })).updLaunch l.num (fun y => { y with
            preempting := if y.ended then none else some (if payer = 0 then none else some payer), passing := false })
          (q.saveParked l.num (fun _ => true)).endPreempts)

def execPreempt (h : Hub) (s : State) : Res := .next (s.hubPreempt h)

/-- JOBOPEN (R307). -/
def State.hubJobopen (s : State) (h : Hub) : State :=
  s.command h 6 (fun x s =>
    let p := s.popCmd h
    if x.arg.extractLsb' 3 61 != 0 then p.hubReply h x.tag 8 0
    else if 4096 ≤ openJobs s || 2 ^ 24 ≤ s.dist.nextJob then p.hubReply h x.tag 7 0
    else
      let j : Job := ⟨BitVec.ofNat 24 s.dist.nextJob, (x.arg.extractLsb' 0 3).toNat, 1, 0, 0, 0, 0, false, false, false⟩
      (p.updDist (fun d => { d with jobs := d.jobs ++ [j], nextJob := d.nextJob + 1 })).hubReply h x.tag 0 (BitVec.ofNat 64 s.dist.nextJob))

def execJobopen (h : Hub) (s : State) : Res := .next (s.hubJobopen h)

/-- JOBCLOSE (R338): the job is cancelled, and then what it holds is released. -/
def State.hubJobclose (s : State) (h : Hub) : State :=
  s.command h 7 (fun x s =>
    let p := s.popCmd h
    if (jobOf s x.job).isNone then p.hubReply h x.tag 9 0
    else p.cancel ⟨3, x.job, 0, .hub h x.tag, true⟩)

def execJobclose (h : Hub) (s : State) : Res := .next (s.hubJobclose h)

/-! ### DMA (R471, R472) -/

/-- The initialisation vector of a key slot's next encryption (R467). -/
def gcmIv (s : State) (k : BitVec 6) : BitVec 96 := s.modNo ++ k ++ 0#2 ++ (s.keys.get k.toFin).ctr

/-- An encryption has been made under a key slot: its counter rises, and at 2^80 - 1 the slot is exhausted. -/
def State.usedKey (s : State) (k : BitVec 6) : State :=
  let x := s.keys.get k.toFin
  let c := x.ctr + 1
  { s with keys := s.keys.set k.toNat { x with ctr := c, st := if c = BitVec.allOnes 80 then 2 else x.st } k.isLt }

/-- The parts of a transfer, one for each 64 KiB page that it touches: address and length. -/
def dmaPieces : Nat → Word → Nat → List (Word × Nat)
  | 0, _, _ => []
  | fuel + 1, va, len =>
    if len = 0 then []
    else
      let n := min len (65536 - va.toNat % 65536)
      (va, n) :: dmaPieces fuel (va + BitVec.ofNat 64 n) (len - n)

/-- A piece's page: its memory key and its key slot, when the transfer may touch it. -/
def dmaPage (s : State) (job : BitVec 24) (va : Word) (n : Nat) (w : Bool) : Glob (Nat × BitVec 6) :=
  match globKey s job va w with
  | .fault f => .fault f
  | .wait => .wait
  | .ok key =>
    match pageEntry s job (vpnOf va) with
    | none => .fault ⟨causePAGEFAULT, 1, va⟩
    | some p =>
      if !keyUsable s p.key job then .fault ⟨causePAGEFAULT, 4, va⟩
      else
        match ((List.range (n / 64)).map (fun i => key + 64 * i)).find? (fun k => !w && s.bad.contains k) with
        | some k => .fault ⟨causeUNCORR, 0, va + BitVec.ofNat 64 (k - key)⟩
        | none => .ok (key, p.key)

/-- The record of a piece: IV, four zero bytes, tag. -/
def dmaRecord (iv : BitVec 96) (tag : BitVec 128) : List Byte := bytesOf 12 iv.toNat ++ [0, 0, 0, 0] ++ bytesOf 16 tag.toNat

/-- Bytes of a piece leave the module, encrypted under a key slot. -/
def State.dmaSeal (s : State) (h : Hub) (hub tagAt : Nat) (k : BitVec 6) (bs : List Byte) : State :=
  let iv := gcmIv s k
  let e := Config.gcmEncrypt (s.keys.get k.toFin).key iv [] bs
  let m := hubPut (hubPut s.mem h hub (e.1.take bs.length)) h tagAt (dmaRecord iv e.2)
  ({ s with mem := m } : State).usedKey k

/-- A page of a transfer that a home in another module holds, under a usable key. -/
def dmaAway (s : State) (job : BitVec 24) (va : Word) (w : Bool) : Option PageEntry :=
  (globAway s job va w).filter (fun p => keyUsable s p.key job)

/-- A piece leaves the module, encrypted; with a fault's address.  An uncorrectable block is reported (R428). -/
def State.dmaOut (s : State) (h : Hub) (job : BitVec 24) (hub tagAt : Nat) (va : Word) (n : Nat) : State × Option Word :=
  match dmaPage s job va n false with
  | .ok (key, k) => ((s.correctedIn key n).dmaSeal h hub tagAt k (s.mem.readBytes key n), none)
  | .fault f =>
    match dmaAway s job va false with
    | some p => (s.dmaSeal h hub tagAt p.key (awayBytes s p va n), none)
    | none => (if f.cause == causeUNCORR then s.globFound job (n / 64) va else s, some f.addr)
  | .wait => (s, some va)

/-- Blocks of a piece go to their page's home in another module, as stores of the root's (log entry 8). -/
def State.dmaStores (s : State) (p : PageEntry) (va : Word) (bs : List Byte) (n : Nat) : State :=
  let id := s.dist.nextNotice
  (List.range (n / 64)).foldl (fun t i =>
    t.post (s.dstOf p.home) 1 (rootReq s (id + i) p.job) (.store (va + BitVec.ofNat 64 (64 * i)) ((bs.drop (64 * i)).take 64)))
    (s.updDist (fun d => { d with nextNotice := d.nextNotice + n / 64 }))

/-- A piece enters the module; one whose tag fails is not written and is reported (R468). -/
def State.dmaIn (s : State) (h : Hub) (job : BitVec 24) (hub tagAt : Nat) (va : Word) (n : Nat) : State × Option Word :=
  let enter := fun (k : BitVec 6) (put : List Byte → State) =>
    let iv := BitVec.ofNat 96 (natOfBytes (hubGet s.mem h tagAt 12))
    let tag := BitVec.ofNat 128 (natOfBytes (hubGet s.mem h (tagAt + 16) 16))
    match Config.gcmDecrypt (s.keys.get k.toFin).key iv [] (hubGet s.mem h hub n) tag with
    | some bs => (put (bs.take n), (none : Option Word))
    | none => (s.toHubs (.told 5 va), some va)
  match dmaPage s job va n true with
  | .ok (key, k) => enter k (s.putBytes key)
  | .fault f =>
    match dmaAway s job va true with
    | some p => enter p.key (fun bs => s.dmaStores p va bs n)
    | none => (s, some f.addr)
  | .wait => (s, some va)

/-- The pieces of a transfer in ascending order, up to the first fault. -/
def State.dmaRun (s : State) (h : Hub) (job : BitVec 24) (out : Bool) (hub tagAt : Nat) : List (Word × Nat) → State × Option Word
  | [] => (s, none)
  | x :: rest =>
    if out then
      match s.dmaOut h job hub tagAt x.1 x.2 with
      | (t, none) => t.dmaRun h job out (hub + x.2) (tagAt + 32) rest
      | (t, some a) => (t, some a)
    else
      match s.dmaIn h job hub tagAt x.1 x.2 with
      | (t, none) => t.dmaRun h job out (hub + x.2) (tagAt + 32) rest
      | (t, some a) => (t, some a)

/-- A page of the transfer moves: the pins of R362 wait for it. -/
def dmaWaits (s : State) (job : BitVec 24) (w : Bool) (xs : List (Word × Nat)) : Bool :=
  xs.any (fun x => match globKey s job x.1 w with | .wait => true | _ => false)

/-- DMAREAD and DMAWRITE. -/
def State.dma (s : State) (h : Hub) (out : Bool) : State :=
  s.command h (if out then 8 else 9) (fun x s =>
    let p := s.popCmd h
    let hub := imgNat x.desc 0 8
    let len := imgNat x.desc 8 8
    let tagAt := imgNat x.desc 16 8
    if x.arg.toNat % 64 != 0 || hub % 64 != 0 || len % 64 != 0 || len = 0 || 2 ^ 24 < len then p.hubReply h x.tag 8 0
    else if (jobOf s x.job).isNone then p.hubReply h x.tag 9 0
    else
      let xs := dmaPieces 300 x.arg len
      if dmaWaits s x.job (!out) xs then s
      else
        match p.dmaRun h x.job out hub tagAt xs with
        | (t, none) => t.hubReply h x.tag 0 0
        | (t, some a) => t.hubReply h x.tag 10 a)

def execDmaread (h : Hub) (s : State) : Res := .next (s.dma h true)

def execDmawrite (h : Hub) (s : State) : Res := .next (s.dma h false)

/-- CAPSET (R473); while the coolant is out of limits the mint stays at 8 kW (R483).  In a tick cycle the mint goes first, at the cap in force
before (R389). -/
def State.hubCapset (s : State) (h : Hub) : State :=
  s.command h 10 (fun x s =>
    let p := s.popCmd h
    let kw := (x.arg.extractLsb' 0 6).toNat
    if s.tick < s.cycle.toNat / 700 then s
    else if x.arg.extractLsb' 6 58 != 0 || kw < 8 || 32 < kw then p.hubReply h x.tag 8 0
    else
      let t : State := { p with capSet := kw, capNext := if p.coolantLow then 8 else kw }
      t.hubReply h x.tag 0 (BitVec.ofNat 64 t.capNext))

def execCapset (h : Hub) (s : State) : Res := .next (s.hubCapset h)

/-- The page that a page service request names. -/
def PageReq.page (src : BitVec 24) : PageReq → BitVec 24 × BitVec 33
  | .pmap va _ _ _ _ => (src, vpnOf va)
  | .map job vpn _ _ _ _ _ => (job, vpn)
  | .unmap job vpn => (job, vpn)
  | .rehome job vpn _ => (job, vpn)
  | .cowbreak job vpn => (job, vpn)

/-- The device runtime's next page service request goes from a hub to handler 7 of the page's clearing core, in a message with job 0
(R300, R366, Table 10.4; log entry 17). -/
def State.hubSend (s : State) (h : Hub) : State :=
  match (s.port h).pageReqs with
  | [] => s
  | (r, at_) :: rest =>
    let p := r.page 0
    let d := clearingCore s p.1 p.2
    (s.setPort h { s.port h with pageReqs := rest }).post d 7 ⟨d, 4, 0, 0, 0, 0⟩ (.page r at_)

/-- The head command of a port, whatever it is. -/
def State.hubCommand (s : State) (h : Hub) : State :=
  match (headCmd s h).map (fun x => x.op) with
  | some 2 => s.hubCancel h
  | some 3 => s.hubLstat h
  | some 4 => s.hubCounter h
  | some 5 => s.hubPreempt h
  | some 6 => s.hubJobopen h
  | some 7 => s.hubJobclose h
  | some 8 => s.dma h true
  | some 9 => s.dma h false
  | some 10 => s.hubCapset h
  | _ => s.hubLaunch h

/-- HUB_RESET (R336, R474): the semaphores stay held; the port's PCIe role is fixed again and its link is down; what the other hub
reads as peer-present changes. -/
def State.hubReset (s : State) (h : Hub) (rootPort : Bool) : State :=
  let s1 := s.setPort h { s.port h with rootPort := rootPort, pcieUp := false }
  let o := s1.port (otherHub h)
  s1.setPort (otherHub h) { o with peer := !o.peer }

def execHubReset (h : Hub) (rootPort : Bool) (s : State) : Res := .next (s.hubReset h rootPort)

/-- PCIE_LINK_TRAIN (R474): FLIT mode at 64 GT/s, or refused. -/
def execPcieLinkTrain (h : Hub) (flitMode : Bool) (rate : Nat) (s : State) : Res :=
  .next (s.setPort h { s.port h with pcieUp := flitMode && rate == 64 })

end Sys2Proof.Machine
end

