-- ==== Sys2Proof/Machine/Debug.lean ====
section
/-!
DEFINITION. The debug modules (20_observation_replay.md, R455 to R458).
-/
namespace Sys2Proof.Machine

def State.updDebug (s : State) (c : Nat) (f : Debug → Debug) : State := s.updCore c (fun k => { k with dbgMod := f k.dbgMod })

/-! ### The image of a stopped slot -/

/-- The image that the debug module shows (Table 1.5). -/
def debugImage (s : State) (c : Nat) (t : Fin 4) : List Byte :=
  slotImage s c t (if (s.core c).owner == some t then some (matrixOf (s.core c)) else none)

/-- A doubleword written into an image. -/
def patchImage (img : List Byte) (off : Nat) (v : Word) : List Byte := img.take off ++ bytesOf 8 v.toNat ++ img.drop (off + 8)

/-- The registers of an image, in a slot that keeps what no image holds. -/
def imageInto (l x : Slot) : Slot :=
  { l with
    ctx := x.ctx, trapcause := x.trapcause, trappc := x.trappc, trapval := x.trapval, trapvec := x.trapvec, unitid := x.unitid
    launchid := x.launchid, jobid := x.jobid, leaseBase := x.leaseBase, leaseSize := x.leaseSize, heatcls := x.heatcls
    origin := x.origin, coinspent := x.coinspent, instret := x.instret, chans := x.chans
    nest := { x.nest with pending := l.nest.pending, fresh := l.nest.fresh, fault := l.nest.fault }
    fault := match x.fault, l.fault with
      | some f, some g => some { g with addr := f.addr, cause := f.cause, sub := f.sub, pc := f.pc }
      | f, _ => f
    rpt := none, tile := none, bwait := none, waiting := false }

/-- The writes to a slot's image take effect. -/
def State.applyWrites (s : State) (c : Nat) (t : Fin 4) : State :=
  let ws := (s.core c).dbgMod.imageWrites.filter (fun w => w.1 == t)
  if ws.isEmpty then s
  else
    let l := s.slotAt c t
    let img := ws.foldl (fun b w => patchImage b w.2.1 w.2.2) (debugImage s c t)
    let x := slotFrom img (besideOf l) l.upc l.phase
    let s1 := (s.updDebug c (fun d => { d with imageWrites := d.imageWrites.filter (fun w => w.1 != t) })).setSlotAt c t (imageInto l x)
    match (s.core c).owner == some t, matrixFrom img with
    | true, some m => s1.loadOwner c t m
    | _, _ => s1

/-! ### Stops (R456) -/

/-- A stopped slot resumes: its reason is cleared, the writes to its image take effect, and its next instruction passes the
breakpoint or watchpoint that stopped it, and no other. -/
def State.debugResume (s : State) (c : Nat) (t : Fin 4) : State :=
  let r := (s.core c).dbgMod.reason.get t
  ((s.applyWrites c t).updDebug c (fun d => { d with reason := d.reason.set t 0 t.isLt })).updSlotAt c t (fun l => { l with
    resumed := l.resumed || r == 4 || r == 5, watchMet := l.watchMet || r == 5 })

/-- A bit of a four-bit field. -/
def setBit4 (x : BitVec 4) (t : Fin 4) (on : Bool) : BitVec 4 := if on then x ||| (1#4 <<< t.val) else x &&& ~~~(1#4 <<< t.val)

/-- HALT set stops the slot at its next boundary; HALT cleared resumes it, but for a double trap. -/
def State.dbgHalt (s : State) (c : Nat) (t : Fin 4) (on : Bool) : State :=
  let d := (s.core c).dbgMod
  let s1 := s.updDebug c (fun d => { d with halt := setBit4 d.halt t on })
  if on then s1.haltBoundary c t
  else if d.halt.getLsbD t.val && d.reason.get t != 0 && d.reason.get t != 6 then s1.debugResume c t
  else s1

/-- DBG_HALT. -/
def execDbgHalt (c : Nat) (t : Fin 4) (on : Bool) (s : State) : Res := .next (s.dbgHalt c t on)

/-- SSTEP set: the slot issues one step and stops. -/
def State.dbgSstep (s : State) (c : Nat) (t : Fin 4) : State :=
  let s1 := if (s.core c).dbgMod.reason.get t == 6 || (s.core c).dbgMod.reason.get t == 0 then s else s.debugResume c t
  s1.updDebug c (fun d => { d with sstep := setBit4 d.sstep t true })

/-- DBG_SSTEP. -/
def execDbgSstep (c : Nat) (t : Fin 4) (s : State) : Res := .next (s.dbgSstep c t)

/-- TSTOP: the teller stops after its current activation. -/
def State.dbgTstop (s : State) (c : Nat) (on : Bool) : State :=
  (s.updDebug c (fun d => { d with tstop := on })).updCore c (fun k => { k with
    teller := { k.teller with stopped := on && (k.teller.stopped || k.teller.act.isNone) } })

/-- DBG_TSTOP. -/
def execDbgTstop (c : Nat) (on : Bool) (s : State) : Res := .next (s.dbgTstop c on)

/-- Ones written to a slot's reason clear its bits; a reason that becomes zero resumes the slot, which a HALT bit stops again. -/
def State.clearReason (s : State) (c : Nat) (v : BitVec 64) (t : Fin 4) : State :=
  let old := (s.core c).dbgMod.reason.get t
  let new := old &&& ~~~(v.extractLsb' (16 + 4 * t.val) 4)
  if old == new then s
  else if new == 0 then (s.debugResume c t).haltBoundary c t
  else s.updDebug c (fun d => { d with reason := d.reason.set t new t.isLt })

def State.dbgstatClear (s : State) (c : Nat) (v : BitVec 64) : State :=
  (List.finRange 4).foldl (fun u t => u.clearReason c v t) s

/-- DBGSTAT_CLEAR. -/
def execDbgstatClear (c : Nat) (v : BitVec 64) (s : State) : Res := .next (s.dbgstatClear c v)

/-- DBGCTL.SEL as a slot. -/
def selSlot (d : Debug) : Fin 4 := d.sel.toFin

/-- A write to the image area, for a slot that is stopped. -/
def State.imageWrite (s : State) (c off : Nat) (v : BitVec 64) : State :=
  let d := (s.core c).dbgMod
  if d.reason.get (selSlot d) == 0 || off % 8 != 0 || off < 0x1000 || 0x2000 ≤ off then s
  else s.updDebug c (fun d => { d with imageWrites := d.imageWrites ++ [(selSlot d, off - 0x1000, v)] })

/-- DBG_IMAGE_WRITE. -/
def execDbgImageWrite (c off : Nat) (v : BitVec 64) (s : State) : Res := .next (s.imageWrite c off v)

/-! ### Registers (Table 20.3) -/

/-- An in-flight table entry (Table 20.5). -/
def iftEntry (o : Op) : Nat :=
  let f := o.fault.getD ⟨0, 0, 0⟩
  o.addr.toNat * 2 ^ 64 + (if o.failed then 2 else 1) * 2 ^ 62 + o.slot.val * 2 ^ 59 + o.batch % 8 * 2 ^ 56 +
  (if o.failed then (f.sub ++ f.cause).toNat else 0) * 2 ^ 40 + majorOf o.word * 2 ^ 34 + o.word.toNat % 64 * 2 ^ 28 + o.pc.toNat

/-- A register of a debug module as the hub reads it. -/
def debugRead (s : State) (c off : Nat) : Word :=
  let k := s.core c
  let d := k.dbgMod
  let n := if off % 8 = 0 then off else 0x3F8
  if n = 0 then BitVec.ofNat 64 (d.sel.toNat * 4096 + d.tstop.toNat * 1024 + d.brkcap.toNat * 512 + d.sstep.toNat * 16 + d.halt.toNat)
  else if n = 8 then
    let reasons := (List.finRange 4).foldl (fun x t => x + (d.reason.get t).toNat * 2 ^ (16 + 4 * t.val)) 0
    let stops := (List.finRange 4).foldl (fun x t => x + (if d.reason.get t == 0 then 0 else 2 ^ t.val)) 0
    BitVec.ofNat 64 (reasons + k.teller.stopped.toNat * 16 + stops)
  else if 0x10 ≤ n && n < 0x30 then d.bp.toList.getD ((n - 0x10) / 8) 0
  else if 0x30 ≤ n && n < 0x40 then d.wp.toList.getD ((n - 0x30) / 8) 0
  else if n = 0x40 then BitVec.ofNat 64 (d.trPage.toNat * 2 ^ 16 + (traceSlots s c).toNat)
  else if n = 0x48 then BitVec.ofNat 64 (d.trOver.toNat * 2 ^ 32 + d.trHead.toNat)
  else if 0x400 ≤ n && n < 0x800 then
    match k.ops[(n - 0x400) / 16]? with
    | none => 0
    | some o => BitVec.ofNat 64 (iftEntry o >>> (if n % 16 = 0 then 0 else 64))
  else if 0x1000 ≤ n && n < 0x2000 && d.reason.get (selSlot d) != 0 then
    BitVec.ofNat 64 (imgNat (debugImage s c (selSlot d)) (n - 0x1000) 8)
  else 0

/-- The bits of a breakpoint and of a watchpoint that are not Z. -/
def bpBits (v : Word) : Word := v &&& 0x80000000000F7FFC
def wpBits (v : Word) : Word := v &&& 0xC000FFFFFFFFFFC0

/-- A write to DBGCTL: SEL and BRKCAP, then the stops that its bits ask for. -/
def State.writeDbgctl (s : State) (c : Nat) (v : BitVec 64) : State :=
  let s1 := s.updDebug c (fun d => { d with sel := v.extractLsb' 12 2, brkcap := v.getLsbD 9 })
  let s2 := s1.dbgTstop c (v.getLsbD 10)
  (List.finRange 4).foldl (fun u t =>
    let u1 := if v.getLsbD (4 + t.val) then u.dbgSstep c t else u.updDebug c (fun d => { d with sstep := setBit4 d.sstep t false })
    if (u1.core c).dbgMod.halt.getLsbD t.val == v.getLsbD t.val then u1 else u1.dbgHalt c t (v.getLsbD t.val)) s2

/-- A write to a debug module register. -/
def State.debugWrite (s : State) (c off : Nat) (v : BitVec 64) : State :=
  if off = 0 then s.writeDbgctl c v
  else if off = 8 then s.dbgstatClear c v
  else if h : 0x10 ≤ off ∧ off < 0x30 ∧ off % 8 = 0 then
    s.updDebug c (fun d => { d with bp := d.bp.set ((off - 0x10) / 8) (bpBits v) (by omega) })
  else if h : 0x30 ≤ off ∧ off < 0x40 ∧ off % 8 = 0 then
    s.updDebug c (fun d => { d with wp := d.wp.set ((off - 0x30) / 8) (wpBits v) (by omega) })
  else if off = 0x40 then s.updDebug c (fun d => { d with trPage := v.extractLsb' 16 32, trSlots := v.extractLsb' 0 4 })
  else s.imageWrite c off v

end Sys2Proof.Machine
end

