-- ==== Sys2Proof/Machine/Fpu.lean ====
section
/-!
DEFINITION. The FPU major (04_scalar_control.md, R106, Tables 4.7 and 4.8).
-/
namespace Sys2Proof.Machine

/-- One floating-point result with its flags, two coins. -/
def putF (s : State) (d : BitVec 5) (x : FOut) : Res := finish s 2 (fun p => (p.setG d (fDst x)).raise x.fl)

/-- Source value of a format (R99). -/
def State.fg (s : State) (p : BitVec 2) (r : BitVec 5) : Nat := fSrc (fmtOfP p) (s.g r)

/-- The integer widths of FTOI and ITOF. -/
def intWidth (w : BitVec 2) : Nat := 8 * 2 ^ w.toNat

def execFadd (d a b : BitVec 5) (p : BitVec 2) (s : State) : Res := putF s d (fAdd (fmtOfP p) s.rm (s.fg p a) (s.fg p b))
def execFsub (d a b : BitVec 5) (p : BitVec 2) (s : State) : Res := putF s d (fSub (fmtOfP p) s.rm (s.fg p a) (s.fg p b))
def execFmul (d a b : BitVec 5) (p : BitVec 2) (s : State) : Res := putF s d (fMul (fmtOfP p) s.rm (s.fg p a) (s.fg p b))
/-- The old g[d] is the addend. -/
def execFma (d a b : BitVec 5) (p : BitVec 2) (s : State) : Res :=
  putF s d (fFma (fmtOfP p) s.rm (s.fg p a) (s.fg p b) (s.fg p d))
def execFdiv (d a b : BitVec 5) (p : BitVec 2) (s : State) : Res := putF s d (fDiv (fmtOfP p) s.rm (s.fg p a) (s.fg p b))
def execFsqrt (d a : BitVec 5) (p : BitVec 2) (s : State) : Res := putF s d (fSqrt (fmtOfP p) s.rm (s.fg p a))
def execFmin (d a b : BitVec 5) (p : BitVec 2) (s : State) : Res := putF s d (fMinMax false (fmtOfP p) (s.fg p a) (s.fg p b))
def execFmax (d a b : BitVec 5) (p : BitVec 2) (s : State) : Res := putF s d (fMinMax true (fmtOfP p) (s.fg p a) (s.fg p b))
def execFcmp (d a b : BitVec 5) (p : BitVec 2) (c : BitVec 3) (s : State) : Res :=
  let r := fCmp (fmtOfP p) c.toNat (s.fg p a) (s.fg p b)
  putF s d ⟨if r.1 then 1 else 0, r.2⟩
/-- The source format is coded as p is. -/
def execFcvt (d a : BitVec 5) (p src : BitVec 2) (s : State) : Res :=
  putF s d (fCvt (fmtOfP p) (fmtOfP src) s.rm (s.fg src a))
def execFclass (d a : BitVec 5) (p : BitVec 2) (s : State) : Res := putF s d ⟨fClass (fmtOfP p) (s.fg p a), flNone⟩
/-- A signed result is sign-extended to 64 bits, an unsigned one zero-extended. -/
def execFtoi (d a : BitVec 5) (p w : BitVec 2) (u : BitVec 1) (s : State) : Res :=
  let r := valToInt (intWidth w) (u = 0) s.rm (unpack (fmtOfP p) (s.fg p a))
  putF s d ⟨intBits 64 r.1, r.2⟩
def execItof (d a : BitVec 5) (p w : BitVec 2) (u : BitVec 1) (s : State) : Res :=
  let n := (s.g a).toNat % 2 ^ intWidth w
  putF s d (iToF (fmtOfP p) s.rm (if u = 0 then signedOf (intWidth w) n else (n : Int)))

end Sys2Proof.Machine
end

