-- ==== Sys2Proof/Machine/Span.lean ====
section
/-!
DEFINITION. The span instructions as they issue (07_matrix_spans_work.md, R210 to R212; 14_spans_attention.md, R380); the
pool's entry core and the sequence home perform them in machine steps (Machine/SpanHome.lean).
-/
namespace Sys2Proof.Machine

/-- The number of a pool's entry core: the clearing core of 2^33 + p, on the job's clearing module (R210). -/
def entryNo (s : State) (job : BitVec 24) (pool : Nat) : BitVec 18 :=
  BitVec.ofNat 18 (jump (fold64 (BitVec.ofNat 64 (2 ^ 33 + pool) ^^^ (job.zeroExtend 64 <<< 40))) (coresOf s (clearingMod s job)))

/-- A pool's entry core, as a message destination. -/
def entryCore (s : State) (job : BitVec 24) (pool : Nat) : Nat := coreOn s (clearingMod s job) (entryNo s job pool)

/-- The pool number of a handle (R210). -/
def handlePool (h : Word) : Nat := (h.extractLsb' 32 16).toNat

/-- The sid of a handle. -/
def handleSid (h : Word) : BitVec 32 := h.extractLsb' 0 32

/-- The bits of g[b] that an operation may set (Table 7.7). -/
def spanBits (op : SpanOp) : Word :=
  match op with
  | .tag => 0xC007FFFF
  | .app => 0x7F
  | .com => 0x1FFF
  | .rej => 0x1FFF
  | .retHole => 0x7FFFF
  | .retClose => 0x7FFFF
  | .loc => 0xFF7FFFFF
  | .qry => BitVec.allOnes 64
  | .len => BitVec.allOnes 64

/-- A count outside its range (R210). -/
def spanCountBad (op : SpanOp) (x : Word) : Bool :=
  match op with
  | .app => x == 0 || 64 < x.toNat
  | .com => x == 0 || 4096 < x.toNat
  | .rej => x == 0 || 4096 < x.toNat
  | _ => false

/-- The number of query flits that a descriptor names, which a message of eight flits can carry. -/
def queryFlits (desc : List Byte) : Nat := min (desc.getD 6 0).toNat 7

/-- The address of the query (Table 14.7). -/
def queryAddr (desc : List Byte) : Word := BitVec.ofNat 64 (natOfBytes ((desc.drop 0x10).take 8))

/-- The operation joins its batch and its request goes to the pool's entry core: 2 coins and one per hop (Table 7.1). -/
def spanSend (s : State) (i : Instr) (op : SpanOp) (d h x : Word) (dst : Dest) (desc query : List Byte) : Res :=
  let e := entryCore s s.job (handlePool h)
  if !s.canJoin then notReady s
  else
    finish s (2 + s.hopsDst s.curCore e) (fun p =>
      ((if desc.isEmpty then p else
        (p.correctedLocal s.curCore x.toNat 64).correctedLocal s.curCore (queryAddr desc).toNat query.length).startOp (match dst with | .none => .sent | _ => .result) d (encode i) dst none 1 none).post e 6
        (s.me s.nextOpId) (.span op h x desc query))

/-- A span instruction (R210): reserved bits of the handle, then of g[b], then the count. -/
def spanIssue (s : State) (i : Instr) (op : SpanOp) (h x : Word) (dst : Dest) : Res :=
  if s.isTeller then illegal s i
  else if h.extractLsb' 48 16 != 0 then trapped s causeSPAN 6 h
  else if x &&& ~~~(spanBits op) != 0 || spanCountBad op x then trapped s causeSPAN 6 x
  else
    match op with
    | .qry =>
      match recordCheck s x 64 64 with
      | some e => stopped s e
      | none =>
        let desc := readLocal s s.curCore x.toNat 64
        match localRange s (queryAddr desc) (64 * queryFlits desc) true with
        | some e => stopped s e
        | none => spanSend s i op h h x dst desc (readLocal s s.curCore (queryAddr desc).toNat (64 * queryFlits desc))
    | _ => spanSend s i op h h x dst [] []

def execSptag (a b : BitVec 5) (s : State) : Res := spanIssue s (.sptag a b) .tag (s.g a) (s.g b) .none
def execSpapp (d a b : BitVec 5) (s : State) : Res := spanIssue s (.spapp d a b) .app (s.g a) (s.g b) (destG d)
def execSpcom (a b : BitVec 5) (s : State) : Res := spanIssue s (.spcom a b) .com (s.g a) (s.g b) .none
def execSprej (a b : BitVec 5) (s : State) : Res := spanIssue s (.sprej a b) .rej (s.g a) (s.g b) .none
def execSpretHole (d a b : BitVec 5) (s : State) : Res := spanIssue s (.spretHole d a b) .retHole (s.g a) (s.g b) (destG d)
def execSpretClose (d a b : BitVec 5) (s : State) : Res := spanIssue s (.spretClose d a b) .retClose (s.g a) (s.g b) (destG d)
def execSpqry (d a b : BitVec 5) (s : State) : Res := spanIssue s (.spqry d a b) .qry (s.g a) (s.g b) (destG d)
def execSploc (d a b : BitVec 5) (s : State) : Res := spanIssue s (.sploc d a b) .loc (s.g a) (s.g b) (destG d)
def execSplen (d a : BitVec 5) (s : State) : Res := spanIssue s (.splen d a) .len (s.g a) 0 (destG d)

end Sys2Proof.Machine
end

