-- ==== Sys2Proof/Machine/SpanHome.lean ====
section
/-!
DEFINITION. Span services, handler 6: a pool's entry core, sequence homes and span homes (07_matrix_spans_work.md, R210 to
R212; 14_spans_attention.md, R369 to R385).
-/
namespace Sys2Proof.Machine

/-! ### Where sequences and spans are homed (R371) -/

/-- The member that homes a sequence. -/
def seqMember (n : Nat) (sid : BitVec 32) : Nat := jump (fold64 (BitVec.ofNat 64 (sid.toNat * 2 ^ 32 + 0xFFFFFFFF))) n

/-- The member that homes a span at a layer. -/
def spanMember (n : Nat) (sid : BitVec 32) (l b : Nat) : Nat :=
  jump (fold64 (BitVec.ofNat 64 (sid.toNat * 2 ^ 32 + l * 2 ^ 16 + b))) n

/-- The address of a member's slot (R370). -/
def Pool.slotAddr (p : Pool) (i slot : Nat) : Word := p.memberBase i + BitVec.ofNat 64 (slot * p.slotSize)

def findPool (ps : List Pool) (job : BitVec 24) (pool : BitVec 16) : Option Pool :=
  ps.find? (fun p => p.job == job && p.pool == pool)

/-- The member index of a core. -/
def memberOf (s : State) (p : Pool) (c : Nat) : Nat := ((s.coreNo c) - p.first).toNat

/-- Slots that a span home is about to fill. -/
def slotsComing (s : State) (d : Nat) (job : BitVec 24) (pool : BitVec 16) : List Nat :=
  let slotOf := fun (m : Msg) =>
    match m.body with
    | .spanOpen q k _ _ => if m.src.job == job && q == pool then some k else none
    | _ => none
  (s.net.filter (fun m => m.dst == d)).filterMap slotOf ++ ((s.core d).landed.map (fun x => x.2)).filterMap slotOf ++
  ((s.core d).teller.act.toList.map (fun a => a.msg)).filterMap slotOf

/-- The slots of member i whose headers wait for a page that moves, or go to where it has moved. -/
def slotsHeld (s : State) (p : Pool) (i : Nat) : List Nat :=
  (s.net ++ s.cores.flatMap (fun k => k.2.msgs)).filterMap (fun m =>
    match m.body with
    | .spanStore va bs _ =>
      let off := (va - p.memberBase i).toNat
      if m.src.job == p.job && bs.length == 64 && off < p.range then some (off / p.slotSize) else none
    | _ => none)

/-- The free slots of member i: STATE 0, no directory, and none coming (R372, R375). -/
def freeSlots (s : State) (p : Pool) (i : Nat) : List Nat :=
  let d := p.member s i
  let used := slotsComing s d p.job p.pool ++ slotsHeld s p i ++
    (((s.core d).seqs.filter (fun x => x.job == p.job && x.pool == p.pool)).map (fun x => x.dirSlots)).flatten
  (List.range p.spm).filter (fun k => !used.contains k && (rangeBytes s p.job (p.slotAddr i k + 5) 1).getD 0 0 == 0)

/-! ### Coins of handler 6 (Tables 10.9 and 15.4) -/

/-- Coins drawn from a core for a pool's job. -/
def State.spanPay (s : State) (c n : Nat) (job : BitVec 24) : Option State :=
  if n ≤ s.purse c then some ((s.setPurse c (s.purse c - n)).countTo (some job) n) else none

/-- Coins of an activation: 12 instructions, and 4 for each query or retire message sent. -/
def spanCoins (messages : Nat) : Nat := 24 + 8 * messages

/-- A message that adds to the length of its sender's activation (Table 10.9): a query or a retire. -/
def Body.counts : Body → Bool
  | .query _ _ _ _ => true
  | .spanRetire _ _ _ => true
  | _ => false

/-! ### The entry core (R210) -/

/-- The request goes on to the sequence home, in arrival order. -/
def State.entryForward (s : State) (c : Nat) : State :=
  match s.work c with
  | some m =>
    match m.body with
    | .span op h x desc query =>
      match findPool (s.core c).entryPools m.src.job (BitVec.ofNat 16 (handlePool h)) with
      | none => s.refuse c m ⟨causeSPAN, 1, h⟩
      | some p =>
        let d := p.member s (seqMember p.nmem (handleSid h))
        let flits := match op with | .qry => 2 + query.length / 64 | _ => 1
        match s.spanPay c (spanCoins 0 + flits * hops c d) m.src.job with
        | none => s
        | some t => (t.post d 6 m.src (.spanHome op h x desc query)).endActivation c
    | _ => s
  | none => s

/-- SPAN_ENTRY_FORWARD. -/
def execSpanEntryForward (c : Nat) (s : State) : Res := .next (s.entryForward c)

/-! ### The sequence home (R211, R372 to R381) -/

/-- What performing a span instruction comes to. -/
inductive SpanDone where
  | fault (sub : BitVec 8)
  /-- The sequence as it stands afterwards, the result, the messages to span homes, and the state with the draws made. -/
  | done (q : Seq) (x : Word) (msgs : List (Nat × BitVec 6 × Body)) (s : State)

def findSeq (k : Core) (job : BitVec 24) (pool : BitVec 16) (sid : BitVec 32) : Option Seq :=
  k.seqs.find? (fun x => x.job == job && x.pool == pool && x.sid == sid && !x.dropped)

/-- The home of span b at layer l. -/
def Pool.spanHome (s : State) (p : Pool) (sid : BitVec 32) (l b : Nat) : Nat := p.member s (spanMember p.nmem sid l b)

/-- A message to the home of a span at every layer, about the slot there. -/
def eachLayer (s : State) (p : Pool) (sid : BitVec 32) (b : Nat) (d : SpanDir) (f : Nat → Body) : List (Nat × BitVec 6 × Body) :=
  (List.range p.layers).map (fun l => (p.spanHome s sid l b, 6, f (d.slots.getD l 0)))

/-- The live spans with their indices. -/
def Seq.live (q : Seq) : List (Nat × SpanDir) := ((List.range q.dir.length).zip q.dir).filter (fun x => x.2.live)

/-- The first tentative position. -/
def Seq.committed (q : Seq) : Nat := q.nextpos - q.tl

/-- A span's directory entry changed. -/
def Seq.setDir (q : Seq) (b : Nat) (f : SpanDir → SpanDir) : Seq := { q with dir := q.dir.modify b f }

/-- Spans retired: the directory, CL, and the open span (R378 steps 1 to 3). -/
def Seq.retire (q : Seq) (bs : List (Nat × SpanDir)) : Seq :=
  { bs.foldl (fun t x => t.setDir x.1 (fun d => { d with live := false })) q with
    cl := q.cl - (bs.map (fun x => x.2.count)).sum
    openSpan := q.openSpan.filter (fun o => !(bs.any (fun x => x.1 == o))) }

/-- The retire messages of some spans. -/
def retireMsgs (s : State) (p : Pool) (c : Nat) (sid : BitVec 32) (bs : List (Nat × SpanDir)) : List (Nat × BitVec 6 × Body) :=
  (bs.map (fun x => eachLayer s p sid x.1 x.2 (fun k => .spanRetire p.pool k c))).flatten

/-- The tag of an operand: [18:16] class, [15:0] instance. -/
def tagOf (x : Word) : BitVec 3 × BitVec 16 := (x.extractLsb' 16 3, x.extractLsb' 0 16)

/-- SPTAG (Table 7.8). -/
def doTag (s : State) (c : Nat) (p : Pool) (q? : Option Seq) (sid : BitVec 32) (x : Word) : SpanDone :=
  let create := x.getLsbD 31
  let drop := x.getLsbD 30
  if (create && drop) || (tagOf x).2 == 0xFFFF then .fault 4
  else
    match q? with
    | some q =>
      if drop then
        let q1 := q.retire q.live
        .done { q1 with dropped := true, dirSlots := [] } 0 (retireMsgs s p c sid q.live) s
      else
        let q1 := { q with tag := tagOf x }
        .done (if tagOf x == q.tag then q1 else { q1 with openSpan := none }) 0 [] s
    | none =>
      if !create then .fault 1
      else if p.maxseq ≤ ((s.core c).seqs.filter (fun y => y.job == p.job && y.pool == p.pool && !y.dropped)).length then .fault 8
      else
        match s.pick (freeSlots s p (memberOf s p c)) with
        | none => .fault 8
        | some (k, t) => .done ⟨p.job, p.pool, sid, 0, 0, 0, tagOf x, none, [], [k], [], false⟩ 0 [] t

/-- A free slot at the home of a new span at every layer, each taken once; none when a home has none (R374). -/
def takeSlots (p : Pool) (sid : BitVec 32) (b : Nat) : List Nat → List (Nat × Nat) → State → Option (List (Nat × Nat) × State)
  | [], acc, s => some (acc, s)
  | l :: ls, acc, s =>
    let i := spanMember p.nmem sid l b
    match s.pick ((freeSlots s p i).filter (fun k => !acc.contains (i, k))) with
    | none => none
    | some (k, t) => takeSlots p sid b ls (acc ++ [(i, k)]) t

/-- A slot's header (Table 14.4). -/
def spanHeader (p : Pool) (sid : BitVec 32) (l b : Nat) (d : SpanDir) : List Byte :=
  bytesOf 4 sid.toNat ++ bytesOf 1 l ++ bytesOf 1 1 ++ bytesOf 2 b ++ bytesOf 1 d.tagc.toNat ++ bytesOf 1 0 ++ bytesOf 2 d.tagi.toNat ++
  bytesOf 4 d.first ++ bytesOf 1 d.count ++ bytesOf 1 p.efmt ++ bytesOf 1 p.kvh ++ bytesOf 1 0 ++ bytesOf 2 p.dh ++
  bytesOf 2 p.pool.toNat ++ List.replicate 40 0

/-- SPAPP (R374). -/
def doApp (s : State) (c : Nat) (p : Pool) (q : Seq) (n : Nat) : SpanDone :=
  if 4096 < q.tl + n || 2 ^ 22 < q.nextpos + n then .fault 2
  else
    let room := match q.openSpan with
      | some o => 64 - (q.dir[o]?.map (fun d => d.count)).getD 64
      | none => 0
    let fill := min n room
    let q1 := { q with nextpos := q.nextpos + n, tl := q.tl + n }
    let filled := match q.openSpan with
      | some o => if fill = 0 then q1 else q1.setDir o (fun d => { d with count := d.count + fill })
      | none => q1
    let counts := match q.openSpan with
      | some o =>
        if fill = 0 then [] else
          match filled.dir[o]? with
          | some d => eachLayer s p q.sid o d (fun k => .spanCount p.pool k d.count c)
          | none => []
      | none => []
    let res : Word := BitVec.ofNat 64 q.nextpos
    if fill = n then .done { filled with openSpan := if fill = room then none else q.openSpan } res counts s
    else
      let b := q.dir.length
      if 65536 ≤ b then .fault 2
      else
        match takeSlots p q.sid b (List.range p.layers) [] s with
        | none => .fault 8
        | some (ks, t) =>
          let d : SpanDir := ⟨q.nextpos + fill, n - fill, q.tag.1, q.tag.2, true, ks.map (fun x => x.2)⟩
          let opens := (List.range p.layers).map (fun l =>
            (p.spanHome s q.sid l b, (6 : BitVec 6), Body.spanOpen p.pool (d.slots.getD l 0) (spanHeader p q.sid l b d) c))
          let q2 := { filled with dir := filled.dir ++ [d], openSpan := if n - fill = 64 then none else some b }
          if b != 0 && b % (p.slotSize / 8) == 0 then
            match t.pick ((freeSlots t p (memberOf s p c)).filter (fun k => !ks.contains (memberOf s p c, k))) with
            | none => .fault 8
            | some (k, u) => .done { q2 with dirSlots := q2.dirSlots ++ [k] } res (counts ++ opens) u
          else .done q2 res (counts ++ opens) t

/-- SPREJ (R376). -/
def doRej (s : State) (c : Nat) (p : Pool) (q : Seq) (n : Nat) : SpanDone :=
  if q.tl < n then .fault 2
  else
    let np := q.nextpos - n
    let cut := q.live.filter (fun x => np < x.2.first + x.2.count)
    let left := fun (d : SpanDir) => np - d.first
    let q1 := cut.foldl (fun t x => t.setDir x.1 (fun d => { d with count := left x.2, live := left x.2 != 0 })) q
    let msgs := (cut.map (fun x => eachLayer s p q.sid x.1 x.2 (fun k =>
      if left x.2 = 0 then .spanRetire p.pool k c else .spanCount p.pool k (left x.2) c))).flatten
    let last := q1.live.find? (fun x => x.2.first ≤ np - 1 && np - 1 < x.2.first + x.2.count && 0 < np)
    let opened := last.filter (fun x => (x.2.tagc, x.2.tagi) == q.tag && x.2.count < 64)
    .done { q1 with nextpos := np, tl := q.tl - n, openSpan := opened.map (fun x => x.1) } 0 msgs s

/-- SPRET (R378). -/
def doRet (s : State) (c : Nat) (p : Pool) (q : Seq) (x : Word) (close : Bool) : SpanDone :=
  let t := tagOf x
  let hit := fun (d : SpanDir) => d.tagc == t.1 && (d.tagi == t.2 || t.2 == 0xFFFF)
  let bs := q.live.filter (fun y => hit y.2)
  let low := bs.foldl (fun a y => min a y.2.first) (2 ^ 23)
  if bs.isEmpty then .done (if close then { q with openSpan := none } else q) 0 [] s
  else if bs.any (fun y => q.committed < y.2.first + y.2.count) then .fault 3
  else if close && (q.tl != 0 || q.live.any (fun y => !hit y.2 && low < y.2.first + y.2.count)) then .fault 3
  else
    let q1 := q.retire bs
    .done (if close then { q1 with nextpos := low, openSpan := none } else q1)
      (BitVec.ofNat 64 ((bs.map (fun y => y.2.count)).sum)) (retireMsgs s p c q.sid bs) s

/-- A query descriptor (Table 14.7). -/
structure QDesc where
  layer : Nat
  kvhead : Nat
  gq : Nat
  tags : BitVec 8
  tent : Bool
  handler : BitVec 6
  qlen : Nat
  limit : Nat

def qdescOf (d : List Byte) : QDesc :=
  ⟨(d.getD 0 0).toNat, (d.getD 1 0).toNat, (d.getD 2 0).toNat, d.getD 3 0, (d.getD 4 0).getLsbD 0,
   (d.getD 5 0).extractLsb' 0 6, (d.getD 6 0).toNat, natOfBytes ((d.drop 8).take 4)⟩

/-- R380. -/
def qdescValid (p : Pool) (d : List Byte) : Bool :=
  let q := qdescOf d
  let res := natOfBytes ((d.drop 0x18).take 8)
  q.layer < p.layers && q.kvhead < p.kvh && 1 ≤ q.gq && q.gq ≤ 8 && q.tags != 0 && (d.getD 4 0).toNat ≤ 1 &&
  16 ≤ (d.getD 5 0).toNat && (d.getD 5 0).toNat ≤ 63 && 1 ≤ q.qlen && q.qlen ≤ 7 && d.getD 7 0 == 0 && q.limit < 2 ^ 23 &&
  natOfBytes ((d.drop 0x10).take 8) % 64 == 0 && res % 64 == 0 && isGlobal (BitVec.ofNat 64 res) && res < 2 ^ 48 &&
  (d.drop 0x28).all (fun x => x == 0) && q.gq * p.dh * 2 ≤ 64 * q.qlen

/-- The use count of a span (R381). -/
def useCount (q : Seq) (d : QDesc) (x : SpanDir) : Nat :=
  let a := if d.tent then x.count else min x.count (q.committed - x.first)
  if d.limit = 0 then a else min a (d.limit - x.first)

/-- A span record (Table 14.8). -/
def spanRecord (hdr : Word) (b ord : Nat) (x : SpanDir) (use nsel : Nat) (desc : List Byte) (origin : Nat) : List Byte :=
  bytesOf 8 hdr.toNat ++ bytesOf 4 b ++ bytesOf 4 ord ++ bytesOf 4 x.first ++ bytesOf 1 use ++ bytesOf 1 0 ++
  [desc.getD 1 0, desc.getD 2 0] ++ (desc.drop 0x0C).take 4 ++ bytesOf 4 nsel ++ (desc.drop 0x18).take 8 ++
  (desc.drop 0x20).take 8 ++ bytesOf 8 origin ++ List.replicate 8 0

/-- SPQRY (R381). -/
def doQry (s : State) (c : Nat) (p : Pool) (q : Seq) (src : Req) (desc query : List Byte) : SpanDone :=
  if !qdescValid p desc then .fault 7
  else
    let d := qdescOf desc
    let sel := q.live.filter (fun x => d.tags.getLsbD x.2.tagc.toNat && useCount q d x.2 != 0)
    let origin := (s.reqId src).toNat + src.slot * 2 ^ 32
    let msgs := ((List.range sel.length).zip sel).map (fun y =>
      let i := spanMember p.nmem q.sid d.layer y.2.1
      let hdr := p.slotAddr i (y.2.2.slots.getD d.layer 0)
      (p.member s i, d.handler,
        Body.query (spanRecord hdr y.2.1 y.1 y.2.2 (useCount q d y.2.2) sel.length desc origin ++ query) c q.sid src))
    .done q (BitVec.ofNat 64 sel.length) msgs s

/-- SPLOC. -/
def doLoc (s : State) (p : Pool) (q : Seq) (x : Word) : SpanDone :=
  let pos := (x.extractLsb' 0 23).toNat
  let l := (x.extractLsb' 24 8).toNat
  match q.live.find? (fun y => y.2.first ≤ pos && pos < y.2.first + y.2.count) with
  | some y =>
    if p.layers ≤ l then .fault 5
    else
      let a := p.slotAddr (spanMember p.nmem q.sid l y.1) (y.2.slots.getD l 0)
      .done q (BitVec.ofNat 64 (a.toNat % 2 ^ 48 + (pos - y.2.first) * 2 ^ 48)) [] s
  | none => .fault 5

/-- Table 7.8. -/
def spanRun (s : State) (c : Nat) (p : Pool) (src : Req) (op : SpanOp) (h x : Word) (desc query : List Byte) : SpanDone :=
  let q? := findSeq (s.core c) p.job p.pool (handleSid h)
  match op, q? with
  | .tag, _ => doTag s c p q? (handleSid h) x
  | _, none => .fault 1
  | .app, some q => doApp s c p q x.toNat
  | .com, some q => if q.tl < x.toNat then .fault 2 else .done { q with cl := q.cl + x.toNat, tl := q.tl - x.toNat } 0 [] s
  | .rej, some q => doRej s c p q x.toNat
  | .retHole, some q => doRet s c p q x false
  | .retClose, some q => doRet s c p q x true
  | .qry, some q => doQry s c p q src desc query
  | .loc, some q => doLoc s p q x
  | .len, some q => .done q (BitVec.ofNat 64 (q.nextpos + q.cl * 2 ^ 23 + q.tl * 2 ^ 46)) [] s

/-- The body of the message at a core's teller replaced. -/
def State.setWork (s : State) (c : Nat) (b : Body) : State :=
  s.updCore c (fun k => { k with teller := { k.teller with act := k.teller.act.map (fun a => { a with msg := { a.msg with body := b } }) } })

/-- The query messages among some, with their destinations. -/
def queriesOf (msgs : List (Nat × BitVec 6 × Body)) : List (Nat × List Byte) :=
  msgs.filterMap (fun y =>
    match y.2.2 with
    | .query p _ _ _ => some (y.1, p)
    | _ => none)

/-- The outcome of a span instruction at its home: the record, the messages, and the reply at once or when the last home
has done its part; query messages go out one by one. -/
def State.spanOutcome (s : State) (c : Nat) (m : Msg) (q : Seq) (x : Word) (msgs : List (Nat × BitVec 6 × Body)) : State :=
  let q1 := if msgs.isEmpty then q else { q with pend := q.pend ++ [(m.src, x, msgs.length)] }
  let same := fun (y : Seq) => y.job == q.job && y.pool == q.pool && y.sid == q.sid && !y.dropped
  let s1 := s.updCore c (fun k =>
    let others := k.seqs.filter (fun y => !same y)
    { k with seqs := if q1.dropped && q1.pend.isEmpty then others else others ++ [q1] })
  match msgs with
  | [] => s1.answer c m (.deferred x none)
  | y :: _ =>
    if (queriesOf msgs).isEmpty then (msgs.foldl (fun t y => t.post y.1 y.2.1 m.src y.2.2) s1).endActivation c
    else s1.setWork c (.querySend y.2.1 (queriesOf msgs) q.sid)

/-- The next query message goes to its span home, from the slot that SPQRY names as its origin (R407), at (1 + k) coins per hop that the slot
pays (Table 7.1). -/
def State.querySend (s : State) (c : Nat) (m : Msg) (h : BitVec 6) (left : List (Nat × List Byte)) (sid : BitVec 32) : State :=
  match left with
  | [] => s.endActivation c
  | (d, p) :: rest =>
    let n := (1 + p.length / 64) * hops c d
    match s.chargeReq m.src n with
    | none => s.heatReq m.src n
    | some t =>
      let u := t.post d h m.src (.query p c sid m.src)
      if rest.isEmpty then u.endActivation c else u.setWork c (.querySend h rest sid)

def State.spanPerform (s : State) (c : Nat) : State :=
  match s.work c with
  | some m =>
    match m.body with
    | .spanHome op h x desc query =>
      match findPool (s.core c).pools m.src.job (BitVec.ofNat 16 (handlePool h)) with
      | none => s.refuse c m ⟨causeSPAN, 1, h⟩
      | some p =>
        if p.resizing.isSome then s.holdRequest c m
        else
          match spanRun s c p m.src op h x desc query with
          | .fault sub =>
            match s.spanPay c (spanCoins 0) p.job with
            | none => s
            | some t => t.refuse c m ⟨causeSPAN, sub, h⟩
          | .done q res msgs t =>
            match t.spanPay c (spanCoins (msgs.filter (fun y => y.2.2.counts)).length) p.job with
            | none => s
            | some u => u.spanOutcome c m q res msgs
    | .querySend g left sid => s.querySend c m g left sid
    | _ => s
  | none => s

/-- SPAN_HOME_PERFORM. -/
def execSpanHomePerform (c : Nat) (s : State) : Res := .next (s.spanPerform c)

/-! ### Span homes (R374 to R378) -/

/-- A write of a sequence home's order, with its beat and its row.  It is held while the page moves (R348) or its frame is copied (R364), and
goes on to the page's home when that is another core; a range that is gone takes nothing, nor does a part of an uncorrectable block (R428). -/
def State.spanPut (s : State) (c : Nat) (m : Msg) (va : Word) (bs : List Byte) (home : Nat) : State :=
  let fin := fun (t : State) => (t.spanDone home m.src).endActivation c
  match findPage (s.core c).vaultMap m.src.job (vpnOf va) with
  | none =>
    match knownPage s m.src.job (vpnOf va) with
    | none => fin s
    | some q => if (q.st != 1 && q.st != 2) || homeGone s q then fin s else s.setWork c (.spanStore va bs home)
  | some p =>
    if p.st == 2 || copyBusy (s.core c) p then s.holdRequest c { m with body := .spanStore va bs home }
    else if p.st != 1 then fin s
    else
      let off := vaultOff p va
      match needRow s c off with
      | .error _ => s
      | .ok act =>
        match s.spanPay c (8 + 40 + (if act.isSome then 250 else 0)) m.src.job with
        | none => s
        | some t =>
          match homeBad t (vaultKey c off) bs.length .write with
          | some b => fin ((t.openRow c act).foundBad b)
          | none => fin ((t.openRow c act).putBytes (vaultKey c off) bs)

/-- A write into a slot of a core's own range. -/
def State.spanWrite (s : State) (c : Nat) (m : Msg) (pool : BitVec 16) (slot off : Nat) (bs : List Byte) (home : Nat) : State :=
  match findPool (s.core c).pools m.src.job pool with
  | none => (s.spanDone home m.src).endActivation c
  | some p => s.spanPut c m (p.slotAddr (memberOf s p c) slot + BitVec.ofNat 64 off) bs home

/-- A span home writes a header; a write whose page has moved is done where it now lies. -/
def State.openSpan (s : State) (c : Nat) : State :=
  match s.work c with
  | some m =>
    match m.body with
    | .spanOpen pool slot header home => s.spanWrite c m pool slot 0 header home
    | .spanStore va bs home => s.spanPut c m va bs home
    | _ => s
  | none => s

/-- SPAN_OPEN. -/
def execSpanOpen (c : Nat) (s : State) : Res := .next (s.openSpan c)

def State.countSpan (s : State) (c : Nat) : State :=
  match s.work c with
  | some m =>
    match m.body with
    | .spanCount pool slot n home => s.spanWrite c m pool slot 0x10 [BitVec.ofNat 8 n] home
    | _ => s
  | none => s

/-- SPAN_COUNT_UPDATE. -/
def execSpanCountUpdate (c : Nat) (s : State) : Res := .next (s.countSpan c)

def State.retireSpan (s : State) (c : Nat) : State :=
  match s.work c with
  | some m =>
    match m.body with
    | .spanRetire pool slot home => s.spanWrite c m pool slot 5 [0] home
    | _ => s
  | none => s

/-- SPAN_RETIRE. -/
def execSpanRetire (c : Nat) (s : State) : Res := .next (s.retireSpan c)

/-! ### Pool requests (Tables 14.1 and 14.2; log entry 13) -/

/-- A pool record with its request and reply address. -/
structure PoolReq where
  pool : Pool
  req : Nat
  reply : Word
  ok : Bool

/-- The limits of Table 14.1 and R370. -/
def poolValid (s : State) (p : Pool) (bs : List Byte) : Bool :=
  let d := NarrowFmt.ofBits p.edesc
  let first := natOfBytes ((bs.drop 8).take 4)
  p.base.toNat % 65536 == 0 && isGlobal p.base && p.base.toNat + p.nmem * p.range ≤ 0x800000000000 && first < 2 ^ 18 &&
  1 ≤ p.nmem && p.nmem ≤ 65536 && first + p.nmem ≤ s.ncores && 1 ≤ p.layers && p.layers ≤ 256 && 1 ≤ p.kvh && p.kvh ≤ 16 &&
  p.efmt ≤ 2 && 0 < p.dh && p.dh ≤ 256 && p.dh % (if p.efmt = 0 then 32 else if p.efmt = 1 then 64 else 128) == 0 &&
  (bs.getD 0x16 0).toNat < 64 && bs.getD 0x17 0 == 0 &&
  (if p.efmt = 0 then p.edesc == 0 else fdValid p.edesc && (if p.efmt = 1 then 5 ≤ d.w else d.w == 4)) &&
  1 ≤ p.spm && p.spm ≤ 4096 && 1 ≤ p.maxseq && p.maxseq ≤ 4096 && p.slotSize ≤ 2 ^ 21

def poolReqOf (s : State) (bs : List Byte) : PoolReq :=
  let f := fun o n => natOfBytes ((bs.drop o).take n)
  let p : Pool := ⟨BitVec.ofNat 64 (f 0 8), BitVec.ofNat 18 (f 8 4), f 0x0C 4, f 0x10 2, f 0x12 1, f 0x13 1, f 0x14 2,
    (bs.getD 0x16 0).extractLsb' 0 6, BitVec.ofNat 32 (f 0x18 4), f 0x1C 4, f 0x20 4, BitVec.ofNat 24 (f 0x24 3),
    BitVec.ofNat 16 (f 0x28 2), none, none, []⟩
  ⟨p, f 0x2A 1, BitVec.ofNat 64 (f 0x30 8),
   poolValid s p bs && f 0x27 1 == 0 && f 0x2B 5 == 0 && f 0x30 8 % 8 == 0 && f 0x38 8 == 0⟩

/-- The pool request that a core's teller is at work on; one with a REQ that Table 14.1 does not list is refused as POOLMAKE refuses. -/
def poolWork (s : State) (c : Nat) (req : Nat) : Option (Msg × PoolReq) :=
  match s.work c with
  | some m =>
    match m.body with
    | .user bs =>
      let r := poolReqOf s bs
      if m.handler == 6 && (if r.req = 2 || r.req = 3 then r.req else 1) == req then some (m, r) else none
    | _ => none
  | none => none

/-- A status word of a pool request (R369): word 0 is the entry core's, word i + 1 member i's. -/
def State.poolStatus (s : State) (c : Nat) (r : PoolReq) (word st : Nat) : State :=
  let a := r.reply + BitVec.ofNat 64 (8 * word)
  s.post (routeFrom s c r.pool.job (vpnOf a)) 1 ⟨c, 4, 0, r.pool.job, 0, 0⟩ (.store a (bytesOf 8 st))

/-- The pages of a member's range. -/
def memberPages (p : Pool) (i : Nat) : List (BitVec 33) :=
  (List.range (p.range / 65536)).map (fun j => vpnOf (p.memberBase i + BitVec.ofNat 64 (65536 * j)))

/-- Maps a member's range on its member (R370); none when it has too few free frames, or a page cannot be entered. -/
def State.mapMember (s : State) (p : Pool) (i : Nat) : Option State :=
  let d := p.member s i
  (memberPages p i).foldl (fun t v =>
    t.bind (fun t =>
      if (pageEntry t p.job v).isSome || !hasRoom t d p.job v then none
      else (t.pick (freeFrames t d false)).map (fun x => x.2.enterPage d x.1 p.job v 2 true true p.key))) (some s)

/-- Maps the ranges of some members. -/
def State.mapMembers (s : State) (p : Pool) (is : List Nat) : Option State :=
  is.foldl (fun t i => t.bind (fun t => t.mapMember p i)) (some s)

/-- Unmaps a member's range; a pinned page stays (R361). -/
def State.unmapMember (s : State) (p : Pool) (i : Nat) : State :=
  (memberPages p i).foldl (fun t v =>
    match pageEntry t p.job v with
    | some e => if e.pin == 0 then t.unmapEntry e else t
    | none => t) s

/-- A pool's record kept by a core. -/
def State.keepPool (s : State) (c : Nat) (p : Pool) : State :=
  s.updCore c (fun k => { k with pools := k.pools.filter (fun x => !(x.job == p.job && x.pool == p.pool)) ++ [p] })

def State.dropPool (s : State) (c : Nat) (p : Pool) : State :=
  s.updCore c (fun k => { k with pools := k.pools.filter (fun x => !(x.job == p.job && x.pool == p.pool)) })

def State.keepEntryPool (s : State) (c : Nat) (p : Pool) : State :=
  s.updCore c (fun k => { k with entryPools := k.entryPools.filter (fun x => !(x.job == p.job && x.pool == p.pool)) ++ [p] })

/-- The members of a pool. -/
def Pool.members (s : State) (p : Pool) : List Nat := (List.range p.nmem).map (p.member s)

/-- The core is the entry core of the pool. -/
def isEntry (s : State) (c : Nat) (r : PoolReq) : Bool := entryCore s r.pool.job r.pool.pool.toNat == c

/-- The member that a core is of the pool that a request names, under a member count. -/
def memberNo (s : State) (c : Nat) (p : Pool) (n : Nat) : Option Nat :=
  if memberOf s p c < n && p.member s (memberOf s p c) == c then some (memberOf s p c) else none

/-- The record of a pool at its entry core. -/
def entryPool (s : State) (job : BitVec 24) (pool : BitVec 16) : Option Pool :=
  findPool (s.core (entryCore s job pool.toNat)).entryPools job pool

/-- POOLMAKE's part of a member: it maps its range and keeps the record; a pool of that number with another record stands in the way. -/
def State.makeMember (s : State) (c : Nat) (r : PoolReq) (i : Nat) : State :=
  if r.req = 1 && ((findPool (s.core c).pools r.pool.job r.pool.pool).isSome || (entryPool s r.pool.job r.pool.pool).any (fun y => y != r.pool)) then
    s.poolStatus c r (i + 1) 2
  else if !r.ok || r.req != 1 then s.poolStatus c r (i + 1) 3
  else
    match s.mapMember r.pool i with
    | none => s.poolStatus c r (i + 1) 6
    | some t => (t.keepPool c r.pool).poolStatus c r (i + 1) 0

/-- POOLMAKE's part of the entry core. -/
def State.makeEntry (s : State) (c : Nat) (r : PoolReq) : State :=
  if r.req = 1 && (findPool (s.core c).entryPools r.pool.job r.pool.pool).isSome then s.poolStatus c r 0 2
  else if !r.ok || r.req != 1 then s.poolStatus c r 0 3
  else (s.keepEntryPool c r.pool).poolStatus c r 0 0

/-- A pool request's part of a core, as the 12 instructions of a span instruction, for the pool's job (Table 15.4; log entry 13). -/
def State.poolPart (s : State) (c : Nat) (r : PoolReq) (part : State → State) : State :=
  match s.spanPay c (spanCoins 0) r.pool.job with
  | none => s
  | some t => (part t).endActivation c

/-- A core that is a member and the entry core gets the message twice, and does its member's part first. -/
def State.poolMake (s : State) (c : Nat) : State :=
  match poolWork s c 1 with
  | some (_, r) =>
    let key := (r.pool.job, r.pool.pool)
    let due := fun (f : List (BitVec 24 × BitVec 16) → List (BitVec 24 × BitVec 16)) (t : State) =>
      t.updCore c (fun k => { k with poolDue := f k.poolDue })
    s.poolPart c r (fun s =>
      match memberNo s c r.pool (min r.pool.nmem 65536), isEntry s c r with
      | some i, false => s.makeMember c r i
      | some i, true =>
        if (s.core c).poolDue.contains key then due (fun ks => ks.filter (fun k => k != key)) (s.makeEntry c r)
        else due (fun ks => ks ++ [key]) (s.makeMember c r i)
      | none, true => s.makeEntry c r
      | none, false => s)
  | none => s

/-- POOLMAKE. -/
def execPoolmake (c : Nat) (s : State) : Res := .next (s.poolMake c)

/-- The requests that a dropped pool leaves waiting end as unknown sequences. -/
def State.endHeldSpans (s : State) (d : Nat) (p : Pool) : State :=
  let ours := fun (m : Msg) =>
    match m.body with
    | .spanHome _ h _ _ _ => m.src.job == p.job && handlePool h == p.pool.toNat
    | _ => false
  ((s.core d).held.filter ours).foldl (fun t m => t.post d 6 m.src m.body)
    (s.updCore d (fun k => { k with held := k.held.filter (fun m => !ours m) }))

/-- POOLFREE's part of a member: its sequences, its range and its record go. -/
def State.freeMember (s : State) (c : Nat) (p : Pool) : State :=
  let s1 := (s.unmapMember p (memberOf s p c)).updCore c (fun k => { k with
    seqs := k.seqs.filter (fun y => !(y.job == p.job && y.pool == p.pool)) })
  (s1.dropPool c p).endHeldSpans c p

/-- POOLFREE: a member that holds the pool frees its part, and the entry core, with its own part freed, the pool's number.  A non-zero Z
bit in JOB [31:24] has no status under POOLFREE in Table 14.2 and is ignored; a member core that holds no such pool and is not the entry
core writes no status word, as R369 names none for it (DESIGN CHOICE, log entry 71). -/
def State.poolFree (s : State) (c : Nat) : State :=
  match poolWork s c 3 with
  | some (_, r) =>
    s.poolPart c r (fun s =>
      match findPool (s.core c).pools r.pool.job r.pool.pool with
      | some p => (s.freeMember c p).poolStatus c r (memberOf s p c + 1) 0
      | none =>
        if !isEntry s c r then s
        else
          match findPool (s.core c).entryPools r.pool.job r.pool.pool with
          | none => s.poolStatus c r 0 1
          | some p =>
            (s.updCore c (fun k => { k with entryPools := k.entryPools.filter (fun x => !(x.job == p.job && x.pool == p.pool)) })).poolStatus c r 0 0)
  | none => s

/-- POOLFREE. -/
def execPoolfree (c : Nat) (s : State) : Res := .next (s.poolFree c)

/-! ### Resizing (R385) -/

/-- The request takes its turn again behind the messages in the mesh. -/
def State.again (s : State) (c : Nat) (m : Msg) : State := (s.post c m.handler m.src m.body).endActivation c

/-- The cores that keep a pool's record, under the greater of two member counts. -/
def resizeCores (s : State) (p : Pool) (n : Nat) : List Nat := (List.range (max p.nmem n)).map (p.member s)

/-- The sequences of a pool that resizes to n members, with their homes. -/
def poolSeqs (s : State) (p : Pool) (n : Nat) : List (Nat × Seq) :=
  ((resizeCores s p n).map (fun d => ((s.core d).seqs.filter (fun y => y.job == p.job && y.pool == p.pool)).map (fun y => (d, y)))).flatten

/-- A sequence that is not yet at its home under n members. -/
def seqToMove (s : State) (p : Pool) (n : Nat) : Option (Nat × Nat × Seq) :=
  (poolSeqs s p n).findSome? (fun x => let i := seqMember n x.2.sid; if p.member s i != x.1 then some (x.1, i, x.2) else none)

/-- A slot of member i holds a span. -/
def slotHolds (s : State) (p : Pool) (i slot : Nat) (sid : BitVec 32) (l b : Nat) : Bool :=
  let h := rangeBytes s p.job (p.slotAddr i slot) 8
  natOfBytes (h.take 4) == sid.toNat && (h.getD 4 0).toNat == l && h.getD 5 0 == 1 && natOfBytes (h.drop 6) == b

/-- The spans, by layer, whose homes change and that still lie at the old one: sequence home, sequence, layer, index, slot. -/
def spansToMove (s : State) (p : Pool) (n : Nat) : List (Nat × Seq × Nat × Nat × Nat) :=
  ((poolSeqs s p n).map (fun x => (x.2.live.map (fun y => (List.range p.layers).filterMap (fun l =>
    let i := spanMember p.nmem x.2.sid l y.1
    let k := y.2.slots.getD l 0
    if i != spanMember n x.2.sid l y.1 && slotHolds s p i k x.2.sid l y.1 then some (x.1, x.2, l, y.1, k) else none))).flatten)).flatten

/-- Slots that arrive at member i. -/
def arriving (s : State) (p : Pool) (n i : Nat) : Nat :=
  ((spansToMove s p n).filter (fun x => spanMember n x.2.1.sid x.2.2.1 x.2.2.2.1 == i)).length +
  ((poolSeqs s p n).filter (fun x => seqMember n x.2.sid == i && p.member s i != x.1)).foldl (fun a x => a + x.2.dirSlots.length) 0

/-- Every member of the resized pool has the free slots that arrive at it. -/
def resizeFits (s : State) (p : Pool) (n : Nat) : Bool :=
  (List.range n).all (fun i => arriving s p n i ≤ (freeSlots s p i).length)

/-- The next message of eight blocks of a span's slot goes to its new home, at the old home's cost (R356); the last one frees the slot there.
None while the purse does not cover it. -/
def State.moveSpan (s : State) (c : Nat) (p : Pool) (n : Nat) (x : Nat × Seq × Nat × Nat × Nat) : Option State :=
  let (sh, q, l, b, slot) := x
  let i := spanMember p.nmem q.sid l b
  let j := spanMember n q.sid l b
  let d := p.member s i
  let e := p.member s j
  let keep := fun (t : State) (v : Option (Nat × Nat)) => t.keepEntryPool c { p with moveTo := v }
  match p.moveTo with
  | none => (s.pick (freeSlots s p j)).map (fun y => keep y.2 (some (y.1, 0)))
  | some (k, done) =>
    let off := BitVec.ofNat 64 (512 * done)
    if !rangeStill s p.job (p.slotAddr i slot + off) || !rangeStill s p.job (p.slotAddr j k + off) then none
    else
    (s.spanPay d (640 + 9 * hops d e) p.job).map (fun t =>
      match rangeKey t p.job (p.slotAddr i slot + off), rangeKey t p.job (p.slotAddr j k + off) with
      | some a, some z =>
        let t1 := t.copyBlocks a z 512
        if 512 * (done + 1) < p.slotSize then keep t1 (some (k, done + 1))
        else
          let t2 : State := match rangeKey t1 p.job (p.slotAddr i slot + 5) with
            | some w => { t1 with mem := t1.mem.write w 0 }
            | none => t1
          let q1 := q.setDir b (fun dd => { dd with slots := dd.slots.set l k })
          keep (t2.updCore sh (fun y => { y with seqs := y.seqs.map (fun t => if t == q then q1 else t) })) none
      | _, _ => keep t none)

/-- One sequence record and its directory moved to its new home.  R385 does not say that this is among the copies that R356 charges, and
names no failure for a member that would keep more than MAXSEQ records (R371): the model charges nothing and moves them all the same
(DESIGN CHOICE, log entry 71). -/
def State.moveSeq (s : State) (p : Pool) (x : Nat × Nat × Seq) : State :=
  let d := p.member s x.2.1
  let slots := (freeSlots s p x.2.1).take x.2.2.dirSlots.length
  (s.updCore x.1 (fun k => { k with seqs := k.seqs.filter (fun t => !(t == x.2.2)) })).updCore d (fun k =>
    { k with seqs := k.seqs ++ [{ x.2.2 with dirSlots := slots }] })

/-- Held instructions go to the sequence homes of the pool as it then stands, in arrival order (step 6). -/
def State.releaseSpans (s : State) (cores : List Nat) (p : Pool) : State :=
  let ours := fun (m : Msg) =>
    match m.body with
    | .spanHome _ h _ _ _ => m.src.job == p.job && handlePool h == p.pool.toNat
    | _ => false
  cores.foldl (fun t d =>
    ((t.core d).held.filter ours).foldl (fun u m =>
      match m.body with
      | .spanHome _ h _ _ _ => u.post (p.member s (seqMember p.nmem (handleSid h))) 6 m.src m.body
      | _ => u) (t.updCore d (fun k => { k with held := k.held.filter (fun m => !ours m) }))) s

/-- The entry core's record once a POOLSIZE has ended with a status that so many members have still to write. -/
def Pool.owes (p p' : Pool) (reply : Word) (n st : Nat) : Pool :=
  { p' with owed := p.owed.filter (fun x => x.2.2 != reply) ++ (List.range n).map (fun i => (i, st, reply)) }

/-- A span instruction is on its way to a sequence home of the pool, or waits there to be taken up (R385, step 2). -/
def spansComing (s : State) (p : Pool) : Bool :=
  let ours := fun (m : Msg) =>
    match m.body with
    | .spanHome _ h _ _ _ => m.src.job == p.job && handlePool h == p.pool.toNat
    | _ => false
  s.net.any ours || s.cores.any (fun k => k.2.ready.any ours || k.2.landed.any (fun x => ours x.2) || k.2.teller.act.any (fun a => ours a.msg))

/-- The end of a resize with a status: the pool takes n members, or stays as it was; the members have their own status words to write. -/
def State.endResize (s : State) (c : Nat) (p : Pool) (reply : Word) (n size st : Nat) : State :=
  let p' := { p with nmem := n, resizing := none, moveTo := none, owed := [] }
  let s1 := (resizeCores s p size).foldl (fun t d => t.dropPool d p) s
  let s2 := ((p'.members s).foldl (fun t d => t.keepPool d p') s1).keepEntryPool c (p.owes p' reply (max p.nmem size) st)
  s2.releaseSpans (resizeCores s p size) p'

/-- A member's part of a POOLSIZE: once the entry core has ended it, the member writes its status. -/
def State.sizeMember (s : State) (c : Nat) (m : Msg) (r : PoolReq) (p : Pool) (i : Nat) : State :=
  match p.owed.find? (fun x => x.1 == i && x.2.2 == r.reply) with
  | none => s.again c m
  | some x =>
    let e := entryCore s p.job p.pool.toNat
    s.poolPart c r (fun s => (s.keepEntryPool e { p with owed := p.owed.filter (fun y => y != x) }).poolStatus c r (i + 1) x.2.1)

/-- The entry core's part of a POOLSIZE: one step of R385 each time its teller comes to it; while it waits, or another POOLSIZE of the pool
runs, the request takes its turn again. -/
def State.sizeEntry (s : State) (c : Nat) (m : Msg) (r : PoolReq) (p : Pool) : State :=
  let n := r.pool.nmem
  match p.resizing with
  | none =>
    if !r.ok then s.poolPart c r (fun s => (s.keepEntryPool c (p.owes p r.reply (max p.nmem (min n 65536)) 3)).poolStatus c r 0 3)
    else
      match s.mapMembers p ((List.range n).filter (fun i => p.nmem ≤ i)) with
      | none => s.poolPart c r (fun s => (s.keepEntryPool c (p.owes p r.reply (max p.nmem n) 6)).poolStatus c r 0 6)
      | some t =>
        let q := { p with resizing := some (n, r.reply) }
        (((resizeCores s p n).foldl (fun u d => u.keepPool d q) t).keepEntryPool c q).again c m
  | some (n', reply) =>
    if n' != n || reply != r.reply || (poolSeqs s p n).any (fun x => !x.2.pend.isEmpty) then s.again c m
    else if p.moveTo.isNone && !resizeFits s p n then
      s.poolPart c r (fun s =>
        let s1 := ((List.range n).filter (fun i => p.nmem ≤ i)).foldl (fun t i => t.unmapMember p i) s
        (s1.endResize c p reply p.nmem n 6).poolStatus c r 0 6)
    else
      match seqToMove s p n, (spansToMove s p n).head? with
      | some x, _ => (s.moveSeq p x).again c m
      | none, some x =>
        match s.moveSpan c p n x with
        | some t => t.again c m
        | none => s.again c m
      | none, none =>
        if spansComing s p then s.again c m
        else
          s.poolPart c r (fun s =>
            let s1 := ((List.range p.nmem).filter (fun i => n ≤ i)).foldl (fun t i => t.unmapMember p i) s
            (s1.endResize c p reply n n 0).poolStatus c r 0 0)

/-- POOLSIZE at the entry core while it has its part to do, and at a member. -/
def State.poolSize (s : State) (c : Nat) : State :=
  match poolWork s c 2 with
  | some (m, r) =>
    let i? := memberNo s c r.pool 65536
    match entryPool s r.pool.job r.pool.pool with
    | none =>
      s.poolPart c r (fun s =>
        let t := if isEntry s c r then s.poolStatus c r 0 3 else s
        match i? with
        | some i => t.poolStatus c r (i + 1) 3
        | none => t)
    | some p =>
      if isEntry s c r && !i?.any (fun i => p.owed.any (fun x => x.1 == i && x.2.2 == r.reply)) then s.sizeEntry c m r p
      else
        match i? with
        | some i => s.sizeMember c m r p i
        | none => s.endActivation c
  | none => s

def execPoolsize (c : Nat) (s : State) : Res := .next (s.poolSize c)

end Sys2Proof.Machine
end

