-- ==== Sys2Proof/Machine/Mgmt.lean ====
section
/-!
DEFINITION. The management service (21_interfaces.md, R475, Table 21.3), with what its messages reach: the capacity map, event and
cadence records, debug modules, recording, checkpoints, attestation, keys, firmware and coolant (18, R423, R442; 20, R453 to R468).
-/
namespace Sys2Proof.Machine

/-! ### Replies -/

/-- A reply: the 8-byte header, and a body whose layout is the hub firmware's (log entry 9). -/
def State.mgmtReply (s : State) (h : Hub) (code : Nat) (content : List Byte) : State :=
  let body := Config.mgmtBody code content
  let p := s.port h
  s.setPort h { p with mgmt := p.mgmt ++ [bytesOf 2 1 ++ bytesOf 2 code ++ bytesOf 4 body.length ++ body] }

/-- A message is refused: nothing changes. -/
def State.mgmtRefuse (s : State) (h : Hub) (code : Nat) : State := s.mgmtReply h code [1]

/-- A message is done. -/
def State.mgmtDone (s : State) (h : Hub) (code : Nat) : State := s.mgmtReply h code [0]

/-- HELLO: version, serial, ARCHREV, MATHREV, module number, and the port's PCIe role (R474). -/
def execHello (h : Hub) (s : State) : Res :=
  .next (s.mgmtReply h 0x01 (bytesOf 2 1 ++ Config.serial ++ [1, 1] ++ bytesOf 1 s.modNo.toNat ++ bytesOf 1 (s.port h).rootPort.toNat))

/-! ### The capacity map (Tables 18.1 and 18.2) -/

/-- The bits of the spokes of a core in some state of service. -/
def spokeBits (k : Core) (st : Nat) : Nat :=
  (k.banks.filter (fun b => b.2.spoke == st)).foldl (fun x b => x + 2 ^ b.1) 0

/-- The column record of a core; only an active one has user frames in service. -/
def columnRecord (s : State) (c : Nat) : Nat :=
  let k := s.core c
  let st := if s.fused.contains c then 2 else if s.harvested.contains c then 1 else if s.lost.contains c then 3 else 0
  let rows := min 255 ((k.banks.map (fun b => b.2.sparesUsed)).foldl (· + ·) 0)
  st * 2 ^ 126 + k.standIn.isSome.toNat * 2 ^ 125 + (mtxWorks s c).toNat * 2 ^ 124 + (k.standIn.getD 0).toNat * 2 ^ 106 +
  (if st = 0 || st = 3 then (s.coreNo c).toNat else 0) * 2 ^ 88 + (if st = 0 then userFrames k else 0) * 2 ^ 80 + rows * 2 ^ 72 + k.cecnt * 2 ^ 64 +
  spokeBits k 1 * 2 ^ 32 + spokeBits k 2

/-- The summary. -/
def capacitySummary (s : State) : List Byte :=
  let active := allCores.filter s.isActive
  let ret := ((s.cores.filter (fun p => s.isActive p.1)).map (fun p => (p.2.banks.filter (fun b => b.2.spoke != 0)).length)).foldl (· + ·) 0
  bytesOf 4 s.ncores ++ bytesOf 4 (mtxWorking s) ++ bytesOf 4 s.harvested.length ++ bytesOf 4 s.lost.length ++
  bytesOf 8 ((active.map (fun c => userFrames (s.core c))).foldl (· + ·) 0) ++ bytesOf 8 (freeUserFrames s) ++ bytesOf 4 ret ++
  bytesOf 4 s.mapGen ++ List.replicate 24 0

/-- A byte of the map: 262 144 records by y x 512 + x, then the summary. -/
def mapByte (s : State) (off : Nat) : Byte :=
  if off < 0x400000 then
    let i := off / 16
    BitVec.ofNat 8 (columnRecord s (coreAt (i % 512) (i / 512)) >>> (8 * (off % 16)))
  else (capacitySummary s).getD (off - 0x400000) 0

/-- MAPREAD. -/
def execMapread (h : Hub) (off len : Nat) (s : State) : Res :=
  .next (if s.bootStep < 8 || 0x400040 < off + len then s.mgmtRefuse h 0x02
    else s.mgmtReply h 0x02 (0 :: (List.range len).map (fun i => mapByte s (off + i))))

/-! ### Events and the cadence pulse -/

/-- A record as it is streamed: Tables 18.4 and 10.5; the others have no stated layout. -/
def hubRecBytes : HubRec → List Byte
  | .event time xy kind bank addr data =>
    bytesOf 8 time.toNat ++ bytesOf 4 xy.toNat ++ bytesOf 1 kind.toNat ++ bytesOf 1 bank.toNat ++ [0, 0] ++ bytesOf 8 addr.toNat ++
    bytesOf 8 data.toNat
  | .handlerFault bs => bs
  | .doubleTrap c t => bytesOf 4 c ++ bytesOf 1 t
  | .told w a => bytesOf 4 w ++ bytesOf 8 a.toNat

/-- EVENTS: every record that waits is streamed, oldest first. -/
def execEvents (h : Hub) (s : State) : Res :=
  let p := s.port h
  .next ((s.setPort h { p with events := [] }).mgmtReply h 0x03 (p.events.flatMap hubRecBytes))

/-- CADENCE: arms the pulse, for one tick (0) or for every P-th, and streams a record that waits. -/
def State.armCadence (s : State) (h : Hub) (period : Nat) : State :=
  if 2 ^ 20 < period then s.mgmtRefuse h 0x04
  else
    let p := s.port h
    let t := (s.setPort h { p with cadence := [] }).mgmtReply h 0x04 p.cadence.flatten
    if period = 0 then { t with cadOnce := true } else { t with cadPeriod := period }

def execCadence (h : Hub) (period : Nat) (s : State) : Res := .next (s.armCadence h period)

/-! ### Debug modules -/

/-- DBGREAD. -/
def execDbgread (h : Hub) (c off : Nat) (s : State) : Res :=
  .next (s.mgmtReply h 0x05 (bytesOf 8 (debugRead s c off).toNat))

/-- DBGWRITE. -/
def execDbgwrite (h : Hub) (c off : Nat) (v : BitVec 64) (s : State) : Res := .next ((s.debugWrite c off v).mgmtDone h 0x06)

/-! ### Recording (R460, R461) -/

/-- RECORD: recording and the full-log switch of a job; its cores that hold units get their log pages. -/
def State.setRecording (s : State) (h : Hub) (job : Nat) (on stall : Bool) : State :=
  let j := BitVec.ofNat 24 job
  if (jobOf s j).isNone then s.mgmtRefuse h 0x07
  else
    let t := s.updJob j (fun x => { x with recording := on, stall := stall })
    let cs := t.coreList.filter (fun c => (t.core c).slots.toList.any (fun l => l.phase != .empty && l.jobid == j))
    (cs.foldl (fun u c => u.nameLog c j) t).mgmtDone h 0x07

def execRecord (h : Hub) (job : Nat) (on stall : Bool) (s : State) : Res := .next (s.setRecording h job on stall)

/-- LOGDRAIN: the page's contents go out, the read offset moves on, and logging goes on where it waited. -/
def State.logDrain (s : State) (h : Hub) (c newRead : Nat) : State :=
  match (s.core c).logPage.bind (ownPage s c) with
  | none => s.mgmtRefuse h 0x08
  | some key =>
    if newRead < 0x40 || 0x10000 ≤ newRead then s.mgmtRefuse h 0x08
    else
      let t := s.mgmtReply h 0x08 (s.mem.readBytes key 65536)
      ({ t with mem := t.mem.writeNat (key + 8) 8 newRead } : State).logResume c

def execLogdrain (h : Hub) (c newRead : Nat) (s : State) : Res := .next (s.logDrain h c newRead)

/-! ### Checkpoint and restart (R463, R464) -/

/-- The page entries of a job. -/
def jobPages (s : State) (j : BitVec 24) : List PageEntry := s.cores.flatMap (fun k => k.2.pages.filter (fun p => p.job == j))

/-- A unit of a job is placed, saved or parked. -/
def jobLive (s : State) (j : Job) : Bool :=
  j.live != 0 ||
  s.cores.any (fun k => k.2.slots.toList.any (fun l => l.phase != .empty && l.jobid == j.num)) ||
  s.dist.launches.any (fun l => l.desc.job == j.num && (!l.saved.isEmpty || s.cores.any (fun k => k.2.parked.any (fun p => p.launch == l.num))))

/-- A page's contents, read at its home: in this module at its frame, in another one block by block (log entry 8); none where a block is
uncorrectable, which is reported, or the home is out of reach. -/
def State.readPage (s : State) (p : PageEntry) : State × Option (List Byte) :=
  let n := pageSize p.large
  match entryHome s p with
  | some h =>
    let key := vaultKey h (frameOff p.frame)
    match (blockKeys key n).find? (fun b => s.bad.contains b) with
    | some b => (s.foundBad b, none)
    | none => (s.correctedIn key n, some (s.mem.readBytes key n))
  | none => (s, if p.mod != s.modNo && s.isReachable p.home then some (awayBytes s p (vpnBase p.vpn) n) else none)

/-- The pages of a job saved one by one, each under its key slot's key; none when one cannot be read, or its slot holds no usable key when
its turn comes (R467). -/
def State.savePages (s : State) (all : List PageEntry) : List PageEntry → State × Option (List SavedPage)
  | [] => (s, some [])
  | p :: rest =>
    if !keyUsable s p.key p.job then (s, none)
    else
      match s.readPage p with
      | (t, none) => (t, none)
      | (t, some bs) =>
        let iv := gcmIv t p.key
        let e := Config.gcmEncrypt (t.keys.get p.key.toFin).key iv [] bs
        let x : SavedPage := ⟨p.vpn, p.cls, p.rd, p.w, p.key, all.findIdx (fun q => sameFrame p q), iv, e.2, e.1⟩
        match (t.usedKey p.key).savePages all rest with
        | (u, some xs) => (u, some (x :: xs))
        | r => r

/-- CHECKPOINT of a quiescent job; refused otherwise, and when a page cannot be encrypted or read. -/
def State.takeCheckpoint (s : State) (h : Hub) (job : Nat) : State :=
  match jobOf s (BitVec.ofNat 24 job) with
  | none => s.mgmtRefuse h 0x09
  | some j =>
    let ps := jobPages s j.num
    if jobLive s j || ps.any (fun p => !keyUsable s p.key j.num) then s.mgmtRefuse h 0x09
    else if ps.any (fun p => busy (some p)) then s
    else
      match s.savePages ps ps with
      | (t, none) => t.mgmtRefuse h 0x09
      | (t, some pages) =>
      let m : Manifest :=
        { floor := j.floor, archrev := 1, mathrev := 1, pages
          tensors := s.dist.tensors.filter (fun x => x.job == j.num && (launchNo s x.last).any (fun l => l.st == 0))
          pools := s.cores.flatMap (fun k => k.2.entryPools.filter (fun p => p.job == j.num))
          seqs := s.cores.flatMap (fun k => k.2.seqs.filter (fun x => x.job == j.num))
          reductions := s.dist.reductions.filter (fun x => x.job == j.num) }
      let n := s.storage.foldl (fun a x => max a (x.1 + 1)) 0
      ({ t with storage := Tab.put t.storage n m } : State).mgmtReply h 0x09 (0 :: bytesOf 4 n)

def execCheckpoint (h : Hub) (job : Nat) (s : State) : Res := .next (s.takeCheckpoint h job)

/-- The pool that a restart makes of a saved one: with its own members where the module has so many cores, else with as many as there are, the
last ones (R464; log entry 55). -/
def Pool.fitted (p : Pool) (s : State) (j : BitVec 24) : Pool :=
  let n := min p.nmem s.ncores
  { p with
    job := j, nmem := n, resizing := none, moveTo := none, owed := []
    first := if p.first.toNat + n ≤ s.ncores then p.first else BitVec.ofNat 18 (s.ncores - n) }

/-- A pool's record at the entry core and the members. -/
def State.restorePool (s : State) (q : Pool) : State :=
  ((q.members s).foldl (fun u d => u.keepPool d q) s).keepEntryPool (entryCore s q.job q.pool.toNat) q

/-- A span's slot copied to another address of the pool. -/
def State.copySlot (s : State) (job : BitVec 24) (src dst : Word) (n : Nat) : State :=
  (List.range (n / 512)).foldl (fun t i =>
    let off := BitVec.ofNat 64 (512 * i)
    match rangeKey t job (src + off), rangeKey t job (dst + off) with
    | some a, some z => t.copyBlocks a z 512
    | _, _ => t) s

/-- A restored span at a layer, of a pool that had other members: it goes to the member that homes it now, when that has a free slot. -/
def State.restoreSpan (s : State) (old new : Pool) (q : Seq) (b l : Nat) : Option (State × Seq) :=
  let slot := ((q.dir[b]?).map (fun d => d.slots.getD l 0)).getD 0
  let i := spanMember old.nmem q.sid l b
  let z := spanMember new.nmem q.sid l b
  if i == z then some (s, q)
  else
    (s.pick (freeSlots s new z)).map (fun x =>
      (x.2.copySlot new.job (old.slotAddr i slot) (new.slotAddr z x.1) new.slotSize,
       q.setDir b (fun d => { d with slots := d.slots.set l x.1 })))

/-- The spans and the directory of a saved sequence recreated under the pool's members; none when a member has too few free slots. -/
def State.restoreSeq (s : State) (old new : Pool) (x : Seq) : Option State :=
  let home := seqMember new.nmem x.sid
  let spans := x.live.flatMap (fun y => (List.range new.layers).map (fun l => (y.1, l)))
  let moved := spans.foldl (fun o y => o.bind (fun (t, q) => t.restoreSpan old new q y.1 y.2)) (some (s, { x with job := new.job, pend := [] }))
  moved.bind (fun (t, q) =>
    let stays := seqMember old.nmem x.sid == home
    let free := freeSlots t new home
    if !stays && free.length < q.dirSlots.length then none
    else
      let r := if stays then q else { q with dirSlots := free.take q.dirSlots.length }
      let put := fun (y : Seq) => if y.job == new.job && y.pool == new.pool && y.sid == x.sid then r else y
      some (t.updCore (new.member t home) (fun k => { k with seqs := k.seqs.map put })))

/-- The sequences of a pool recreated: first the records, with the directories that stay where they are, then what moves; the ranges of members
that it no longer has are unmapped. -/
def State.restoreSeqs (s : State) (old new : Pool) (seqs : List Seq) : Option State :=
  let ours := seqs.filter (fun x => x.pool == old.pool)
  let s1 := ours.foldl (fun t x =>
    let home := seqMember new.nmem x.sid
    let q := { x with job := new.job, pend := [], dirSlots := if seqMember old.nmem x.sid == home then x.dirSlots else [] }
    t.updCore (new.member t home) (fun k => { k with seqs := k.seqs ++ [q] })) s
  (ours.foldl (fun o x => o.bind (fun t => t.restoreSeq old new x)) (some s1)).map (fun t =>
    ((List.range old.nmem).filter (fun i => new.nmem ≤ i)).foldl (fun u i =>
      (memberPages old i).foldl (fun v p =>
        match pageEntry v new.job p with
        | some e => v.unmapEntry e
        | none => v) u) t)

/-- A page mapped again: at its class home under the new N, a member's page on that member, or on the frame of the first page of its group;
none when its tag fails, or no frame or no room for its entry is free (R343, R349). -/
def State.restorePage (s : State) (j : BitVec 24) (all : List SavedPage) (x : SavedPage) : Option State :=
  let shared := decide (1 < (all.filter (fun y => y.group == x.group)).length)
  match (all.find? (fun y => y.group == x.group && (pageEntry s j y.vpn).isSome)).bind (fun y => pageEntry s j y.vpn) with
  | some p =>
    match entryHome s p with
    | none => none
    | some h =>
      if !hasRoom s h j x.vpn then none else
      let t := s.addPage { p with vpn := x.vpn, cls := x.cls, rd := x.rd, w := x.w, key := x.key, pin := 0, cow := true } .write
      some (t.setShare (sharers t h p.large p.frame) (p.share.toNat + 1))
  | none =>
    match Config.gcmDecrypt (s.keys.get x.key.toFin).key x.iv [] x.contents x.tag with
    | none => none
    | some bs =>
      match (match poolOwner s j (vpnBase x.vpn) with
        | some c => s.mapAt c j x.vpn x.cls x.rd x.w x.key
        | none => s.mapOn (classCore s j x.vpn x.cls) j x.vpn x.cls x.rd x.w x.key) with
      | none => none
      | some t =>
        match pageEntry t j x.vpn with
        | none => none
        | some p =>
          (entryHome t p).map (fun h =>
            let u := t.updPage j x.vpn (fun y => { y with cow := shared })
            u.putBytes (vaultKey h (frameOff p.frame)) (bs.take (pageSize p.large)))

/-- RESTART: a new job with the manifest's pages, pools and reductions; refused for another MATHREV, or when a page or a sequence cannot be
recreated. -/
def State.restart (s : State) (h : Hub) (n : Nat) : State :=
  match Tab.find s.storage n with
  | none => s.mgmtRefuse h 0x0A
  | some m =>
    let j := BitVec.ofNat 24 s.dist.nextJob
    if m.mathrev != 1 || 4096 ≤ openJobs s || 2 ^ 24 ≤ s.dist.nextJob then s.mgmtRefuse h 0x0A
    else
      let s1 := s.updDist (fun d => { d with
        jobs := d.jobs ++ [⟨j, m.floor, 1, 0, 0, 0, 0, false, false, false⟩]
        nextJob := d.nextJob + 1
        tensors := d.tensors ++ m.tensors.map (fun x => { x with job := j })
        reductions := d.reductions ++ m.reductions.map (fun x => { x with job := j, slots := [], waiting := [], due := [], lost := false }) })
      let s2 := m.pools.foldl (fun t p => t.restorePool (p.fitted s j)) s1
      let s3 := m.pages.foldl (fun t x => t.bind (fun t => t.restorePage j m.pages x)) (some s2)
      match m.pools.foldl (fun t p => t.bind (fun t => t.restoreSeqs { p with job := j } (p.fitted s j) m.seqs)) s3 with
      | none => s.mgmtRefuse h 0x0A
      | some t => t.mgmtReply h 0x0A (0 :: bytesOf 4 j.toNat)

def execRestart (h : Hub) (manifest : Nat) (s : State) : Res := .next (s.restart h manifest)

/-! ### Attestation (R466, Table 20.9) -/

/-- The words of the system code as bytes. -/
def systemBytes : List Byte := (List.range 2048).flatMap (fun i => bytesOf 4 (Config.systemCode (0x6000 + 4 * i)).toNat)

/-- The kernel and handler images of a job. -/
def jobCode (s : State) (j : BitVec 24) : List Byte :=
  (s.dist.launches.filter (fun l => l.desc.job == j)).flatMap (fun l => l.code) ++
  s.cores.flatMap (fun k => if k.2.handlers.any (fun x => 16 ≤ x.1 && x.2.job == j) then s.mem.readBytes (storeKey k.1 0x5000) 0x1000 else [])

/-- Bytes 0x000 to 0x17F of a report. -/
def attestBody (s : State) (h : Hub) (nonce : BitVec 256) (job : Nat) : List Byte :=
  let version := match Config.imageParts (s.image 0) with
    | some x => x.1
    | none => 0
  bytesOf 32 nonce.toNat ++ (Config.serial ++ List.replicate 16 0).take 16 ++ bytesOf 4 1 ++ bytesOf 2 version ++ bytesOf 2 s.modNo.toNat ++
  bytesOf 8 s.boots ++ Config.shake256 64 (s.image (hubImage h)) ++ Config.shake256 64 (s.image 1) ++
  Config.shake256 64 (s.image 0 ++ systemBytes) ++
  (if (jobOf s (BitVec.ofNat 24 job)).isSome then Config.shake256 64 (jobCode s (BitVec.ofNat 24 job)) else List.replicate 64 0) ++
  bytesOf 4 s.ncores ++ bytesOf 4 (mtxWorking s) ++ List.replicate 56 0

/-- ATTEST. -/
def execAttest (h : Hub) (nonce : BitVec 256) (job : Nat) (s : State) : Res :=
  let b := (attestBody s h nonce job).take 0x180
  .next (s.mgmtReply h 0x0B (b ++ Config.identitySign (Config.shake256 64 b) ++ List.replicate 14 0))

/-! ### Key slots (R467, R468) -/

def State.setKey (s : State) (k : Fin 64) (x : KeySlot) : State := { s with keys := s.keys.set k x k.isLt }

/-- KEYLOAD. -/
def execKeyload (h : Hub) (k : Fin 64) (key : BitVec 256) (s : State) : Res :=
  let x := s.keys.get k
  .next ((s.setKey k { x with ctr := 0, gen := x.gen + 1, st := 1, key := key }).mgmtDone h 0x0C)

/-- KEYGRANT. -/
def execKeygrant (h : Hub) (k : Fin 64) (job : Nat) (s : State) : Res :=
  .next ((s.setKey k { s.keys.get k with grant := BitVec.ofNat 24 job }).mgmtDone h 0x0D)

/-- KEYCLEAR. -/
def execKeyclear (h : Hub) (k : Fin 64) (s : State) : Res :=
  .next ((s.setKey k { s.keys.get k with st := 0, key := 0 }).mgmtDone h 0x0E)

/-! ### Configuration, firmware and reset -/

/-- RIMCONF: taken up by step 7 of the next boot (R478, R480). -/
def execRimconf (h : Hub) (modno : BitVec 8) (routes : List (Nat × Nat)) (linkKey : Option (Fin 64)) (s : State) : Res :=
  .next (({ s with rimNext := some (modno, routes, linkKey) } : State).mgmtDone h 0x0F)

/-- The kind of an image that a hub is given: a hub's firmware is that hub's own (log entry 73). -/
def kindFor (h : Hub) (image : List Byte) : Nat := if Config.imageKind image % 3 = 2 then hubImage h else Config.imageKind image % 3

/-- FWUPDATE: staged for the next boot. -/
def execFwupdate (h : Hub) (image : List (BitVec 8)) (s : State) : Res :=
  .next (({ s with staged := Tab.put s.staged (kindFor h image) image } : State).mgmtDone h 0x10)

/-- RESET: the module boots again. -/
def execReset (h : Hub) (s : State) : Res := .next ((s.begin false).mgmtDone h 0x11)

/-! ### Coolant (R475, R483) -/

/-- COOLANT: inlet, outlet and flow; no rule states the outlet, which is a free value (log entry 6). -/
def execCoolant (h : Hub) (s : State) : Res :=
  .next (s.draw.2.mgmtReply h 0x12 (bytesOf 8 s.coolant.2 ++ bytesOf 8 s.draw.1.toNat ++ bytesOf 8 s.coolant.1))

/-- The coolant is within limits: flow in L/min, inlet in degrees C. -/
def coolantOk (flow inlet : Nat) : Bool := 48 ≤ flow && inlet ≤ 45

/-- A reading within limits: the first one after a fault begins the second of R483. -/
def State.coolantIn (s : State) (flow inlet : Nat) : State :=
  if s.coolantLow && !s.coolantBack then { s with coolant := (flow, inlet), coolantTick := s.tick, coolantBack := true }
  else { s with coolant := (flow, inlet) }

/-- COOLANT_FAULT: the cap is 8 kW from the next tick, and both hubs are told. -/
def State.coolantFault (s : State) (flow inlet : Nat) : State :=
  if coolantOk flow inlet then s.coolantIn flow inlet
  else
    let t : State := { s with coolant := (flow, inlet), coolantBack := false, coolantLow := true, capNext := 8 }
    if s.coolantLow then t else t.toHubs (.told 6 (BitVec.ofNat 64 flow))

def execCoolantFault (flow inlet : Nat) (s : State) : Res := .next (s.coolantFault flow inlet)

/-- COOLANT_RECOVER: after 1 s within limits the cap is the last CAPSET value again. -/
def State.coolantRecover (s : State) (flow inlet : Nat) : State :=
  if !coolantOk flow inlet || !s.coolantLow then s
  else if !s.coolantBack || s.tick < s.coolantTick + 1000000 then s.coolantIn flow inlet
  else { s with coolant := (flow, inlet), coolantLow := false, coolantBack := false, capNext := s.capSet }

def execCoolantRecover (flow inlet : Nat) (s : State) : Res := .next (s.coolantRecover flow inlet)

end Sys2Proof.Machine
end

