-- ==== Sys2Proof/Machine/Rim.lean ====
section
/-!
DEFINITION. The rim links (21_interfaces.md, R476 to R480): frames, their order and acknowledgement, and messages that leave for
another module or arrive from one (log entry 8).
-/
namespace Sys2Proof

/-- The mesh flits of a message, its header first; the header names the key slot and the IV that its payload is encrypted under.
No rule lays a flit out (log entry 8). -/
opaque Config.rimFlits : Machine.Msg → Option (BitVec 6 × BitVec 96) → List (List Byte)

/-- The message that flits carry; of a header alone, the message without its contents. -/
opaque Config.rimMsg : List (List Byte) → Option Machine.Msg

/-- The key slot and the IV that a header flit names. -/
opaque Config.rimSeal : List Byte → BitVec 6 × BitVec 96

namespace Machine

/-! ### Cores as other modules know them -/

/-- A message with its core indices replaced: destination, sender and the targets of a copied block. -/
def Msg.recore (f : Nat → Nat) (m : Msg) : Msg :=
  { m with
    dst := f m.dst, src := { m.src with core := f m.src.core }
    body := match m.body with
      | .tileRead va n done one targets b => .tileRead va n done one (targets.map (fun x => { x with core := f x.core, via := x.via.map f })) b
      | .tileWrite va n done one x data b => .tileWrite va n done one { x with core := f x.core, via := x.via.map f } data b
      | .shootdown job vpn cc mv => .shootdown job vpn (f cc) (mv.map (fun x => (f x.1, x.2)))
      | .shootAck job vpn cc mv => .shootAck job vpn (f cc) (mv.map (fun x => (f x.1, x.2)))
      | .rehomeCopy job vpn old i bs bad => .rehomeCopy job vpn (f old) i bs bad
      | .entryAt p (.move h fr reply) => .entryAt p (.move h fr (reply.map (fun x => ({ x.1 with core := f x.1.core }, x.2))))
      | .entryAt p (.clearing mv) => .entryAt p (.clearing (mv.map (fun x => (f x.1, x.2))))
      | .block dst via bs coins b p => .block dst (via.map f) bs coins b p
      | .ask r => .ask (r.recore f)
      | b => b }

/-- A core index as every module knows it: 2^20 above the global core address. -/
def globalCore (s : State) (c : Nat) : Nat := if c < 2 ^ 20 then 2 ^ 20 + (s.coreId c).toNat else c

/-- And back, when the core is of this module. -/
def localCore (s : State) (c : Nat) : Nat := if c < 2 ^ 20 then c else (s.ofId (BitVec.ofNat 26 (c - 2 ^ 20))).getD c

/-- The module of a destination in another module. -/
def dstModule (d : Nat) : BitVec 8 := BitVec.ofNat 8 ((d - 2 ^ 20) / 2 ^ 18)

/-! ### Encryption (R365, R479) -/

/-- The page whose contents a message carries. -/
def Msg.contents (m : Msg) : Option (BitVec 24 × BitVec 33) :=
  match m.body with
  | .store va _ => some (m.src.job, vpnOf va)
  | .sch va _ _ => some (m.src.job, vpnOf va)
  | .rmw va _ _ _ _ => some (m.src.job, vpnOf va)
  | .tileWrite va _ _ _ _ _ _ => some (m.src.job, vpnOf va)
  | .reply _ (some h) _ => some (m.src.job, BitVec.ofNat 33 h.1)
  | .claimReply _ _ (some h) _ => some (m.src.job, BitVec.ofNat 33 h.1)
  | .grant _ (some h) _ => some (m.src.job, BitVec.ofNat 33 h.1)
  | .block _ _ _ _ _ p => p.map (fun h => (m.src.job, BitVec.ofNat 33 h.1))
  | .rehomeCopy job vpn _ _ _ _ => some (job, vpn)
  | _ => none

/-- The key slot of a page: as an entry or a vault map of this module holds it, else as the clearing module of its job does. -/
def pageKey (s : State) (p : BitVec 24 × BitVec 33) : Option (BitVec 6) :=
  match knownPage s p.1 p.2 with
  | some e => some e.key
  | none => if clearsHere s p.1 then none else Config.remoteKey (clearingMod s p.1) p.1 p.2 s.cycle

/-- The key slot that a message's payload is encrypted under: the page's, else the one that RIMCONF names. -/
def rimKey (s : State) (m : Msg) : Option (BitVec 6) :=
  match m.contents.bind (pageKey s) with
  | some k => some k
  | none => s.linkKey.map (fun k => BitVec.ofNat 6 k.val)

/-! ### Frames (Table 21.4) -/

/-- A frame but for its CRC, and with it. -/
def frameBytes (kind flags : Nat) (dmod smod : BitVec 8) (seq ack : BitVec 16) (flit : List Byte) : List Byte :=
  let b := bytesOf 1 kind ++ [dmod, smod] ++ bytesOf 1 flags ++ bytesOf 2 seq.toNat ++ bytesOf 2 ack.toNat ++ (flit ++ List.replicate 64 0).take 64
  b ++ bytesOf 8 (crc64 b).toNat

/-- The frames of a message: KIND, FLAGS and flit of each; the payload of a message with a key is encrypted, and a tag follows it. -/
def framesOf (s : State) (m : Msg) : List (Nat × Nat × List Byte) :=
  let key := rimKey s m
  let iv := key.map (fun k => (k, gcmIv s k))
  let g := m.recore (globalCore s)
  match Config.rimFlits g iv with
  | [] => []
  | hd :: rest =>
    if rest.isEmpty then [(1, 2, hd)]
    else
      match key with
      | none => (1, 0, hd) :: rest.mapIdx (fun i x => (2, if i + 1 = rest.length then 2 else 0, x))
      | some k =>
        let e := Config.gcmEncrypt (s.keys.get k.toFin).key (gcmIv s k) hd rest.flatten
        (1, 1, hd) :: (List.range rest.length).map (fun i =>
          (2, if i + 1 = rest.length then 3 else 1, (e.1.drop (64 * i)).take 64)) ++ [(3, 1, bytesOf 16 e.2.toNat)]

def State.rimLink (s : State) (l : Fin 16) : Link := s.links.get l

def State.setRimLink (s : State) (l : Fin 16) (x : Link) : State := { s with links := s.links.set l x l.isLt }

/-! ### What cannot be delivered -/

/-- The reply that tells the sender of a message of a fault; of a SEND, one that completes it. -/
def Body.failReply (b : Body) (f : FaultInfo) : Option Body :=
  match b with
  | .user _ => some (.ack none (some f))
  | .rehomeCopy job vpn _ _ _ _ => some (.moveFail job vpn f)
  | .migAsk slot _ _ _ _ _ => some (.migFail slot f)
  | .ask (.completion _) => none
  | .ask _ => some (.deferred 0 (some f))
  | _ => b.faultReply f

/-- An answer that cannot leave gives up what it had granted to a context of another module. -/
def State.ungrant (s : State) (c : Nat) (q : Req) (grant : Option (Fin 4)) : State :=
  match grant with
  | some t => if (s.slotAt c t).incoming.isSome && (s.slotAt c t).unitid == q.unit && (s.slotAt c t).launchid == q.launch then
      s.emptySlot c t else s
  | none => s.updCore c (fun k => { k with parked := k.parked.filter (fun p => !(p.launch == q.launch && p.unit == q.unit)) })

/-- A message fails at its sender (R480).  A message of a migration tells the slot that sends it; a page request with the address of a
reply is reported to the hubs (log entry 8); for a reply, a credit or an entry nobody is told. -/
def State.failMsg (s : State) (m : Msg) (cause sub : BitVec 8) : State :=
  let addr := match m.body.va, m.body with
    | some va, _ => va
    | none, .rehomeCopy _ vpn _ _ _ _ => vpnBase vpn
    | none, _ => BitVec.ofNat 64 ((m.dst - 2 ^ 20) % 2 ^ 26)
  let f : FaultInfo := ⟨cause, sub, addr⟩
  match m.body with
  | .page _ (some a) => if m.src.slot < 4 then s.post m.src.core 63 m.src (.ack none (some f)) else s.toHubs (.told 8 a)
  | .migImage _ _ _ why _ _ _ _ _ _ _ =>
    if (match why with | .preempt _ => true | _ => false) then s
    else s.post m.src.core 10 m.src (.migFail m.src.slot f)
  | .migAnswer _ grant answerer =>
    match s.ofId answerer with
    | some c => s.ungrant c m.src grant
    | none => s
  | b =>
    match b.failReply f with
    | some b => s.post m.src.core b.handler m.src b
    | none => s

/-! ### Sending -/

/-- A message as it leaves the module: a block of a copy is read and its coins are drawn (R157), and a copy message of a rehoming is
paid for and followed by the next (R356); none while the coins are not covered, and the fault when a source cannot be read. -/
def State.loadBlock (s : State) (m : Msg) : Option (State × Except FaultInfo Msg) :=
  match m.body with
  | .tileWrite va n done one x [] bar =>
    (s.chargeReq m.src (localCoins x.addr.toNat + 40 + 3 * dstHops s x.core m.dst)).map (fun t =>
      (t.sourceRead x done, (sourceBlock s x done).map (fun bs => { m with body := .tileWrite va n done one x bs bar })))
  | .rehomeCopy job vpn old index _ _ =>
    if 2 ^ 20 ≤ old then some (s, .ok m)
    else
      match (s.core old).rehomes.find? (fun r => r.job == job && r.vpn == vpn && r.step == 4) with
      | none => some (s, .ok m)
      | some r => (s.payFor old r.payer (copyCoins s old r)).map (fun t => (t.copyNext old r index, .ok m))
  | _ => some (s, .ok m)

/-- A write that carries a page's contents out of the module, with the address that a PAGEFAULT KEY names (R365). -/
def Msg.carriesOut (m : Msg) : Option Word :=
  match m.body with
  | .store va _ => some va
  | .sch va _ _ => some va
  | .rmw va _ _ _ _ => some va
  | .tileWrite va _ _ _ _ _ _ => some va
  | .rehomeCopy _ vpn _ _ _ _ => some (vpnBase vpn)
  | _ => none

/-- The contents of a message may not leave: its page's key slot holds no key granted to the job (R365), or the link key slot that its
payload goes under is empty or exhausted (R467, R479). -/
def keyMissing (s : State) (m : Msg) : Bool :=
  match m.contents.bind (pageKey s) with
  | some k => m.carriesOut.isSome && !keyUsable s k m.src.job
  | none => s.linkKey.any (fun k => (s.keys.get k).st != 1) && 1 < (framesOf s m).length

/-- What becomes of a message for another module: it fails, it waits for its link, or it goes. -/
inductive RimFate where
  | fails (cause sub : BitVec 8)
  | waits
  | goes (l : Fin 16)
deriving DecidableEq, Repr

/-- A message whose link is down fails, and one whose contents may not leave; it waits while its link trains, or while 256 frames would
be unacknowledged (R477, R480). -/
def rimFate (s : State) (m : Msg) : RimFate :=
  match s.linkTo (dstModule m.dst) with
  | none => .fails causeREMOTEREF 2
  | some n =>
    let l : Fin 16 := ⟨n % 16, Nat.mod_lt _ (by decide)⟩
    let x := s.rimLink l
    if !x.up then .fails causeREMOTEREF 2
    else if keyMissing s m then .fails causePAGEFAULT 4
    else if x.training || 256 < x.unacked.length + (framesOf s m).length then .waits
    else .goes l

/-- The oldest message for another module that can go or fails, and the messages without it: one that waits holds back those behind it
for the same link, and one whose coins are not covered has not begun. -/
def rimPick (s : State) : List (Option Nat) → List Msg → Option (Msg × List Msg)
  | _, [] => none
  | seen, m :: rest =>
    let next := fun (b : List (Option Nat)) => (rimPick s b rest).map (fun x => (x.1, m :: x.2))
    if m.dst < 2 ^ 20 then next seen
    else
      let l := s.linkTo (dstModule m.dst)
      if seen.contains l then next seen
      else if rimFate s m == .waits then next (l :: seen)
      else if (s.loadBlock m).isNone then next seen
      else some (m, rest)

/-- The module that a message comes from. -/
def Msg.fromModule (s : State) (m : Msg) : BitVec 8 := if m.src.core < 2 ^ 20 then s.modNo else dstModule m.src.core

/-- A message of another module goes onto its link, frame by frame. -/
def State.rimSend (s : State) : State :=
  match rimPick s [] s.net with
  | none => s
  | some (m0, rest) =>
    let s0 : State := { s with net := rest }
    match rimFate s m0 with
    | .waits => s
    | .fails cause sub => s0.failMsg m0 cause sub
    | .goes l =>
      match s0.loadBlock m0 with
      | none => s
      | some (t, .error f) => t.post m0.src.core 63 m0.src (.blockAck 1 (match m0.body with | .tileWrite _ _ _ _ _ _ b => b | _ => none) none (some f))
      | some (t, .ok m) =>
        let x := s.rimLink l
        let fs := framesOf s m
        let frames := fs.mapIdx (fun i f =>
          frameBytes f.1 f.2.1 (dstModule m.dst) (m.fromModule s) (x.txSeq + BitVec.ofNat 16 i) (x.rxSeq - 1) f.2.2)
        let u := t.setRimLink l { x with
          txSeq := x.txSeq + BitVec.ofNat 16 fs.length
          unacked := x.unacked ++ frames
          out := x.out ++ frames
          sent := if fs.isEmpty then x.sent else x.sent ++ [(x.txSeq + BitVec.ofNat 16 (fs.length - 1), m)] }
        match rimKey s m with
        | some k => if 1 < fs.length then u.usedKey k else u
        | none => u

/-! ### Receiving -/

def frameSeq (f : List Byte) : BitVec 16 := BitVec.ofNat 16 (natOfBytes ((f.drop 4).take 2))
def frameAck (f : List Byte) : BitVec 16 := BitVec.ofNat 16 (natOfBytes ((f.drop 6).take 2))
def frameFlit (f : List Byte) : List Byte := (f.drop 8).take 64

/-- The CRC of a frame is good. -/
def frameGood (f : List Byte) : Bool := f.length == 80 && natOfBytes (f.drop 0x48) == (crc64 (f.take 0x48)).toNat

/-- The frames after the acknowledged one; all of them when it is not among them. -/
def afterAck (a : BitVec 16) (fs : List (List Byte)) : List (List Byte) :=
  match fs.dropWhile (fun f => frameSeq f != a) with
  | [] => fs
  | _ :: rest => rest

/-- Acknowledged frames, and the messages whose last frame is one, are kept no longer. -/
def Link.acked (x : Link) (a : BitVec 16) : Link :=
  let rest := afterAck a x.unacked
  { x with unacked := rest, sent := x.sent.filter (fun y => rest.any (fun f => frameSeq f == y.1)) }

/-- A message from another module shows the clearing module of a job that is not open here: news for a page's home comes from it, and the
first request of a job of which nothing is known is taken to come from it (R341; log entry 8). -/
def State.learn (s : State) (m : Msg) : State :=
  let put := fun (job : BitVec 24) => s.learnJob job (dstModule m.src.core)
  let ours := fun (job : BitVec 24) => job == 0 || (jobOf s job).isSome
  if m.src.core < 2 ^ 20 then s
  else
    match m.body with
    | .entryAt _ (.clearing _) => s
    | .entryAt p _ => if ours p.job then s else put p.job
    | b => if b.va.isNone || ours m.src.job || (Tab.find s.abroad m.src.job.toNat).isSome then s else put m.src.job

/-- A whole message arrives at the edge router: it goes on in the mesh, or over the next link; a request to this
module's root joins its queue (R481), and a message for a core that is not active here fails at its sender. -/
def State.rimArrive (s : State) (m : Msg) : State :=
  let n := m.recore (localCore s)
  let s := s.learn n
  match n.body, decide (n.dst < 2 ^ 20) || dstModule n.dst == s.modNo with
  | .ask r, true => s.toRoot r
  | _, _ =>
    if 2 ^ 20 ≤ n.dst && dstModule n.dst == s.modNo then s.failMsg n causeREMOTEREF 2
    else { s with net := s.net ++ [n] }

/-- The frames of a received message, with KIND and FLAGS, make a message; a bad tag discards it (R468, R479). -/
def State.rimWhole (s : State) (fs : List (List Byte)) : State :=
  match fs with
  | [] => s
  | hd :: rest =>
    if (hd.getD 3 0).getLsbD 0 then
      let sl := Config.rimSeal (frameFlit hd)
      let cipher := (rest.filter (fun f => f.getD 0 0 == 2)).flatMap frameFlit
      let tag : BitVec 128 := BitVec.ofNat 128 (natOfBytes (((rest.filter (fun f => f.getD 0 0 == 3)).flatMap frameFlit).take 16))
      let k := s.keys.get sl.1.toFin
      let plain := if k.st == 1 || k.st == 2 then Config.gcmDecrypt k.key sl.2 (frameFlit hd) cipher tag else none
      match plain with
      | some bs =>
        match Config.rimMsg (frameFlit hd :: (List.range (bs.length / 64)).map (fun i => (bs.drop (64 * i)).take 64)) with
        | some m => s.rimArrive m
        | none => s
      | none =>
        let t := s.toHubs (.told 5 (sl.1.zeroExtend 64))
        match Config.rimMsg [frameFlit hd] with
        | some m => t.failMsg (m.recore (localCore s)) causeUNCORR 0
        | none => t
    else
      match Config.rimMsg ((hd :: rest).map frameFlit) with
      | some m => s.rimArrive m
      | none => s

/-- The last frame of a message: the tag of an encrypted one, else the one whose flag says so. -/
def frameEnds (f : List Byte) : Bool :=
  f.getD 0 0 == 3 || ((f.getD 3 0).getLsbD 1 && !(f.getD 3 0).getLsbD 0)

/-- A frame with the acknowledgement of the present moment. -/
def Link.fresh (x : Link) (f : List Byte) : List Byte :=
  let b := f.take 6 ++ bytesOf 2 (x.rxSeq - 1).toNat ++ (f.drop 8).take 64
  b ++ bytesOf 8 (crc64 b).toNat

/-- The unacknowledged frames go out again, from the first that the far side lacks (R477). -/
def Link.resend (x : Link) : Link := { x with out := x.out ++ x.unacked.map x.fresh }

/-- An idle frame carries the acknowledgement back (log entry 8). -/
def Link.idle (x : Link) (dmod smod : BitVec 8) : Link := { x with out := x.out ++ [frameBytes 0 0 dmod smod x.txSeq (x.rxSeq - 1) []] }

/-- A frame arrives on a link: a bad CRC or a gap in SEQ makes the receiver discard until the first missing frame comes again; idle and
training frames carry an acknowledgement and no number.  Each numbered or bad frame is answered by an idle frame, and an idle frame that
acknowledges nothing new has the unacknowledged frames sent again (R477; log entry 8). -/
def State.rimFrame (s : State) (l : Fin 16) (f : List Byte) : State :=
  let x := s.rimLink l
  let kind := (f.getD 0 0).toNat
  let told := fun (y : Link) => y.idle (x.far.getD 0) s.modNo
  if !x.up then s
  else if !frameGood f then s.setRimLink l (told { x with discarding := true })
  else if 4 < kind then s
  else
    let y := x.acked (frameAck f)
    if kind = 0 then s.setRimLink l (if y.unacked == x.unacked && !x.unacked.isEmpty then y.resend else y)
    else if kind = 4 then s.setRimLink l { y with training := true }
    else if frameSeq f != x.rxSeq then s.setRimLink l (told { y with discarding := true })
    else
      let fs := y.rx ++ [f]
      let z := told { y with rxSeq := x.rxSeq + 1, discarding := false, rx := if frameEnds f then [] else fs }
      if frameEnds f then (s.setRimLink l z).rimWhole fs else s.setRimLink l z

/-- RIM_FRAME. -/
def execRimFrame (l : Fin 16) (frame : List (BitVec 8)) (s : State) : Res := .next (s.rimFrame l frame)

/-! ### Links that fail (R480) -/

/-- The messages in the mesh whose route uses a link. -/
def routedBy (s : State) (l : Fin 16) (m : Msg) : Bool := 2 ^ 20 ≤ m.dst && s.linkTo (dstModule m.dst) == some l.val

/-- Slots that wait for a destination behind a link, or send to it, run on where they are. -/
def State.failMigs (s : State) (l : Fin 16) : State :=
  s.coreList.foldl (fun t c => (List.finRange 4).foldl (fun u i =>
    match (u.slotAt c i).leaving with
    | some v =>
      let d := u.dstOf v.dest
      if 2 ≤ v.stage && 2 ^ 20 ≤ d && u.linkTo (dstModule d) == some l.val then
        u.migFailed c i ⟨causeREMOTEREF, 2, v.dest.zeroExtend 64⟩
      else u
    | none => u) t) s

/-- RIM_LINK_DOWN: the link is taken down, its messages complete at their senders, and both hubs get a RIMDOWN record. -/
def State.rimLinkDown (s : State) (l : Fin 16) : State :=
  let x := s.rimLink l
  if !x.up then s
  else
    let out := x.sent.map (fun y => y.2) ++ s.net.filter (routedBy s l)
    let t := ({ s with net := s.net.filter (fun m => !routedBy s l m) } : State).setRimLink l { Link.reset with far := x.far }
    ((out.foldl (fun u m => u.failMsg m causeREMOTEREF 2) t).failMigs l).event (linkCore l.val) 0x0F 0 0 (BitVec.ofNat 64 l.val)

def execRimLinkDown (l : Fin 16) (s : State) : Res := .next (s.rimLinkDown l)

/-- RIM_LINK_RETRAIN: a link that is up carries frames again, from the first that the far side lacks. -/
def State.rimLinkRetrain (s : State) (l : Fin 16) : State :=
  if (s.rimLink l).up then s.setRimLink l ({ s.rimLink l with training := false } : Link).resend else s

def execRimLinkRetrain (l : Fin 16) (s : State) : Res := .next (s.rimLinkRetrain l)

end Machine

end Sys2Proof
end

