-- ==== Sys2Proof/Machine/Rmem.lean ====
section
/-!
DEFINITION. RLD, RSTR, VRLD, VRST, RFA, RCAS, LRW and SCH as they issue (06_memory_messages.md, R176 to R179).
-/
namespace Sys2Proof.Machine

/-- The access size of a size code b, h, w, d. -/
def remSize (z : BitVec 2) : Nat := 2 ^ z.toNat

def execRld (d a : BitVec 5) (o z : BitVec 2) (s : State) : Res :=
  let n := remSize z
  remoteOp s (.rld d a o z) (s.g a) n n false 2 0 (.marked n false) (destG d) (.load (s.g a) n)

def execRstr (d a : BitVec 5) (o z : BitVec 2) (s : State) : Res :=
  let n := remSize z
  remoteOp s (.rstr d a o z) (s.g a) n n (orderRel o) 2 1 .write .none (.store (s.g a) (bytesOf n (s.g d).toNat))

def execVrld (d a : BitVec 5) (o : BitVec 2) (s : State) : Res :=
  remoteOp s (.vrld d a o) (s.g a) 64 1 false 3 0 (.marked 64 false) (.v d) (.load (s.g a) 64)

def execVrst (d a : BitVec 5) (o : BitVec 2) (s : State) : Res :=
  remoteOp s (.vrst d a o) (s.g a) 64 1 (orderRel o) 3 1 .write .none (.store (s.g a) (rowBytes (s.v d)))

/-- RFA and RCAS (R178). -/
def remoteRmw (op : RmwOp) (d a b : BitVec 5) (o : BitVec 2) (z : BitVec 1) (i : Instr) (s : State) : Res :=
  let n := rmwSize z
  remoteOp s i (s.g a) n n (orderRel o) 2 2 (.rmw n (z = 0)) (destG d) (.rmw (s.g a) (z = 1) op (s.g b) (s.g d))

def execRfaAdd (d a b : BitVec 5) (o : BitVec 2) (z : BitVec 1) (s : State) : Res := remoteRmw .add d a b o z (.rfaAdd d a b o z) s
def execRfaAnd (d a b : BitVec 5) (o : BitVec 2) (z : BitVec 1) (s : State) : Res := remoteRmw .and d a b o z (.rfaAnd d a b o z) s
def execRfaOr (d a b : BitVec 5) (o : BitVec 2) (z : BitVec 1) (s : State) : Res := remoteRmw .or d a b o z (.rfaOr d a b o z) s
def execRfaXor (d a b : BitVec 5) (o : BitVec 2) (z : BitVec 1) (s : State) : Res := remoteRmw .xor d a b o z (.rfaXor d a b o z) s
def execRfaMin (d a b : BitVec 5) (o : BitVec 2) (z : BitVec 1) (s : State) : Res := remoteRmw .min d a b o z (.rfaMin d a b o z) s
def execRfaMax (d a b : BitVec 5) (o : BitVec 2) (z : BitVec 1) (s : State) : Res := remoteRmw .max d a b o z (.rfaMax d a b o z) s
def execRfaMinu (d a b : BitVec 5) (o : BitVec 2) (z : BitVec 1) (s : State) : Res := remoteRmw .minu d a b o z (.rfaMinu d a b o z) s
def execRfaMaxu (d a b : BitVec 5) (o : BitVec 2) (z : BitVec 1) (s : State) : Res := remoteRmw .maxu d a b o z (.rfaMaxu d a b o z) s
def execRfaSwap (d a b : BitVec 5) (o : BitVec 2) (z : BitVec 1) (s : State) : Res := remoteRmw .swap d a b o z (.rfaSwap d a b o z) s
/-- The expected value is the old g[d], as for CAS. -/
def execRcas (d a b : BitVec 5) (o : BitVec 2) (z : BitVec 1) (s : State) : Res := remoteRmw .cas d a b o z (.rcas d a b o z) s

/-- LRW (R179): the slot is parked until it is granted. -/
def execLrw (d a : BitVec 5) (z : BitVec 1) (s : State) : Res :=
  let n := rmwSize z
  match remoteOp s (.lrw d a z) (s.g a) n n false 2 3 (.marked n (z = 0)) (destG d) (.lrw (s.g a) (z = 1)) with
  | .next t => .next (if t.here.nextOp = s.here.nextOp then t else t.updSlot (fun l => { l with lrw := some (s.g a) }))
  | r => r

/-- SCH (R179): a release that writes at the home and passes the reservation on. -/
def execSch (a b : BitVec 5) (z : BitVec 1) (s : State) : Res :=
  let n := rmwSize z
  remoteOp s (.sch a b z) (s.g a) n n true 2 3 .write .none (.sch (s.g a) (z = 1) (s.g b))

end Sys2Proof.Machine
end

