-- ==== Sys2Proof/Machine/Valu.lean ====
section
/-!
DEFINITION. Integer lanes (05_vector.md, R137, Tables 5.1 and 5.3).
-/
namespace Sys2Proof.Machine

/-- A signed value limited to w bits. -/
def clampInt (w : Nat) (x : Int) : Int :=
  if x < intLo w true then intLo w true else if intHi w true < x then intHi w true else x

/-- One integer operation on each active element; `f` takes the width 8e and the elements, and its result is taken modulo
2^(8e). -/
def vInt (s : State) (d a b : BitVec 5) (m : BitVec 3) (q e : BitVec 2) (f : Nat → Nat → Nat → Nat) : Res :=
  let z := intSize e
  vecFinish s 6 q a b (fun x y p =>
    p.setV d (mergeLanes z (s.m m) (s.v d) (fun i => f (8 * z) (lane z x i) (lane z y i))))

def execVadd (d a b : BitVec 5) (m : BitVec 3) (q e : BitVec 2) (s : State) : Res :=
  vInt s d a b m q e (fun _ x y => x + y)
def execVsub (d a b : BitVec 5) (m : BitVec 3) (q e : BitVec 2) (s : State) : Res :=
  vInt s d a b m q e (fun w x y => x + 2 ^ w - y)
def execVmul (d a b : BitVec 5) (m : BitVec 3) (q e : BitVec 2) (s : State) : Res :=
  vInt s d a b m q e (fun _ x y => x * y)
def execVmulh (d a b : BitVec 5) (m : BitVec 3) (q e : BitVec 2) (s : State) : Res :=
  vInt s d a b m q e (fun w x y => intBits w (signedOf w x * signedOf w y / 2 ^ w))
def execVmin (d a b : BitVec 5) (m : BitVec 3) (q e : BitVec 2) (s : State) : Res :=
  vInt s d a b m q e (fun w x y => if signedOf w y < signedOf w x then y else x)
def execVmax (d a b : BitVec 5) (m : BitVec 3) (q e : BitVec 2) (s : State) : Res :=
  vInt s d a b m q e (fun w x y => if signedOf w x < signedOf w y then y else x)
def execVminu (d a b : BitVec 5) (m : BitVec 3) (q e : BitVec 2) (s : State) : Res :=
  vInt s d a b m q e (fun _ x y => min x y)
def execVmaxu (d a b : BitVec 5) (m : BitVec 3) (q e : BitVec 2) (s : State) : Res :=
  vInt s d a b m q e (fun _ x y => max x y)
def execVand (d a b : BitVec 5) (m : BitVec 3) (q e : BitVec 2) (s : State) : Res :=
  vInt s d a b m q e (fun _ x y => x &&& y)
def execVor (d a b : BitVec 5) (m : BitVec 3) (q e : BitVec 2) (s : State) : Res :=
  vInt s d a b m q e (fun _ x y => x ||| y)
def execVxor (d a b : BitVec 5) (m : BitVec 3) (q e : BitVec 2) (s : State) : Res :=
  vInt s d a b m q e (fun _ x y => x ^^^ y)
def execVsll (d a b : BitVec 5) (m : BitVec 3) (q e : BitVec 2) (s : State) : Res :=
  vInt s d a b m q e (fun w x y => x <<< (y % w))
def execVsrl (d a b : BitVec 5) (m : BitVec 3) (q e : BitVec 2) (s : State) : Res :=
  vInt s d a b m q e (fun w x y => x >>> (y % w))
def execVsra (d a b : BitVec 5) (m : BitVec 3) (q e : BitVec 2) (s : State) : Res :=
  vInt s d a b m q e (fun w x y => intBits w (signedOf w x >>> (y % w)))
def execVabsd (d a b : BitVec 5) (m : BitVec 3) (q e : BitVec 2) (s : State) : Res :=
  vInt s d a b m q e (fun w x y => (signedOf w x - signedOf w y).natAbs)
def execVadds (d a b : BitVec 5) (m : BitVec 3) (q e : BitVec 2) (s : State) : Res :=
  vInt s d a b m q e (fun w x y => intBits w (clampInt w (signedOf w x + signedOf w y)))

end Sys2Proof.Machine
end

