-- ==== Sys2Proof/Machine/Vls.lean ====
section
/-!
DEFINITION. Vector loads and stores (06_memory_messages.md, R161, R162, Tables 6.2 and 6.4).
-/
namespace Sys2Proof.Machine

/-- The active elements of a VLS instruction: index and address. -/
def vlsElems (mask : Word) (z : Nat) (addr : Nat → Word) : List (Nat × Word) :=
  ((List.range (64 / z)).filter (fun i => active mask z i)).map (fun i => (i, addr i))

/-- The lowest address among stops of checks 1 to 5; a remote page traps REMOTEREF, for the family never migrates. -/
def lowestTrap (rs : List (Word × Except Stop Loc)) : Option Stop :=
  let ts := rs.filterMap (fun r =>
    match r.2 with
    | .error (.trap c sub v) => some (r.1, Stop.trap c sub v)
    | .error (.remote v) => some (r.1, Stop.trap causeREMOTEREF 0 v)
    | _ => none)
  match ts with
  | [] => none
  | t :: rest => some (rest.foldl (fun a b => if b.1.toNat < a.1.toNat then b else a) t).2

/-- The stops that are not traps of checks 1 to 5, the waits before the rest. -/
def laterStop (rs : List (Word × Except Stop Loc)) : Option Stop :=
  let es := rs.filterMap (fun r => match r.2 with | .error e => some (r.1, e) | .ok _ => none)
  match es.find? (fun e => e.2 == .wait) with
  | some e => some e.2
  | none =>
    match es.filter (fun e => match e.2 with | .uncorr _ _ => true | _ => false) with
    | e :: rest => some (rest.foldl (fun a b => if b.1.toNat < a.1.toNat then b else a) e).2
    | [] => (es.head?).map (fun e => e.2)

/-- The distinct 64-byte blocks of some places, in order of first touch. -/
def blocksOf (ls : List Loc) : List Loc :=
  (ls.foldl (fun a l => if a.any (fun x => x.key / 64 == l.key / 64) then a else l :: a) []).reverse

/-- The coins of a VLS instruction: 4, 6 or 40 for each block, and 250 for each row that is not open (Table 6.2). -/
def blockCoins (ls : List Loc) : Nat :=
  let bs := blocksOf ls
  let rows := bs.foldl (fun a l => match l.act with | some r => if a.contains r then a else r :: a | none => a) []
  bs.foldl (fun a l => a + (match l.space with | 0 => 4 | 1 => 6 | 2 => 40)) 0 + 250 * rows.length

/-- All-or-nothing (R162): every element is checked before any byte moves. -/
def vls (s : State) (z n : Nat) (acc : Acc) (es : List (Nat × Word)) (k : List (Nat × Loc) → State → State) : Res :=
  let rs := es.map (fun e => (e.2, access s e.2 n z acc))
  match lowestTrap rs with
  | some e => stopped s e
  | none =>
    match laterStop rs with
    | some e => stopped s e
    | none =>
      let ls := (es.zip rs).filterMap (fun x => match x.2.2 with | .ok l => some (x.1.1, l) | .error _ => none)
      let bs := blocksOf (ls.map (fun l => l.2))
      paying s (blockCoins bs) (fun p =>
        let q := bs.foldl (fun q l => q.openRow s.curCore l.act) p
        let q' := if acc.reads then bs.foldl (fun q l => q.corrected (l.key / 64 * 64)) q else q
        .next ((k ls q').retire s))

/-- A load of elements under a merging mask. -/
def vLoad (s : State) (d : BitVec 5) (m : BitVec 3) (z : Nat) (addr : Nat → Word) : Res :=
  vls s z z .read (vlsElems (s.m m) z addr) (fun ls p =>
    let x := mergeLanes z (s.m m) (s.v d) (fun i =>
      match ls.find? (fun l => l.1 == i) with
      | some l => s.mem.readNat l.2.key z
      | none => 0)
    let out := (vlsElems (s.m m) z addr).any (fun e => !s.inLease e.2 z)
    (if out then p.logged 2 (rowBytes x) else p).setV d x)

/-- A store of the active elements of v[d], in ascending i.  Where it writes whole aligned blocks they are sound
afterwards (R428). -/
def vStore (s : State) (d : BitVec 5) (m : BitVec 3) (z : Nat) (addr : Nat → Word) : Res :=
  let es := vlsElems (s.m m) z addr
  let whole := es.length == 64 / z && (addr 0).toNat % 64 == 0 &&
    (List.range (64 / z)).all (fun i => addr i == addr 0 + BitVec.ofNat 64 (i * z))
  vls s z (if whole then 64 else z) .write es (fun ls p =>
    let q := ls.foldl (fun q l => { q with mem := q.mem.writeNat l.2.key z (lane z (s.v d) l.1) }) p
    if whole then (ls.head?.map (fun l => q.sound (l.2.key / 64 * 64))).getD q else q)

def execLdv (d a : BitVec 5) (m : BitVec 3) (e : BitVec 2) (s : State) : Res :=
  vLoad s d m (intSize e) (fun i => s.g a + BitVec.ofNat 64 (i * intSize e))
def execStv (d a : BitVec 5) (m : BitVec 3) (e : BitVec 2) (s : State) : Res :=
  vStore s d m (intSize e) (fun i => s.g a + BitVec.ofNat 64 (i * intSize e))
def execLdvs (d a b : BitVec 5) (m : BitVec 3) (e : BitVec 2) (s : State) : Res :=
  vLoad s d m (intSize e) (fun i => s.g a + BitVec.ofNat 64 i * s.g b)
def execStvs (d a b : BitVec 5) (m : BitVec 3) (e : BitVec 2) (s : State) : Res :=
  vStore s d m (intSize e) (fun i => s.g a + BitVec.ofNat 64 i * s.g b)
/-- Element i of LDVX and STVX: g[a] plus the signed element i of v[b]. -/
def vlsIndex (s : State) (a b : BitVec 5) (z i : Nat) : Word :=
  s.g a + BitVec.ofInt 64 (signedOf (8 * z) (lane z (s.v b) i))
def execLdvx (d a b : BitVec 5) (m : BitVec 3) (e : BitVec 2) (s : State) : Res :=
  vLoad s d m (intSize e) (vlsIndex s a b (intSize e))
def execStvx (d a b : BitVec 5) (m : BitVec 3) (e : BitVec 2) (s : State) : Res :=
  vStore s d m (intSize e) (vlsIndex s a b (intSize e))
/-- e bytes at g[a] written to every element. -/
def execLdvb (d a : BitVec 5) (e : BitVec 2) (s : State) : Res :=
  let z := intSize e
  vls s z z .read [(0, s.g a)] (fun ls p =>
    let x := packLanes z (List.replicate (64 / z) ((ls.head?.map (fun l => s.mem.readNat l.2.key z)).getD 0))
    (p.loggedRead (s.g a) z (rowBytes x)).setV d x)

end Sys2Proof.Machine
end

