-- ==== Sys2Proof/Machine/Vmask.lean ====
section
/-!
DEFINITION. Compares and mask logic (05_vector.md, R147, R148, Table 5.9).
-/
namespace Sys2Proof.Machine

/-- An integer compare into the bits of m[d]. -/
def vCmp (s : State) (d : BitVec 3) (a b : BitVec 5) (m : BitVec 3) (q e : BitVec 2) (f : Nat → Nat → Nat → Bool) : Res :=
  let z := intSize e
  vecFinish s 6 q a b (fun x y p =>
    p.setM d (maskBits z (s.m m) (s.m d) (fun i => f (8 * z) (lane z x i) (lane z y i))))

/-- A floating-point compare, with the flags of its active elements; `c` is the relation as FCMP codes it. -/
def vFcmp (s : State) (d : BitVec 3) (a b : BitVec 5) (m : BitVec 3) (q e : BitVec 2) (c : Nat) : Res :=
  let z := fltSize e
  vecFinish s 6 q a b (fun x y p =>
    let f := fun i => fCmp (ewFmt e) c (lane z x i) (lane z y i)
    let fl := ((List.range (64 / z)).filter (fun i => active (s.m m) z i)).foldl (fun acc i => acc ||| (f i).2) flNone
    (p.setM d (maskBits z (s.m m) (s.m d) (fun i => (f i).1))).raise fl)

/-- Mask logic on all 64 bits, two coins. -/
def mOp (s : State) (d : BitVec 3) (x : Word) : Res := finish s 2 (fun p => p.setM d x)

def execVcmpeq (d : BitVec 3) (a b : BitVec 5) (m : BitVec 3) (q e : BitVec 2) (s : State) : Res :=
  vCmp s d a b m q e (fun _ x y => x == y)
def execVcmpne (d : BitVec 3) (a b : BitVec 5) (m : BitVec 3) (q e : BitVec 2) (s : State) : Res :=
  vCmp s d a b m q e (fun _ x y => x != y)
def execVcmplt (d : BitVec 3) (a b : BitVec 5) (m : BitVec 3) (q e : BitVec 2) (s : State) : Res :=
  vCmp s d a b m q e (fun w x y => signedOf w x < signedOf w y)
def execVcmple (d : BitVec 3) (a b : BitVec 5) (m : BitVec 3) (q e : BitVec 2) (s : State) : Res :=
  vCmp s d a b m q e (fun w x y => signedOf w x ≤ signedOf w y)
def execVcmpltu (d : BitVec 3) (a b : BitVec 5) (m : BitVec 3) (q e : BitVec 2) (s : State) : Res :=
  vCmp s d a b m q e (fun _ x y => x < y)
def execVcmpleu (d : BitVec 3) (a b : BitVec 5) (m : BitVec 3) (q e : BitVec 2) (s : State) : Res :=
  vCmp s d a b m q e (fun _ x y => x ≤ y)
def execVfcmpeq (d : BitVec 3) (a b : BitVec 5) (m : BitVec 3) (q e : BitVec 2) (s : State) : Res := vFcmp s d a b m q e 0
def execVfcmplt (d : BitVec 3) (a b : BitVec 5) (m : BitVec 3) (q e : BitVec 2) (s : State) : Res := vFcmp s d a b m q e 1
def execVfcmple (d : BitVec 3) (a b : BitVec 5) (m : BitVec 3) (q e : BitVec 2) (s : State) : Res := vFcmp s d a b m q e 2
def execVfcmpun (d : BitVec 3) (a b : BitVec 5) (m : BitVec 3) (q e : BitVec 2) (s : State) : Res := vFcmp s d a b m q e 3
def execMand (d a b : BitVec 3) (s : State) : Res := mOp s d (s.m a &&& s.m b)
def execMor (d a b : BitVec 3) (s : State) : Res := mOp s d (s.m a ||| s.m b)
def execMxor (d a b : BitVec 3) (s : State) : Res := mOp s d (s.m a ^^^ s.m b)
def execMnot (d a : BitVec 3) (s : State) : Res := mOp s d (~~~(s.m a))

end Sys2Proof.Machine
end

