-- ==== Sys2Proof/Machine/Vmath.lean ====
section
/-!
DEFINITION. Transcendental functions (05_vector.md, R146, Table 5.8; 02_numbers.md, R73 to R75).
-/
namespace Sys2Proof.Machine

/-- One function on each active element, 40 coins. -/
def vMath (s : State) (d a : BitVec 5) (m : BitVec 3) (q e : BitVec 2) (fn : MathFn) : Res :=
  vFlt s 40 40 d a 0 m q e (fun f _ x _ _ => mathOp f fn x)

def execVexp2 (d a : BitVec 5) (m : BitVec 3) (q e : BitVec 2) (s : State) : Res := vMath s d a m q e .exp2
def execVlog2 (d a : BitVec 5) (m : BitVec 3) (q e : BitVec 2) (s : State) : Res := vMath s d a m q e .log2
def execVexp (d a : BitVec 5) (m : BitVec 3) (q e : BitVec 2) (s : State) : Res := vMath s d a m q e .exp
def execVlog (d a : BitVec 5) (m : BitVec 3) (q e : BitVec 2) (s : State) : Res := vMath s d a m q e .log
def execVsin (d a : BitVec 5) (m : BitVec 3) (q e : BitVec 2) (s : State) : Res := vMath s d a m q e .sin
def execVcos (d a : BitVec 5) (m : BitVec 3) (q e : BitVec 2) (s : State) : Res := vMath s d a m q e .cos
def execVtanh (d a : BitVec 5) (m : BitVec 3) (q e : BitVec 2) (s : State) : Res := vMath s d a m q e .tanh
def execVsigm (d a : BitVec 5) (m : BitVec 3) (q e : BitVec 2) (s : State) : Res := vMath s d a m q e .sigm
def execVerf (d a : BitVec 5) (m : BitVec 3) (q e : BitVec 2) (s : State) : Res := vMath s d a m q e .erf
def execVrcp (d a : BitVec 5) (m : BitVec 3) (q e : BitVec 2) (s : State) : Res := vMath s d a m q e .rcp
def execVrsqrt (d a : BitVec 5) (m : BitVec 3) (q e : BitVec 2) (s : State) : Res := vMath s d a m q e .rsqrt

end Sys2Proof.Machine
end

