-- ==== Sys2Proof/Machine/Vperm.lean ====
section
/-!
DEFINITION. Permutes, mask moves and lent register banks (05_vector.md, R143, R149 to R152, Table 5.6).
-/
namespace Sys2Proof.Machine

/-- A permute under a merging mask: `f` takes the element size, the count n and the index. -/
def vPerm (s : State) (d a b : BitVec 5) (m : BitVec 3) (q e : BitVec 2) (f : Nat → Nat → Row → Row → Nat → Nat) : Res :=
  let z := intSize e
  vecFinish s 6 q a b (fun x y p => p.setV d (mergeLanes z (s.m m) (s.v d) (f z (64 / z) x y)))

def execVbcast (d a : BitVec 5) (m : BitVec 3) (e : BitVec 2) (s : State) : Res :=
  vPerm s d 0 0 m 0 e (fun _ _ _ _ _ => (s.g a).toNat)
def execVext (d a b : BitVec 5) (q e : BitVec 2) (s : State) : Res :=
  let z := intSize e
  vecFinish s 6 q a 0 (fun x _ p => p.setG d (if (s.g b).toNat < 64 / z then BitVec.ofNat 64 (lane z x (s.g b).toNat) else 0))
def execVins (d a b : BitVec 5) (e : BitVec 2) (s : State) : Res :=
  vPerm s d 0 0 0 0 e (fun z _ _ _ i => if (s.g b).toNat = i then (s.g a).toNat else lane z (s.v d) i)
def execVperm (d a b : BitVec 5) (m : BitVec 3) (q e : BitVec 2) (s : State) : Res :=
  vPerm s d a b m q e (fun z n x y i => if lane z y i < n then lane z x (lane z y i) else 0)
def execVslideu (d a b : BitVec 5) (m : BitVec 3) (q e : BitVec 2) (s : State) : Res :=
  vPerm s d a 0 m q e (fun z _ x _ i => if (s.g b).toNat ≤ i then lane z x (i - (s.g b).toNat) else 0)
def execVslided (d a b : BitVec 5) (m : BitVec 3) (q e : BitVec 2) (s : State) : Res :=
  vPerm s d a 0 m q e (fun z n x _ i => if i + (s.g b).toNat < n then lane z x (i + (s.g b).toNat) else 0)
def execVzip (d a b : BitVec 5) (m : BitVec 3) (q e : BitVec 2) (s : State) : Res :=
  vPerm s d a b m q e (fun z _ x y i => lane z (if i % 2 = 0 then x else y) (i / 2))
def execVunzip (d a b : BitVec 5) (m : BitVec 3) (q e : BitVec 2) (s : State) : Res :=
  vPerm s d a b m q e (fun z n x y i => if i < n / 2 then lane z x (2 * i) else lane z y (2 * (i - n / 2)))
/-- The mask register selects and does not merge. -/
def execVmerge (d a b : BitVec 5) (m : BitVec 3) (q e : BitVec 2) (s : State) : Res :=
  vPerm s d a b 0 q e (fun z _ x y i => lane z (if active (s.m m) z i then x else y) i)
def execMpopc (d : BitVec 5) (m : BitVec 3) (e : BitVec 2) (s : State) : Res :=
  let z := intSize e
  putG s d (BitVec.ofNat 64 ((List.range (64 / z)).filter (fun i => active (s.m m) z i)).length)
def execMfirst (d : BitVec 5) (m : BitVec 3) (e : BitVec 2) (s : State) : Res :=
  let z := intSize e
  putG s d (BitVec.ofNat 64 (((List.range (64 / z)).find? (fun i => active (s.m m) z i)).getD (64 / z)))
def execMset (d : BitVec 3) (a : BitVec 5) (s : State) : Res := finish s 2 (fun p => p.setM d (s.g a))

/-! ### Lent banks -/

/-- The lender's slot and register of row r of bank b (R149). -/
def lentReg (b : Nat) (r : BitVec 3) : Fin 4 × BitVec 5 :=
  (⟨b / 4 % 4, Nat.mod_lt _ (by decide)⟩, BitVec.ofNat 5 (8 * (b % 4) + r.toNat))

/-- VXCH (R150): the lender's row and v[d] exchanged, six coins of the borrower. -/
def execVxch (d : BitVec 5) (n : BitVec 6) (r : BitVec 3) (s : State) : Res :=
  if s.isTeller then illegal s (.vxch d n r)
  else
    match lenderOf s.here (n.toNat / 16) with
    | none => trapped s causeLOCALBOUND 1 (n.zeroExtend 64)
    | some l =>
      let w := lentReg (n.toNat % 16) r
      let old := (s.slotAt l w.1).ctx.v.get w.2.toFin
      finish s 6 (fun p =>
        ((p.logged 2 (rowBytes old)).updSlotAt l w.1 (fun x => { x with ctx := { x.ctx with v := x.ctx.v.set w.2.toNat (s.v d) w.2.isLt } })).setV d old)

/-- LWIN (R151). -/
def execLwin (d : BitVec 5) (s : State) : Res :=
  if s.isTeller then illegal s (.lwin d) else
    let x := (winMask s.here).zeroExtend 64
    finish s 2 (fun p => (p.logged 5 (bytesOf 8 x.toNat)).setG d x)

end Sys2Proof.Machine
end

