-- ==== Sys2Proof/Machine/Dispatch.lean ====
section
/-!
DEFINITION. The one dispatch: what each instruction and machine step does, one arm per constructor of `Instr`.
-/
namespace Sys2Proof.Machine

/-- The meaning of an instruction or machine step in a state. -/
def exec (i : Instr) (s : State) : Host.Outcome State Fault Refusal :=
  match i with
  | .add a1 a2 a3 => Sys2Proof.Machine.execAdd a1 a2 a3 s
  | .sub a1 a2 a3 => Sys2Proof.Machine.execSub a1 a2 a3 s
  | .and a1 a2 a3 => Sys2Proof.Machine.execAnd a1 a2 a3 s
  | .or a1 a2 a3 => Sys2Proof.Machine.execOr a1 a2 a3 s
  | .xor a1 a2 a3 => Sys2Proof.Machine.execXor a1 a2 a3 s
  | .andn a1 a2 a3 => Sys2Proof.Machine.execAndn a1 a2 a3 s
  | .sll a1 a2 a3 => Sys2Proof.Machine.execSll a1 a2 a3 s
  | .srl a1 a2 a3 => Sys2Proof.Machine.execSrl a1 a2 a3 s
  | .sra a1 a2 a3 => Sys2Proof.Machine.execSra a1 a2 a3 s
  | .rotr a1 a2 a3 => Sys2Proof.Machine.execRotr a1 a2 a3 s
  | .slt a1 a2 a3 => Sys2Proof.Machine.execSlt a1 a2 a3 s
  | .sltu a1 a2 a3 => Sys2Proof.Machine.execSltu a1 a2 a3 s
  | .min a1 a2 a3 => Sys2Proof.Machine.execMin a1 a2 a3 s
  | .max a1 a2 a3 => Sys2Proof.Machine.execMax a1 a2 a3 s
  | .minu a1 a2 a3 => Sys2Proof.Machine.execMinu a1 a2 a3 s
  | .maxu a1 a2 a3 => Sys2Proof.Machine.execMaxu a1 a2 a3 s
  | .mul a1 a2 a3 => Sys2Proof.Machine.execMul a1 a2 a3 s
  | .mulh a1 a2 a3 => Sys2Proof.Machine.execMulh a1 a2 a3 s
  | .mulhu a1 a2 a3 => Sys2Proof.Machine.execMulhu a1 a2 a3 s
  | .div a1 a2 a3 => Sys2Proof.Machine.execDiv a1 a2 a3 s
  | .divu a1 a2 a3 => Sys2Proof.Machine.execDivu a1 a2 a3 s
  | .rem a1 a2 a3 => Sys2Proof.Machine.execRem a1 a2 a3 s
  | .remu a1 a2 a3 => Sys2Proof.Machine.execRemu a1 a2 a3 s
  | .clz a1 a2 => Sys2Proof.Machine.execClz a1 a2 s
  | .ctz a1 a2 => Sys2Proof.Machine.execCtz a1 a2 s
  | .popc a1 a2 => Sys2Proof.Machine.execPopc a1 a2 s
  | .bswap a1 a2 => Sys2Proof.Machine.execBswap a1 a2 s
  | .sel a1 a2 a3 => Sys2Proof.Machine.execSel a1 a2 a3 s
  | .shadd a1 a2 a3 a4 => Sys2Proof.Machine.execShadd a1 a2 a3 a4 s
  | .extu a1 a2 a3 => Sys2Proof.Machine.execExtu a1 a2 a3 s
  | .exts a1 a2 a3 => Sys2Proof.Machine.execExts a1 a2 a3 s
  | .insf a1 a2 a3 => Sys2Proof.Machine.execInsf a1 a2 a3 s
  | .addi a1 a2 a3 => Sys2Proof.Machine.execAddi a1 a2 a3 s
  | .andi a1 a2 a3 => Sys2Proof.Machine.execAndi a1 a2 a3 s
  | .ori a1 a2 a3 => Sys2Proof.Machine.execOri a1 a2 a3 s
  | .xori a1 a2 a3 => Sys2Proof.Machine.execXori a1 a2 a3 s
  | .slti a1 a2 a3 => Sys2Proof.Machine.execSlti a1 a2 a3 s
  | .sltiu a1 a2 a3 => Sys2Proof.Machine.execSltiu a1 a2 a3 s
  | .slli a1 a2 a3 => Sys2Proof.Machine.execSlli a1 a2 a3 s
  | .srli a1 a2 a3 => Sys2Proof.Machine.execSrli a1 a2 a3 s
  | .srai a1 a2 a3 => Sys2Proof.Machine.execSrai a1 a2 a3 s
  | .rotri a1 a2 a3 => Sys2Proof.Machine.execRotri a1 a2 a3 s
  | .lih a1 a2 a3 => Sys2Proof.Machine.execLih a1 a2 a3 s
  | .adpc a1 a2 => Sys2Proof.Machine.execAdpc a1 a2 s
  | .fadd a1 a2 a3 a4 => Sys2Proof.Machine.execFadd a1 a2 a3 a4 s
  | .fsub a1 a2 a3 a4 => Sys2Proof.Machine.execFsub a1 a2 a3 a4 s
  | .fmul a1 a2 a3 a4 => Sys2Proof.Machine.execFmul a1 a2 a3 a4 s
  | .fma a1 a2 a3 a4 => Sys2Proof.Machine.execFma a1 a2 a3 a4 s
  | .fdiv a1 a2 a3 a4 => Sys2Proof.Machine.execFdiv a1 a2 a3 a4 s
  | .fsqrt a1 a2 a3 => Sys2Proof.Machine.execFsqrt a1 a2 a3 s
  | .fmin a1 a2 a3 a4 => Sys2Proof.Machine.execFmin a1 a2 a3 a4 s
  | .fmax a1 a2 a3 a4 => Sys2Proof.Machine.execFmax a1 a2 a3 a4 s
  | .fcmp a1 a2 a3 a4 a5 => Sys2Proof.Machine.execFcmp a1 a2 a3 a4 a5 s
  | .fcvt a1 a2 a3 a4 => Sys2Proof.Machine.execFcvt a1 a2 a3 a4 s
  | .fclass a1 a2 a3 => Sys2Proof.Machine.execFclass a1 a2 a3 s
  | .ftoi a1 a2 a3 a4 a5 => Sys2Proof.Machine.execFtoi a1 a2 a3 a4 a5 s
  | .itof a1 a2 a3 a4 a5 => Sys2Proof.Machine.execItof a1 a2 a3 a4 a5 s
  | .ld a1 a2 a3 a4 => Sys2Proof.Machine.execLd a1 a2 a3 a4 s
  | .st a1 a2 a3 a4 => Sys2Proof.Machine.execSt a1 a2 a3 a4 s
  | .amoAdd a1 a2 a3 a4 a5 => Sys2Proof.Machine.execAmoAdd a1 a2 a3 a4 a5 s
  | .amoAnd a1 a2 a3 a4 a5 => Sys2Proof.Machine.execAmoAnd a1 a2 a3 a4 a5 s
  | .amoOr a1 a2 a3 a4 a5 => Sys2Proof.Machine.execAmoOr a1 a2 a3 a4 a5 s
  | .amoXor a1 a2 a3 a4 a5 => Sys2Proof.Machine.execAmoXor a1 a2 a3 a4 a5 s
  | .amoMin a1 a2 a3 a4 a5 => Sys2Proof.Machine.execAmoMin a1 a2 a3 a4 a5 s
  | .amoMax a1 a2 a3 a4 a5 => Sys2Proof.Machine.execAmoMax a1 a2 a3 a4 a5 s
  | .amoMinu a1 a2 a3 a4 a5 => Sys2Proof.Machine.execAmoMinu a1 a2 a3 a4 a5 s
  | .amoMaxu a1 a2 a3 a4 a5 => Sys2Proof.Machine.execAmoMaxu a1 a2 a3 a4 a5 s
  | .amoSwap a1 a2 a3 a4 a5 => Sys2Proof.Machine.execAmoSwap a1 a2 a3 a4 a5 s
  | .amoCas a1 a2 a3 a4 a5 => Sys2Proof.Machine.execAmoCas a1 a2 a3 a4 a5 s
  | .beq a1 a2 a3 => Sys2Proof.Machine.execBeq a1 a2 a3 s
  | .bne a1 a2 a3 => Sys2Proof.Machine.execBne a1 a2 a3 s
  | .blt a1 a2 a3 => Sys2Proof.Machine.execBlt a1 a2 a3 s
  | .bge a1 a2 a3 => Sys2Proof.Machine.execBge a1 a2 a3 s
  | .bltu a1 a2 a3 => Sys2Proof.Machine.execBltu a1 a2 a3 s
  | .bgeu a1 a2 a3 => Sys2Proof.Machine.execBgeu a1 a2 a3 s
  | .bbs a1 a2 a3 => Sys2Proof.Machine.execBbs a1 a2 a3 s
  | .bbc a1 a2 a3 => Sys2Proof.Machine.execBbc a1 a2 a3 s
  | .jal a1 a2 => Sys2Proof.Machine.execJal a1 a2 s
  | .jalr a1 a2 a3 => Sys2Proof.Machine.execJalr a1 a2 a3 s
  | .rpt a1 a2 a3 a4 a5 => Sys2Proof.Machine.execRpt a1 a2 a3 a4 a5 s
  | .nest a1 => Sys2Proof.Machine.execNest a1 s
  | .next a1 => Sys2Proof.Machine.execNext a1 s
  | .nestq a1 a2 => Sys2Proof.Machine.execNestq a1 a2 s
  | .trap a1 => Sys2Proof.Machine.execTrap a1 s
  | .eret => Sys2Proof.Machine.execEret s
  | .brk a1 => Sys2Proof.Machine.execBrk a1 s
  | .yield => Sys2Proof.Machine.execYield s
  | .exit => Sys2Proof.Machine.execExit s
  | .crr a1 a2 => Sys2Proof.Machine.execCrr a1 a2 s
  | .crw a1 a2 => Sys2Proof.Machine.execCrw a1 a2 s
  | .pmap a1 a2 a3 => Sys2Proof.Machine.execPmap a1 a2 a3 s
  | .fdset a1 a2 => Sys2Proof.Machine.execFdset a1 a2 s
  | .mcfg a1 => Sys2Proof.Machine.execMcfg a1 s
  | .mprog a1 => Sys2Proof.Machine.execMprog a1 s
  | .vadd a1 a2 a3 a4 a5 a6 => Sys2Proof.Machine.execVadd a1 a2 a3 a4 a5 a6 s
  | .vsub a1 a2 a3 a4 a5 a6 => Sys2Proof.Machine.execVsub a1 a2 a3 a4 a5 a6 s
  | .vmul a1 a2 a3 a4 a5 a6 => Sys2Proof.Machine.execVmul a1 a2 a3 a4 a5 a6 s
  | .vmulh a1 a2 a3 a4 a5 a6 => Sys2Proof.Machine.execVmulh a1 a2 a3 a4 a5 a6 s
  | .vmin a1 a2 a3 a4 a5 a6 => Sys2Proof.Machine.execVmin a1 a2 a3 a4 a5 a6 s
  | .vmax a1 a2 a3 a4 a5 a6 => Sys2Proof.Machine.execVmax a1 a2 a3 a4 a5 a6 s
  | .vminu a1 a2 a3 a4 a5 a6 => Sys2Proof.Machine.execVminu a1 a2 a3 a4 a5 a6 s
  | .vmaxu a1 a2 a3 a4 a5 a6 => Sys2Proof.Machine.execVmaxu a1 a2 a3 a4 a5 a6 s
  | .vand a1 a2 a3 a4 a5 a6 => Sys2Proof.Machine.execVand a1 a2 a3 a4 a5 a6 s
  | .vor a1 a2 a3 a4 a5 a6 => Sys2Proof.Machine.execVor a1 a2 a3 a4 a5 a6 s
  | .vxor a1 a2 a3 a4 a5 a6 => Sys2Proof.Machine.execVxor a1 a2 a3 a4 a5 a6 s
  | .vsll a1 a2 a3 a4 a5 a6 => Sys2Proof.Machine.execVsll a1 a2 a3 a4 a5 a6 s
  | .vsrl a1 a2 a3 a4 a5 a6 => Sys2Proof.Machine.execVsrl a1 a2 a3 a4 a5 a6 s
  | .vsra a1 a2 a3 a4 a5 a6 => Sys2Proof.Machine.execVsra a1 a2 a3 a4 a5 a6 s
  | .vabsd a1 a2 a3 a4 a5 a6 => Sys2Proof.Machine.execVabsd a1 a2 a3 a4 a5 a6 s
  | .vadds a1 a2 a3 a4 a5 a6 => Sys2Proof.Machine.execVadds a1 a2 a3 a4 a5 a6 s
  | .vfadd a1 a2 a3 a4 a5 a6 => Sys2Proof.Machine.execVfadd a1 a2 a3 a4 a5 a6 s
  | .vfsub a1 a2 a3 a4 a5 a6 => Sys2Proof.Machine.execVfsub a1 a2 a3 a4 a5 a6 s
  | .vfmul a1 a2 a3 a4 a5 a6 => Sys2Proof.Machine.execVfmul a1 a2 a3 a4 a5 a6 s
  | .vfma a1 a2 a3 a4 a5 a6 => Sys2Proof.Machine.execVfma a1 a2 a3 a4 a5 a6 s
  | .vfms a1 a2 a3 a4 a5 a6 => Sys2Proof.Machine.execVfms a1 a2 a3 a4 a5 a6 s
  | .vfdiv a1 a2 a3 a4 a5 a6 => Sys2Proof.Machine.execVfdiv a1 a2 a3 a4 a5 a6 s
  | .vfsqrt a1 a2 a3 a4 a5 => Sys2Proof.Machine.execVfsqrt a1 a2 a3 a4 a5 s
  | .vfmin a1 a2 a3 a4 a5 a6 => Sys2Proof.Machine.execVfmin a1 a2 a3 a4 a5 a6 s
  | .vfmax a1 a2 a3 a4 a5 a6 => Sys2Proof.Machine.execVfmax a1 a2 a3 a4 a5 a6 s
  | .vfabs a1 a2 a3 a4 a5 => Sys2Proof.Machine.execVfabs a1 a2 a3 a4 a5 s
  | .vfneg a1 a2 a3 a4 a5 => Sys2Proof.Machine.execVfneg a1 a2 a3 a4 a5 s
  | .vcvtf a1 a2 a3 a4 a5 a6 => Sys2Proof.Machine.execVcvtf a1 a2 a3 a4 a5 a6 s
  | .vftoi a1 a2 a3 a4 a5 a6 a7 => Sys2Proof.Machine.execVftoi a1 a2 a3 a4 a5 a6 a7 s
  | .vitof a1 a2 a3 a4 a5 a6 a7 => Sys2Proof.Machine.execVitof a1 a2 a3 a4 a5 a6 a7 s
  | .vnarrow a1 a2 a3 a4 a5 a6 => Sys2Proof.Machine.execVnarrow a1 a2 a3 a4 a5 a6 s
  | .vwiden a1 a2 a3 a4 a5 a6 => Sys2Proof.Machine.execVwiden a1 a2 a3 a4 a5 a6 s
  | .vscale a1 a2 a3 a4 => Sys2Proof.Machine.execVscale a1 a2 a3 a4 s
  | .vqblk a1 a2 a3 a4 => Sys2Proof.Machine.execVqblk a1 a2 a3 a4 s
  | .vbcast a1 a2 a3 a4 => Sys2Proof.Machine.execVbcast a1 a2 a3 a4 s
  | .vext a1 a2 a3 a4 a5 => Sys2Proof.Machine.execVext a1 a2 a3 a4 a5 s
  | .vins a1 a2 a3 a4 => Sys2Proof.Machine.execVins a1 a2 a3 a4 s
  | .vperm a1 a2 a3 a4 a5 a6 => Sys2Proof.Machine.execVperm a1 a2 a3 a4 a5 a6 s
  | .vslideu a1 a2 a3 a4 a5 a6 => Sys2Proof.Machine.execVslideu a1 a2 a3 a4 a5 a6 s
  | .vslided a1 a2 a3 a4 a5 a6 => Sys2Proof.Machine.execVslided a1 a2 a3 a4 a5 a6 s
  | .vzip a1 a2 a3 a4 a5 a6 => Sys2Proof.Machine.execVzip a1 a2 a3 a4 a5 a6 s
  | .vunzip a1 a2 a3 a4 a5 a6 => Sys2Proof.Machine.execVunzip a1 a2 a3 a4 a5 a6 s
  | .vmerge a1 a2 a3 a4 a5 a6 => Sys2Proof.Machine.execVmerge a1 a2 a3 a4 a5 a6 s
  | .mpopc a1 a2 a3 => Sys2Proof.Machine.execMpopc a1 a2 a3 s
  | .mfirst a1 a2 a3 => Sys2Proof.Machine.execMfirst a1 a2 a3 s
  | .mset a1 a2 => Sys2Proof.Machine.execMset a1 a2 s
  | .vrsum a1 a2 a3 a4 a5 => Sys2Proof.Machine.execVrsum a1 a2 a3 a4 a5 s
  | .vrmax a1 a2 a3 a4 a5 => Sys2Proof.Machine.execVrmax a1 a2 a3 a4 a5 s
  | .vrmin a1 a2 a3 a4 a5 => Sys2Proof.Machine.execVrmin a1 a2 a3 a4 a5 s
  | .vrsumi a1 a2 a3 a4 a5 => Sys2Proof.Machine.execVrsumi a1 a2 a3 a4 a5 s
  | .vscan a1 a2 a3 a4 a5 => Sys2Proof.Machine.execVscan a1 a2 a3 a4 a5 s
  | .vexp2 a1 a2 a3 a4 a5 => Sys2Proof.Machine.execVexp2 a1 a2 a3 a4 a5 s
  | .vlog2 a1 a2 a3 a4 a5 => Sys2Proof.Machine.execVlog2 a1 a2 a3 a4 a5 s
  | .vexp a1 a2 a3 a4 a5 => Sys2Proof.Machine.execVexp a1 a2 a3 a4 a5 s
  | .vlog a1 a2 a3 a4 a5 => Sys2Proof.Machine.execVlog a1 a2 a3 a4 a5 s
  | .vsin a1 a2 a3 a4 a5 => Sys2Proof.Machine.execVsin a1 a2 a3 a4 a5 s
  | .vcos a1 a2 a3 a4 a5 => Sys2Proof.Machine.execVcos a1 a2 a3 a4 a5 s
  | .vtanh a1 a2 a3 a4 a5 => Sys2Proof.Machine.execVtanh a1 a2 a3 a4 a5 s
  | .vsigm a1 a2 a3 a4 a5 => Sys2Proof.Machine.execVsigm a1 a2 a3 a4 a5 s
  | .verf a1 a2 a3 a4 a5 => Sys2Proof.Machine.execVerf a1 a2 a3 a4 a5 s
  | .vrcp a1 a2 a3 a4 a5 => Sys2Proof.Machine.execVrcp a1 a2 a3 a4 a5 s
  | .vrsqrt a1 a2 a3 a4 a5 => Sys2Proof.Machine.execVrsqrt a1 a2 a3 a4 a5 s
  | .vcmpeq a1 a2 a3 a4 a5 a6 => Sys2Proof.Machine.execVcmpeq a1 a2 a3 a4 a5 a6 s
  | .vcmpne a1 a2 a3 a4 a5 a6 => Sys2Proof.Machine.execVcmpne a1 a2 a3 a4 a5 a6 s
  | .vcmplt a1 a2 a3 a4 a5 a6 => Sys2Proof.Machine.execVcmplt a1 a2 a3 a4 a5 a6 s
  | .vcmple a1 a2 a3 a4 a5 a6 => Sys2Proof.Machine.execVcmple a1 a2 a3 a4 a5 a6 s
  | .vcmpltu a1 a2 a3 a4 a5 a6 => Sys2Proof.Machine.execVcmpltu a1 a2 a3 a4 a5 a6 s
  | .vcmpleu a1 a2 a3 a4 a5 a6 => Sys2Proof.Machine.execVcmpleu a1 a2 a3 a4 a5 a6 s
  | .vfcmpeq a1 a2 a3 a4 a5 a6 => Sys2Proof.Machine.execVfcmpeq a1 a2 a3 a4 a5 a6 s
  | .vfcmplt a1 a2 a3 a4 a5 a6 => Sys2Proof.Machine.execVfcmplt a1 a2 a3 a4 a5 a6 s
  | .vfcmple a1 a2 a3 a4 a5 a6 => Sys2Proof.Machine.execVfcmple a1 a2 a3 a4 a5 a6 s
  | .vfcmpun a1 a2 a3 a4 a5 a6 => Sys2Proof.Machine.execVfcmpun a1 a2 a3 a4 a5 a6 s
  | .mand a1 a2 a3 => Sys2Proof.Machine.execMand a1 a2 a3 s
  | .mor a1 a2 a3 => Sys2Proof.Machine.execMor a1 a2 a3 s
  | .mxor a1 a2 a3 => Sys2Proof.Machine.execMxor a1 a2 a3 s
  | .mnot a1 a2 => Sys2Proof.Machine.execMnot a1 a2 s
  | .ldv a1 a2 a3 a4 => Sys2Proof.Machine.execLdv a1 a2 a3 a4 s
  | .stv a1 a2 a3 a4 => Sys2Proof.Machine.execStv a1 a2 a3 a4 s
  | .ldvs a1 a2 a3 a4 a5 => Sys2Proof.Machine.execLdvs a1 a2 a3 a4 a5 s
  | .stvs a1 a2 a3 a4 a5 => Sys2Proof.Machine.execStvs a1 a2 a3 a4 a5 s
  | .ldvx a1 a2 a3 a4 a5 => Sys2Proof.Machine.execLdvx a1 a2 a3 a4 a5 s
  | .stvx a1 a2 a3 a4 a5 => Sys2Proof.Machine.execStvx a1 a2 a3 a4 a5 s
  | .ldvb a1 a2 a3 => Sys2Proof.Machine.execLdvb a1 a2 a3 s
  | .vxch a1 a2 a3 => Sys2Proof.Machine.execVxch a1 a2 a3 s
  | .lwin a1 => Sys2Proof.Machine.execLwin a1 s
  | .act a1 => Sys2Proof.Machine.execAct a1 s
  | .pre a1 => Sys2Proof.Machine.execPre a1 s
  | .tld a1 a2 a3 => Sys2Proof.Machine.execTld a1 a2 a3 s
  | .tldl a1 a2 a3 => Sys2Proof.Machine.execTldl a1 a2 a3 s
  | .tst a1 a2 a3 => Sys2Proof.Machine.execTst a1 a2 a3 s
  | .tcpy a1 a2 a3 a4 a5 => Sys2Proof.Machine.execTcpy a1 a2 a3 a4 a5 s
  | .tcpym a1 a2 a3 a4 a5 => Sys2Proof.Machine.execTcpym a1 a2 a3 a4 a5 s
  | .tfpr a1 a2 a3 => Sys2Proof.Machine.execTfpr a1 a2 a3 s
  | .rld a1 a2 a3 a4 => Sys2Proof.Machine.execRld a1 a2 a3 a4 s
  | .rstr a1 a2 a3 a4 => Sys2Proof.Machine.execRstr a1 a2 a3 a4 s
  | .vrld a1 a2 a3 => Sys2Proof.Machine.execVrld a1 a2 a3 s
  | .vrst a1 a2 a3 => Sys2Proof.Machine.execVrst a1 a2 a3 s
  | .rfaAdd a1 a2 a3 a4 a5 => Sys2Proof.Machine.execRfaAdd a1 a2 a3 a4 a5 s
  | .rfaAnd a1 a2 a3 a4 a5 => Sys2Proof.Machine.execRfaAnd a1 a2 a3 a4 a5 s
  | .rfaOr a1 a2 a3 a4 a5 => Sys2Proof.Machine.execRfaOr a1 a2 a3 a4 a5 s
  | .rfaXor a1 a2 a3 a4 a5 => Sys2Proof.Machine.execRfaXor a1 a2 a3 a4 a5 s
  | .rfaMin a1 a2 a3 a4 a5 => Sys2Proof.Machine.execRfaMin a1 a2 a3 a4 a5 s
  | .rfaMax a1 a2 a3 a4 a5 => Sys2Proof.Machine.execRfaMax a1 a2 a3 a4 a5 s
  | .rfaMinu a1 a2 a3 a4 a5 => Sys2Proof.Machine.execRfaMinu a1 a2 a3 a4 a5 s
  | .rfaMaxu a1 a2 a3 a4 a5 => Sys2Proof.Machine.execRfaMaxu a1 a2 a3 a4 a5 s
  | .rfaSwap a1 a2 a3 a4 a5 => Sys2Proof.Machine.execRfaSwap a1 a2 a3 a4 a5 s
  | .rcas a1 a2 a3 a4 a5 => Sys2Proof.Machine.execRcas a1 a2 a3 a4 a5 s
  | .lrw a1 a2 a3 => Sys2Proof.Machine.execLrw a1 a2 a3 s
  | .sch a1 a2 a3 => Sys2Proof.Machine.execSch a1 a2 a3 s
  | .send a1 a2 a3 a4 => Sys2Proof.Machine.execSend a1 a2 a3 a4 s
  | .sendm a1 a2 a3 a4 => Sys2Proof.Machine.execSendm a1 a2 a3 a4 s
  | .qpush a1 a2 => Sys2Proof.Machine.execQpush a1 a2 s
  | .qpop a1 a2 => Sys2Proof.Machine.execQpop a1 a2 s
  | .qpeek a1 a2 => Sys2Proof.Machine.execQpeek a1 a2 s
  | .qbind a1 a2 a3 => Sys2Proof.Machine.execQbind a1 a2 a3 s
  | .mig a1 => Sys2Proof.Machine.execMig a1 s
  | .migo => Sys2Proof.Machine.execMigo s
  | .home a1 a2 => Sys2Proof.Machine.execHome a1 a2 s
  | .fence a1 a2 => Sys2Proof.Machine.execFence a1 a2 s
  | .binit a1 a2 a3 a4 => Sys2Proof.Machine.execBinit a1 a2 a3 a4 s
  | .arrive a1 a2 => Sys2Proof.Machine.execArrive a1 a2 s
  | .arrdrop a1 => Sys2Proof.Machine.execArrdrop a1 s
  | .bwait a1 => Sys2Proof.Machine.execBwait a1 s
  | .btest a1 a2 => Sys2Proof.Machine.execBtest a1 a2 s
  | .abatch => Sys2Proof.Machine.execAbatch s
  | .await a1 => Sys2Proof.Machine.execAwait a1 s
  | .mma a1 a2 a3 a4 a5 a6 a7 a8 => Sys2Proof.Machine.execMma a1 a2 a3 a4 a5 a6 a7 a8 s
  | .mzero a1 => Sys2Proof.Machine.execMzero a1 s
  | .mst a1 a2 => Sys2Proof.Machine.execMst a1 a2 s
  | .mldc a1 => Sys2Proof.Machine.execMldc a1 s
  | .sptag a1 a2 => Sys2Proof.Machine.execSptag a1 a2 s
  | .spapp a1 a2 a3 => Sys2Proof.Machine.execSpapp a1 a2 a3 s
  | .spcom a1 a2 => Sys2Proof.Machine.execSpcom a1 a2 s
  | .sprej a1 a2 => Sys2Proof.Machine.execSprej a1 a2 s
  | .spretHole a1 a2 a3 => Sys2Proof.Machine.execSpretHole a1 a2 a3 s
  | .spretClose a1 a2 a3 => Sys2Proof.Machine.execSpretClose a1 a2 a3 s
  | .spqry a1 a2 a3 => Sys2Proof.Machine.execSpqry a1 a2 a3 s
  | .sploc a1 a2 a3 => Sys2Proof.Machine.execSploc a1 a2 a3 s
  | .splen a1 a2 => Sys2Proof.Machine.execSplen a1 a2 s
  | .launch a1 a2 => Sys2Proof.Machine.execLaunch a1 a2 s
  | .lwait a1 => Sys2Proof.Machine.execLwait a1 s
  | .lcancel a1 a2 => Sys2Proof.Machine.execLcancel a1 a2 s
  | .lstat a1 a2 => Sys2Proof.Machine.execLstat a1 a2 s
  | .treg a1 a2 => Sys2Proof.Machine.execTreg a1 a2 s
  | .purse a1 a2 => Sys2Proof.Machine.execPurse a1 a2 s
  | .subs a1 a2 => Sys2Proof.Machine.execSubs a1 a2 s
  | .unsubs a1 => Sys2Proof.Machine.execUnsubs a1 s
  | .crinit a1 a2 => Sys2Proof.Machine.execCrinit a1 a2 s
  | .cradd a1 a2 => Sys2Proof.Machine.execCradd a1 a2 s
  | .crwait a1 => Sys2Proof.Machine.execCrwait a1 s
  | .registerWrite a1 a2 a3 => Sys2Proof.Machine.execRegisterWrite a1 a2 a3 s
  | .messageLanding a1 => Sys2Proof.Machine.execMessageLanding a1 s
  | .handlerActivation a1 => Sys2Proof.Machine.execHandlerActivation a1 s
  | .remoteLoadServe a1 => Sys2Proof.Machine.execRemoteLoadServe a1 s
  | .remoteStoreServe a1 => Sys2Proof.Machine.execRemoteStoreServe a1 s
  | .atomicServe a1 => Sys2Proof.Machine.execAtomicServe a1 s
  | .nestClaim a1 => Sys2Proof.Machine.execNestClaim a1 s
  | .lrwServe a1 => Sys2Proof.Machine.execLrwServe a1 s
  | .schServe a1 => Sys2Proof.Machine.execSchServe a1 s
  | .tileServe a1 => Sys2Proof.Machine.execTileServe a1 s
  | .fingerprintServe a1 => Sys2Proof.Machine.execFingerprintServe a1 s
  | .spanEntryForward a1 => Sys2Proof.Machine.execSpanEntryForward a1 s
  | .spanHomePerform a1 => Sys2Proof.Machine.execSpanHomePerform a1 s
  | .spanOpen a1 => Sys2Proof.Machine.execSpanOpen a1 s
  | .spanCountUpdate a1 => Sys2Proof.Machine.execSpanCountUpdate a1 s
  | .spanRetire a1 => Sys2Proof.Machine.execSpanRetire a1 s
  | .poolmake a1 => Sys2Proof.Machine.execPoolmake a1 s
  | .poolsize a1 => Sys2Proof.Machine.execPoolsize a1 s
  | .poolfree a1 => Sys2Proof.Machine.execPoolfree a1 s
  | .pmapPerform a1 => Sys2Proof.Machine.execPmapPerform a1 s
  | .mapPage a1 => Sys2Proof.Machine.execMapPage a1 s
  | .unmapPage a1 => Sys2Proof.Machine.execUnmapPage a1 s
  | .rehome a1 => Sys2Proof.Machine.execRehome a1 s
  | .rehomeCopy a1 => Sys2Proof.Machine.execRehomeCopy a1 s
  | .rehomeStub a1 => Sys2Proof.Machine.execRehomeStub a1 s
  | .rehomeFree a1 => Sys2Proof.Machine.execRehomeFree a1 s
  | .cowbreak a1 => Sys2Proof.Machine.execCowbreak a1 s
  | .cowBreakDecide a1 => Sys2Proof.Machine.execCowBreakDecide a1 s
  | .requestForward a1 => Sys2Proof.Machine.execRequestForward a1 s
  | .shootdown a1 => Sys2Proof.Machine.execShootdown a1 s
  | .shootdownAck a1 => Sys2Proof.Machine.execShootdownAck a1 s
  | .remoteArriveServe a1 => Sys2Proof.Machine.execRemoteArriveServe a1 s
  | .barrierCarriedPhase a1 a2 => Sys2Proof.Machine.execBarrierCarriedPhase a1 a2 s
  | .phasePush a1 => Sys2Proof.Machine.execPhasePush a1 s
  | .codeLoad a1 => Sys2Proof.Machine.execCodeLoad a1 s
  | .migrationDrain a1 a2 => Sys2Proof.Machine.execMigrationDrain a1 a2 s
  | .migrationReserve a1 => Sys2Proof.Machine.execMigrationReserve a1 s
  | .migrationTransfer a1 => Sys2Proof.Machine.execMigrationTransfer a1 s
  | .migrationStub a1 a2 => Sys2Proof.Machine.execMigrationStub a1 a2 s
  | .migrationResume a1 a2 => Sys2Proof.Machine.execMigrationResume a1 a2 s
  | .parkedRestore a1 a2 => Sys2Proof.Machine.execParkedRestore a1 a2 s
  | .remoteReply a1 => Sys2Proof.Machine.execRemoteReply a1 s
  | .writeAck a1 => Sys2Proof.Machine.execWriteAck a1 s
  | .claimReply a1 => Sys2Proof.Machine.execClaimReply a1 s
  | .lrwGrant a1 => Sys2Proof.Machine.execLrwGrant a1 s
  | .deferredReply a1 => Sys2Proof.Machine.execDeferredReply a1 s
  | .copyBlockLanding a1 => Sys2Proof.Machine.execCopyBlockLanding a1 s
  | .copyBlockAck a1 => Sys2Proof.Machine.execCopyBlockAck a1 s
  | .queueEntryLanding a1 => Sys2Proof.Machine.execQueueEntryLanding a1 s
  | .queueCredit a1 => Sys2Proof.Machine.execQueueCredit a1 s
  | .tileRowStep a1 a2 => Sys2Proof.Machine.execTileRowStep a1 a2 s
  | .tileRowWritten a1 a2 => Sys2Proof.Machine.execTileRowWritten a1 a2 s
  | .bankActPerform a1 a2 => Sys2Proof.Machine.execBankActPerform a1 a2 s
  | .mtxKStep a1 => Sys2Proof.Machine.execMtxKStep a1 s
  | .mtxMzeroPerform a1 => Sys2Proof.Machine.execMtxMzeroPerform a1 s
  | .mtxMstPerform a1 => Sys2Proof.Machine.execMtxMstPerform a1 s
  | .mtxMldcPerform a1 => Sys2Proof.Machine.execMtxMldcPerform a1 s
  | .mtxMcfgPerform a1 => Sys2Proof.Machine.execMtxMcfgPerform a1 s
  | .mtxMprogPerform a1 => Sys2Proof.Machine.execMtxMprogPerform a1 s
  | .ballastKStep a1 => Sys2Proof.Machine.execBallastKStep a1 s
  | .unitCompletion => Sys2Proof.Machine.execUnitCompletion s
  | .predecessorResolution a1 => Sys2Proof.Machine.execPredecessorResolution a1 s
  | .launchAccept => Sys2Proof.Machine.execLaunchAccept s
  | .cancelPerform => Sys2Proof.Machine.execCancelPerform s
  | .lstatPerform => Sys2Proof.Machine.execLstatPerform s
  | .tregPerform => Sys2Proof.Machine.execTregPerform s
  | .pursePerform => Sys2Proof.Machine.execPursePerform s
  | .subsPerform => Sys2Proof.Machine.execSubsPerform s
  | .unsubsPerform => Sys2Proof.Machine.execUnsubsPerform s
  | .crinitPerform => Sys2Proof.Machine.execCrinitPerform s
  | .craddCount => Sys2Proof.Machine.execCraddCount s
  | .unitPlace a1 a2 a3 => Sys2Proof.Machine.execUnitPlace a1 a2 a3 s
  | .imageLoad a1 => Sys2Proof.Machine.execImageLoad a1 s
  | .grantEnd a1 => Sys2Proof.Machine.execGrantEnd a1 s
  | .preemptSave a1 a2 => Sys2Proof.Machine.execPreemptSave a1 a2 s
  | .unitRestore a1 a2 a3 a4 => Sys2Proof.Machine.execUnitRestore a1 a2 a3 a4 s
  | .tensorFirstUse a1 => Sys2Proof.Machine.execTensorFirstUse a1 s
  | .tensorLastUse a1 => Sys2Proof.Machine.execTensorLastUse a1 s
  | .notifyWrite => Sys2Proof.Machine.execNotifyWrite s
  | .priorityAging a1 => Sys2Proof.Machine.execPriorityAging a1 s
  | .mintTick => Sys2Proof.Machine.execMintTick s
  | .heatMeterWindow => Sys2Proof.Machine.execHeatMeterWindow s
  | .ballastInterval a1 a2 a3 => Sys2Proof.Machine.execBallastInterval a1 a2 a3 s
  | .ballastStop => Sys2Proof.Machine.execBallastStop s
  | .cadencePulse => Sys2Proof.Machine.execCadencePulse s
  | .refresh a1 a2 => Sys2Proof.Machine.execRefresh a1 a2 s
  | .refreshEnd a1 a2 => Sys2Proof.Machine.execRefreshEnd a1 a2 s
  | .sensorConversion a1 a2 a3 a4 => Sys2Proof.Machine.execSensorConversion a1 a2 a3 a4 s
  | .sensorFail a1 a2 a3 => Sys2Proof.Machine.execSensorFail a1 a2 a3 s
  | .scrubVaultStep a1 => Sys2Proof.Machine.execScrubVaultStep a1 s
  | .scrubTillLine a1 => Sys2Proof.Machine.execScrubTillLine a1 s
  | .scrubPstoreLine a1 => Sys2Proof.Machine.execScrubPstoreLine a1 s
  | .rowRepair a1 a2 => Sys2Proof.Machine.execRowRepair a1 a2 s
  | .frameWithdraw a1 a2 => Sys2Proof.Machine.execFrameWithdraw a1 a2 s
  | .laneSteer a1 a2 a3 => Sys2Proof.Machine.execLaneSteer a1 a2 a3 s
  | .frameEvacuate a1 a2 => Sys2Proof.Machine.execFrameEvacuate a1 a2 s
  | .spokeRetired a1 a2 => Sys2Proof.Machine.execSpokeRetired a1 a2 s
  | .pstoreLineRewrite a1 a2 => Sys2Proof.Machine.execPstoreLineRewrite a1 a2 s
  | .coreLoss a1 a2 => Sys2Proof.Machine.execCoreLoss a1 a2 s
  | .inFieldTest a1 a2 => Sys2Proof.Machine.execInFieldTest a1 a2 s
  | .routerFail a1 a2 => Sys2Proof.Machine.execRouterFail a1 a2 s
  | .corrReport a1 => Sys2Proof.Machine.execCorrReport a1 s
  | .powerUp => Sys2Proof.Machine.execPowerUp s
  | .powerDown => Sys2Proof.Machine.execPowerDown s
  | .bootFirmware => Sys2Proof.Machine.execBootFirmware s
  | .bootPlates => Sys2Proof.Machine.execBootPlates s
  | .bootColumns a1 a2 => Sys2Proof.Machine.execBootColumns a1 a2 s
  | .discoveryWave a1 => Sys2Proof.Machine.execDiscoveryWave a1 s
  | .plateBoot a1 => Sys2Proof.Machine.execPlateBoot a1 s
  | .bootImageInstall a1 => Sys2Proof.Machine.execBootImageInstall a1 s
  | .bootTimeout a1 => Sys2Proof.Machine.execBootTimeout a1 s
  | .bootNumbering => Sys2Proof.Machine.execBootNumbering s
  | .bootRim a1 => Sys2Proof.Machine.execBootRim a1 s
  | .bootRuntime => Sys2Proof.Machine.execBootRuntime s
  | .cqtail a1 a2 => Sys2Proof.Machine.execCqtail a1 a2 s
  | .rqhead a1 a2 => Sys2Proof.Machine.execRqhead a1 a2 s
  | .semacq a1 a2 => Sys2Proof.Machine.execSemacq a1 a2 s
  | .semrel a1 a2 => Sys2Proof.Machine.execSemrel a1 a2 s
  | .semfrel a1 a2 => Sys2Proof.Machine.execSemfrel a1 a2 s
  | .hubLaunch a1 => Sys2Proof.Machine.execHubLaunch a1 s
  | .hubCancel a1 => Sys2Proof.Machine.execHubCancel a1 s
  | .hubLstat a1 => Sys2Proof.Machine.execHubLstat a1 s
  | .counter a1 => Sys2Proof.Machine.execCounter a1 s
  | .preempt a1 => Sys2Proof.Machine.execPreempt a1 s
  | .jobopen a1 => Sys2Proof.Machine.execJobopen a1 s
  | .jobclose a1 => Sys2Proof.Machine.execJobclose a1 s
  | .dmaread a1 => Sys2Proof.Machine.execDmaread a1 s
  | .dmawrite a1 => Sys2Proof.Machine.execDmawrite a1 s
  | .capset a1 => Sys2Proof.Machine.execCapset a1 s
  | .hello a1 => Sys2Proof.Machine.execHello a1 s
  | .mapread a1 a2 a3 => Sys2Proof.Machine.execMapread a1 a2 a3 s
  | .events a1 => Sys2Proof.Machine.execEvents a1 s
  | .cadence a1 a2 => Sys2Proof.Machine.execCadence a1 a2 s
  | .dbgread a1 a2 a3 => Sys2Proof.Machine.execDbgread a1 a2 a3 s
  | .dbgwrite a1 a2 a3 a4 => Sys2Proof.Machine.execDbgwrite a1 a2 a3 a4 s
  | .dbgHalt a1 a2 a3 => Sys2Proof.Machine.execDbgHalt a1 a2 a3 s
  | .dbgSstep a1 a2 => Sys2Proof.Machine.execDbgSstep a1 a2 s
  | .dbgTstop a1 a2 => Sys2Proof.Machine.execDbgTstop a1 a2 s
  | .dbgstatClear a1 a2 => Sys2Proof.Machine.execDbgstatClear a1 a2 s
  | .dbgImageWrite a1 a2 a3 => Sys2Proof.Machine.execDbgImageWrite a1 a2 a3 s
  | .record a1 a2 a3 a4 => Sys2Proof.Machine.execRecord a1 a2 a3 a4 s
  | .logdrain a1 a2 a3 => Sys2Proof.Machine.execLogdrain a1 a2 a3 s
  | .checkpoint a1 a2 => Sys2Proof.Machine.execCheckpoint a1 a2 s
  | .restart a1 a2 => Sys2Proof.Machine.execRestart a1 a2 s
  | .attest a1 a2 a3 => Sys2Proof.Machine.execAttest a1 a2 a3 s
  | .keyload a1 a2 a3 => Sys2Proof.Machine.execKeyload a1 a2 a3 s
  | .keygrant a1 a2 a3 => Sys2Proof.Machine.execKeygrant a1 a2 a3 s
  | .keyclear a1 a2 => Sys2Proof.Machine.execKeyclear a1 a2 s
  | .rimconf a1 a2 a3 a4 => Sys2Proof.Machine.execRimconf a1 a2 a3 a4 s
  | .fwupdate a1 a2 => Sys2Proof.Machine.execFwupdate a1 a2 s
  | .reset a1 => Sys2Proof.Machine.execReset a1 s
  | .coolant a1 => Sys2Proof.Machine.execCoolant a1 s
  | .coolantFault a1 a2 => Sys2Proof.Machine.execCoolantFault a1 a2 s
  | .coolantRecover a1 a2 => Sys2Proof.Machine.execCoolantRecover a1 a2 s
  | .rimFrame a1 a2 => Sys2Proof.Machine.execRimFrame a1 a2 s
  | .rimLinkDown a1 => Sys2Proof.Machine.execRimLinkDown a1 s
  | .pcieLinkTrain a1 a2 a3 => Sys2Proof.Machine.execPcieLinkTrain a1 a2 a3 s
  | .illegalWord a1 => Sys2Proof.Machine.execIllegalWord a1 s
  | .hubReset a1 a2 => Sys2Proof.Machine.execHubReset a1 a2 s
  | .rimLinkRetrain a1 => Sys2Proof.Machine.execRimLinkRetrain a1 s
  | .pageEntryRebuild a1 => Sys2Proof.Machine.execPageEntryRebuild a1 s
  | .cowbreakCopyEnd a1 => Sys2Proof.Machine.execCowbreakCopyEnd a1 s

end Sys2Proof.Machine
end

