-- ==== Sys2Proof/Machine/Replay.lean ====
section
/-!
DEFINITION. Replaying a recorded unit (20_observation_replay.md, R462, Table 20.7; log entry 67): a slot with the entries of its log
still to come takes each entry's payload in place of the value that it would obtain.
-/
namespace Sys2Proof.Machine

/-! ### The log of a unit -/

/-- The bytes of a log page's ring from an offset on. -/
def ringBytes (page : List Byte) (o n : Nat) : List Byte := (List.range n).map (fun i => page.getD (logMove o i) 0)

/-- The entries of a ring of so many bytes, oldest first, with the UNITID of each (R460). -/
def ringEntries : Nat → List Byte → List (BitVec 24 × LogEntry)
  | 0, _ => []
  | fuel + 1, bs =>
    if bs.length < 16 then []
    else
      let n := 8 * imgNat bs 12 1
      (BitVec.ofNat 24 (imgNat bs 8 3), ⟨BitVec.ofNat 64 (imgNat bs 0 8), imgNat bs 11 1, (bs.drop 16).take n⟩) ::
        ringEntries fuel (bs.drop (16 + n))

/-- A unit's entries in a log page. -/
def unitLog (page : List Byte) (unit : BitVec 24) : List LogEntry :=
  let w := max 0x40 (imgNat page 0 8)
  let r := max 0x40 (imgNat page 8 8)
  let n := (w + logSize - r) % logSize
  ((ringEntries n (ringBytes page r n)).filter (fun e => e.1 == unit)).map (fun e => e.2)

/-- A replay begins: one unit, with its image, its initial lease and its log, in a slot. -/
def State.startReplay (s : State) (c : Nat) (t : Fin 4) (image lease : List Byte) (upc : Nat) (log : List LogEntry) : State :=
  let s1 := s.applyImage c t image Beside.none upc
  let l := s1.slotAt c t
  (s1.putBytes (tillKey c (l.leaseBase.toNat * 64)) (lease.take l.leaseBytes)).updSlotAt c t
    (fun l => { l with replaying := some log })

/-! ### Logged instructions -/

/-- The kind of the entry that an instruction takes as it issues (Table 20.7). -/
def loggedKind (i : Instr) : Option Nat :=
  match i with
  | .ld .. | .ldv .. | .ldvs .. | .ldvx .. | .ldvb .. | .vxch .. | .amoAdd .. | .amoAnd .. | .amoOr .. | .amoXor .. | .amoMin ..
  | .amoMax .. | .amoMinu .. | .amoMaxu .. | .amoSwap .. | .amoCas .. => some 2
  | .qpop .. | .qpeek .. => some 3
  | .next .. => some 4
  | .crr .. | .lwin .. | .home .. | .btest .. => some 5
  | _ => if (queueFields (encode i)).1 || (queueFields (encode i)).2 then some 3 else none

/-- An AMO's address and size. -/
def amoAccess (s : State) (i : Instr) : Option (Word × Nat) :=
  match i with
  | .amoAdd _ a _ _ z | .amoAnd _ a _ _ z | .amoOr _ a _ _ z | .amoXor _ a _ _ z | .amoMin _ a _ _ z | .amoMax _ a _ _ z
  | .amoMinu _ a _ _ z | .amoMaxu _ a _ _ z | .amoSwap _ a _ _ z | .amoCas _ a _ _ z => some (s.g a, rmwSize z)
  | _ => none

/-- Where a logged value goes. -/
def loggedDest (i : Instr) : Dest :=
  let d := (encode i).extractLsb' 21 5
  match (Instr.fields i).1 with
  | .g => .g d
  | .v => .v d
  | .none => .none

/-- The value of an entry is put where the instruction finds it: at the head of a queue, as the nest's chunk, or in the word of an AMO. -/
def State.offer (s : State) (i : Instr) (e : LogEntry) : State :=
  match e.kind with
  | 3 =>
    let q : QEntry := ⟨BitVec.ofNat 512 (imgNat e.payload 0 64), s.curCore, 4, 0, 0, 0, 0⟩
    s.updHere (fun k => { k with queues := Vector.replicate 8 [q] })
  | 4 =>
    let first := imgNat e.payload 0 8
    let z := imgNat e.payload 8 8
    s.updSlot (fun l => { l with nest := { l.nest with
      pending := false, fresh := true, fault := none, first := BitVec.ofNat 48 first, last := BitVec.ofNat 48 (first + z)
      exhausted := z == 0 } })
  | 2 =>
    match amoAccess s i with
    | none => s
    | some (va, n) =>
      match access s va n n .both with
      | .ok l => { s with mem := s.mem.writeBytes l.key (e.payload.take n) }
      | .error _ => s
  | _ => s

/-- A message that only asks for a value, or answers for one taken. -/
def asksValue (m : Msg) : Bool :=
  match m.body with
  | .claim _ _ _ _ _ => true
  | .credit _ _ _ _ _ => true
  | _ => false

/-- The operation that an instruction has started brings a value back. -/
def bringsValue (u v : State) : Bool :=
  (v.here.ops.drop u.here.ops.length).any (fun o =>
    match o.kind with
    | .marked _ _ => true
    | .rmw _ _ => true
    | .result => true
    | _ => false)

/-- After an instruction of a replay: nothing has been asked of others for a value that the log holds. -/
def State.alone (u v : State) : State :=
  if bringsValue u v then { v with net := u.net, dist := { v.dist with queue := u.dist.queue } }
  else { v with net := u.net ++ (v.net.drop u.net.length).filter (fun m => !asksValue m) }

/-- The entry is taken. -/
def State.took (s : State) (c : Nat) (t : Fin 4) (rest : List LogEntry) : State :=
  s.updSlotAt c t (fun l => { l with replaying := some rest })

/-- The payload replaces the value that an instruction has written; an AMO that was performed took it from its word. -/
def State.payload (s : State) (t : Fin 4) (i : Instr) (e : LogEntry) (performed : Bool) : State :=
  if e.kind == 5 || (e.kind == 2 && ((amoAccess s i).isNone || !performed)) then
    s.setDest s.curCore t (loggedDest i) (natOfBytes e.payload)
  else s

/-- An instruction has not brought its value where the replay runs: it has trapped, or its slot sets out for the page's home. -/
def wantsValue (s v : State) : Bool := (!v.unitMode && s.unitMode) || (v.slot.leaving.isSome && s.slot.leaving.isNone)

/-- An MMA of a replay does not wait for its queue, whose entries the log holds (R462). -/
def State.fedMma (s : State) (i : Instr) (qs : Vector (List QEntry) 8) : State :=
  match i with
  | .mma .. => s.updHere (fun k => { k with queues := qs })
  | _ => s

/-- An instruction of a replay issues, with the entry that it takes; one that cannot bring the value takes it all the same. -/
def replayIssue (s : State) (t : Fin 4) (i : Instr) (e : Option (LogEntry × List LogEntry)) : Option Res :=
  match e with
  | none =>
    match exec i (s.fedMma i (Vector.replicate 8 [⟨0, s.curCore, 4, 0, 0, 0, 0⟩])) with
    | .next v => if v.waited then none else some (.next (s.alone (v.fedMma i s.here.queues)))
    | r => some r
  | some (e, rest) =>
    let u := s.offer i e
    match exec i u with
    | .next v =>
      if v.waited then none
      else if wantsValue s v then
        match finish s 2 id with
        | .next w => if w.waited then none else some (.next ((w.payload t i e false).took s.curCore t rest))
        | r => some r
      else
        let w := (s.alone v).payload t i e true
        some (.next ((if e.kind == 3 then w.updHere (fun k => { k with queues := s.here.queues }) else w).took s.curCore t rest))
    | r => some r

/-! ### The turn of a replayed slot -/

/-- An operation that waits for a value. -/
def Op.takesValue (o : Op) : Bool :=
  !o.failed && (match o.kind with
    | .marked _ _ => true
    | .rmw _ _ => true
    | .result => true
    | _ => false)

/-- The oldest operation of a slot that waits for a value. -/
def valueOp (s : State) (c : Nat) (t : Fin 4) : Option Op := (s.core c).ops.find? (fun o => o.slot == t && o.takesValue)

/-- The oldest operation of a slot that waits for a value of so many bytes: 64 for a vector register, 8 for a general one (log entry 67). -/
def replyOp (s : State) (c : Nat) (t : Fin 4) (n : Nat) : Option Op :=
  (s.core c).ops.find? (fun o => o.slot == t && o.takesValue && (match o.dest with | .v _ => n == 64 | _ => n == 8))

/-- The queue that a slot's MMA pops, while it holds fewer than eight entries. -/
def mtxWants (s : State) (c : Nat) (t : Fin 4) : Option (Fin 8) :=
  match (s.core c).owner == some t, (s.core c).mtxQ with
  | true, .mma _ _ _ _ _ _ src q _ _ _ _ _ :: _ => if src == 1 && ((s.core c).queues.get q).length < 8 then some q else none
  | _, _ => none

/-- An entry that an instruction does not take: a landed block is written, a trap is raised, the oldest operation takes its value, or the
matrix unit an entry of its queue.  A mark ends the replay. -/
def replayEntry (s : State) (t : Fin 4) (e : LogEntry) (rest : List LogEntry) : Option State :=
  let c := s.curCore
  match e.kind with
  | 1 =>
    (replyOp s c t e.payload.length).map (fun o =>
      (((s.setDest c t o.dest (natOfBytes e.payload)).completeOp c o none).updSlotAt c t (fun l => { l with lrw := none })).took c t rest)
  | 3 =>
    (mtxWants s c t).map (fun (q : Fin 8) =>
      let x : QEntry := ⟨BitVec.ofNat 512 (imgNat e.payload 0 64), c, 4, 0, 0, 0, 0⟩
      (s.updCore c (fun k => { k with queues := k.queues.set q (k.queues.get q ++ [x]) q.isLt })).took c t rest)
  | 6 => some ((s.putBytes (tillKey c (imgNat e.payload 0 8)) (e.payload.drop 8)).took c t rest)
  | 7 =>
    let s1 := match valueOp s c t with
      | some o => if e.payload.getD 0 0 == causeVAULTEV then s else s.completeOp c o none
      | none => s
    some ((s1.took c t rest).trap (e.payload.getD 0 0) (e.payload.getD 1 0) (BitVec.ofNat 64 (imgNat e.payload 8 8)))
  | _ => none

/-- A slot's turn in a replay, with the entries still to come. -/
def replayTurn (s : State) (t : Fin 4) (log : List LogEntry) : Option Res :=
  let issue := fun (e : Option (LogEntry × List LogEntry)) =>
    match slotGate s t with
    | .wait => none
    | .done u => some (.next u)
    | .run i u => replayIssue u t i (e.filter (fun x => loggedKind i == some x.1.kind))
  match log with
  | [] => issue none
  | e :: rest =>
    if !s.unitMode || s.slot.instret.toNat < e.instret.toNat then issue none
    else if e.kind == 8 then none
    else
      match replayEntry s t e rest with
      | some u => some (.next u)
      | none => issue (some (e, rest))

end Sys2Proof.Machine
end

