-- ==== Sys2Proof/Machine/TrapCode.lean ====
section
/-!
DEFINITION. The device runtime's resident trap code (17_programs_dedup_matmul.md, R412, Table 17.1), which stands at 0x6000, TRAPVEC's
reset value, and runs in system mode in the trapping slot.  The specification gives what it does for each cause and not its words: a slot
that stands at its first word performs the actions, with the coins that they charge (log entry 68).
-/
namespace Sys2Proof.Machine

/-- A slot stands at the first word of the resident trap code. -/
def inTrapCode (s : State) : Bool :=
  !s.isTeller && !s.unitMode && s.pc == 0x6000 && s.slot.trapvec == 0x6000 && s.slot.rpt.isNone

/-- How far the code has come. -/
def trapStage (s : State) : Nat := (s.slot.trapWork.map (fun w => w.stage)).getD 0

/-- What the code has read last. -/
def trapValue (s : State) : Word := (s.slot.trapWork.map (fun w => w.value)).getD 0

def State.setTrapWork (s : State) (w : Option TrapWork) : State := s.updSlot (fun l => { l with trapWork := w })

/-- A part of the code ends with the slot at its first word still. -/
def State.goStage (s : State) (n : Nat) (keep : Word) : State := s.setTrapWork (some ⟨n, 0, keep, s.slot.trapWork.any (fun w => w.record)⟩)

/-- ERET ends the code, to the instruction it leads to; INSTRET has counted the code's instructions. -/
def State.leaveTrap (s : State) (back : BitVec 15) : State :=
  ((s.setTrapWork none).updSlot (fun l => { l with trappc := back, instret := l.instret + Config.trapInstrs l.trapcause })).eretState

/-- The temperature subscription of Table 17.1: falling, 100 C, the notify word in the job's runtime page. -/
def trapRecord17 (region : Nat) (notify : Word) : List Byte :=
  [2, 2] ++ bytesOf 2 region ++ bytesOf 4 0 ++ bytesOf 8 800 ++ bytesOf 8 notify.toNat ++ bytesOf 8 0

/-- The REGION of a row of the executing core. -/
def trapRegion (s : State) (va : Word) : Nat :=
  let layer := match homedHere s va with
    | .ok p => vaultOff p va / 2 ^ 21
    | .error _ => 0
  coreCell layer s.curCore

/-- An operation of the code whose result it takes itself. -/
def State.codeOp (s : State) (kind : OpKind) (addr : Word) : State := s.startOp kind addr 0 .code none 1 none

/-- The code reads a word with RLD.acq. -/
def readNotify (s : State) (va : Word) (next : Nat) (keep : Word) : Res :=
  if !s.canJoin || !holdFree s va then notReady s
  else
    paying s (42 + routeHops s (heldRoute s va)) (fun p =>
      .next ((p.request va 0 (.marked 8 false) 0 .code (.load va 8)).goStage next keep))

/-- The value of a notify word in [47:0]. -/
def notified (x : Word) : Int := (x.extractLsb' 0 48).toInt

/-- The subscription ends and the slot returns to the stopped instruction. -/
def endHeat (s : State) (num : Word) : Res :=
  if !s.canJoin then notReady s
  else
    paying s 12 (fun p =>
      .next (((p.startOp .sent num 0 .none none 1 none).toRoot (.unsubs (s.me s.nextOpId) (num.extractLsb' 0 8))).leaveTrap p.slot.trappc))

/-- VAULTEV HEAT: SUBS, AWAIT 0, which any fault record of the unit traps at (R170), then a wait until the cell has cooled, UNSUBS and ERET. -/
def trapHeat (s : State) : Res :=
  let notify := Config.runtimeWord s.job s.slot.unitid
  let keep := (s.slot.trapWork.map (fun w => w.keep)).getD 0
  match trapStage s with
  | 0 =>
    if !s.canJoin then notReady s
    else
      paying s (10 + Config.trapCoins s.slot.trapcause) (fun p =>
        .next (((p.codeOp .result notify).toRoot (.subs (s.me s.nextOpId) (trapRecord17 (trapRegion s s.slot.trapval) notify))).goStage 1 0))
  | 1 =>
    match s.slot.fault with
    | some f => .next (s.trapRecord f)
    | none => if opsLive s s.curCore s.curSlotNo then notReady s else readNotify s notify 2 (trapValue s &&& 0xFF)
  | 2 =>
    if opsLive s s.curCore s.curSlotNo then notReady s
    else if notified (trapValue s) < 800 then endHeat s keep
    else readNotify s notify 3 (keep ||| (trapValue s &&& ~~~0xFFFFFFFFFFFF))
  | _ =>
    if opsLive s s.curCore s.curSlotNo then notReady s
    else if trapValue s >>> 48 != keep >>> 48 then endHeat s keep
    else readNotify s notify 3 keep

/-- A fault raised at a local write, and not by a fault record: the instruction that TRAPPC names writes with class L. -/
def localWriter (s : State) : Bool :=
  !s.slot.trapWork.any (fun w => w.record) &&
  match instrOf (s.storeWord s.curCore s.slot.trappc) with
  | .st .. | .stv .. | .stvs .. | .stvx .. | .tst .. | .amoAdd .. | .amoAnd .. | .amoOr .. | .amoXor .. | .amoMin .. | .amoMax ..
  | .amoMinu .. | .amoMaxu .. | .amoSwap .. | .amoCas .. => true
  | _ => false

/-- PAGEFAULT COW of a local write: a COWBREAK request to the page's clearing core, its reply, and ERET. -/
def trapCow (s : State) : Res :=
  let vpn := vpnOf s.slot.trapval
  let d := clearingPlace s s.job vpn
  if trapStage s = 0 then
    if !s.canJoin then notReady s
    else
      paying s (2 + 2 * s.hopsDst s.curCore d + Config.trapCoins s.slot.trapcause) (fun p =>
        .next (((p.codeOp .result s.slot.trapval).post d 7 (s.me s.nextOpId) (.page (.cowbreak s.job vpn) none)).goStage 1 0))
  else if opsLive s s.curCore s.curSlotNo then notReady s
  else paying s 2 (fun p => .next (p.leaveTrap p.slot.trappc))

/-- Any other cause: LCANCEL of the unit's launch, and both hubs are told; the slot waits for the cancel. -/
def trapOther (s : State) : Res :=
  if trapStage s != 0 || !s.canJoin then notReady s
  else
    paying s (10 + Config.trapCoins s.slot.trapcause) (fun p =>
      .next ((((p.startOp .sent 0 0 .none none 1 none).toRoot (.cancel (s.me s.nextOpId) 0 s.slot.launchid)).toHubs
        (.told 7 (s.slot.trapcause.zeroExtend 64))).goStage 1 0))

/-- TRAP 16 and TRAP 17: a STATUS bit is set, and the slot returns behind the TRAP. -/
def trapSets (s : State) (bit : BitVec 5) : Res :=
  paying s (2 + Config.trapCoins s.slot.trapcause) (fun p =>
    .next ((p.updCtx (fun r => { r with status := r.status ||| bit })).leaveTrap (p.slot.trappc + 4)))

/-- A fault record of the code's own operations traps in system mode (R31). -/
def trapFaults (s : State) (f : FaultRec) : Res :=
  if opsLive s s.curCore s.curSlotNo then notReady s else .next (s.trapRecord f)

/-- Table 17.1: the action for the trap that the slot has taken. -/
def trapAction (s : State) : Res :=
  match s.slot.fault.filter (fun f => f.pc == 0x6000) with
  | some f => trapFaults s f
  | none =>
  if s.slot.trapcause == 0x000F && s.slot.trapval == 16 then trapSets s 0b00100
  else if s.slot.trapcause == 0x000F && s.slot.trapval == 17 then trapSets s 0b00010
  else if s.slot.trapcause == 0x0208 then trapHeat s
  else if s.slot.trapcause == 0x0306 && localWriter s then trapCow s
  else trapOther s

/-- The turn of a slot in the resident trap code. -/
def trapGate (s : State) (t : Fin 4) : Option Res :=
  if slotHeld s t then none
  else if !s.slot.resumed && breakpointAt s t then some (.next (s.stopSlot s.curCore t 4))
  else
    match trapAction s with
    | .next v => if v.waited then none else some (.next v)
    | r => some r

end Sys2Proof.Machine
end

