-- ==== Sys2Proof/Machine/Sched.lean ====
section
/-!
DEFINITION. Which agent moves next (01_instant_state.md, R39 to R43; log entry 1): a core's issue ring, a machine step that the
agenda names, or one that has its occasion.
-/
namespace Sys2Proof.Machine

/-! ### The issue ring (R39 to R41) -/

/-- The context at a ring position. -/
def ringWho (p : Fin 6) : Who :=
  match p.val with
  | 0 => .slot 0
  | 2 => .slot 1
  | 3 => .slot 2
  | 5 => .slot 3
  | _ => .teller

/-- The state in which a context tries its turn. -/
def State.atTurn (s : State) (c : Nat) (w : Who) : State := { s with curCore := c, curWho := w, waited := false }

/-- What a gate's answer leads to: none while the context is not ready. -/
def goOn (g : Go) : Option Res :=
  match g with
  | .wait => none
  | .done u => some (.next u)
  | .run i u =>
    match exec i u with
    | .next v => if v.waited then none else some (.next v)
    | r => some r

/-- The first of some steps that changes the state. -/
def firstChange (s : State) : List (State → State) → Option State
  | [] => none
  | f :: fs => if f s = s then firstChange s fs else some (f s)

/-- What a resident handler does: the request it serves, or passes on (Table 10.3). -/
def residentSteps (c : Nat) : List (State → State) :=
  [fun s => s.serveLoad c, fun s => s.serveStore c, fun s => s.serveAtomic c, fun s => s.serveClaim c, fun s => s.serveLrw c,
    fun s => s.serveSch c, fun s => s.serveTile c, fun s => s.serveFpr c, fun s => s.serveArrive c, fun s => s.servePush c,
    fun s => s.entryForward c, fun s => s.spanPerform c, fun s => s.openSpan c, fun s => s.countSpan c, fun s => s.retireSpan c,
    fun s => s.poolMake c, fun s => s.poolSize c, fun s => s.poolFree c, fun s => s.performPmap c, fun s => s.performMap c,
    fun s => s.performUnmap c, fun s => s.performRehome c, fun s => s.performCopy c, fun s => s.performCowbreak c,
    fun s => s.decideCow c, fun s => s.takeShoot c, fun s => s.codeLoad c, fun s => s.reserve c, fun s => s.migTake c, fun s => s.restoreServe c,
    fun s => s.takeShootAck c, fun s => s.forward c]

/-- The turn of a position: a slot, a user handler's activation, a resident handler's, or an idle teller, which takes up a landed
message (R41); none when it is not ready. -/
def turn (s : State) (c : Nat) (w : Who) : Option Res :=
  let u := s.atTurn c w
  match w with
  | .slot t =>
    if inTrapCode u then trapGate u t
    else
    match (s.slotAt c t).replaying with
    | none => goOn (slotGate u t)
    | some log => replayTurn u t log
  | .teller =>
    match (s.core c).teller.act with
    | some a => if a.handler.toNat < 16 then (firstChange u (residentSteps c)).map .next else goOn (handlerGate u a)
    | none => if (nextLanded (s.core c)).isNone || (s.core c).teller.stopped then none else some (.next (u.activate c))

/-- A search passes a position: a slot that has executed YIELD may issue from then on (R122). -/
def State.pass (s : State) (c : Nat) (w : Who) : State :=
  match w with
  | .slot t => if (s.slotAt c t).yielded then s.updSlotAt c t (fun l => { l with yielded := false }) else s
  | .teller => s

/-- A slot that the ring must pass once. -/
def yieldHolds (s : State) (c : Nat) (w : Who) : Bool :=
  match w with
  | .slot t => (s.slotAt c t).yielded
  | .teller => false

/-- A slot whose next charge the heat meter does not cover holds every slot of its core (R393). -/
def State.heatMark (s : State) (c : Nat) (w : Who) : State :=
  match w with
  | .slot _ =>
    if (s.core c).heat = 0 || (s.core c).heatHeld || yieldHolds s c w then s
    else if (turn s c w).isNone && (turn (s.updCore c (fun k => { k with heat := 0 })) c w).isSome then s.updCore c (fun k => { k with heatHeld := true })
    else s
  | .teller => s

/-- The slots of a core tested against its heat meter, ahead of the search (R393). -/
def State.heatMarks (s : State) (c : Nat) : State :=
  if (s.core c).heat = 0 || (s.core c).heatHeld then s else (List.finRange 4).foldl (fun t i => t.heatMark c (.slot i)) s

/-- After an issue: what was traced or logged is taken up, a debug stop takes its slot, and a slot that is to leave drains
(R285, R456, R459, R460). -/
def State.afterIssue (s before : State) : State :=
  let s1 := s.takeNotes.countRecord before
  match before.curWho with
  | .slot t => (s1.debugBoundary before.curCore t).drainBoundary before.curCore t
  | .teller => s1

/-- A slot has issued in a cycle (R453). -/
def State.issuedAs (s : State) (c : Nat) (w : Who) (n : Word) : State :=
  match w with
  | .slot t => { s with issued := some (c, t, n) }
  | .teller => s

/-- The search from a position, over so many positions: what issues, or the state after a search that finds nobody ready. -/
def search (c : Nat) : Nat → Fin 6 → State → Except State Res
  | 0, _, s => .error s
  | n + 1, p, s =>
    let w := ringWho p
    match (if yieldHolds s c w then none else turn s c w) with
    | some (.next v) => .ok (.next (((v.afterIssue (s.atTurn c w)).updCore c (fun k => { k with ring := p + 1 })).issuedAs c w s.cycle))
    | some r => .ok r
    | none => search c n (p + 1) (s.pass c w)

/-! ### Sleep (R42) -/

/-- A position whose context has something to do. -/
def busyAt (s : State) (c : Nat) (w : Who) : Bool :=
  match w with
  | .slot t => (s.slotAt c t).phase != .empty
  | .teller => (s.core c).teller.act.isSome || (nextLanded (s.core c)).isSome

/-- The contexts of a core. -/
def contexts : List Who := [.slot 0, .teller, .slot 1, .slot 2, .slot 3]

/-- A core with a full purse and a heat meter at zero. -/
def State.rich (s : State) (c : Nat) : State :=
  (s.setPurse c (2 ^ 20)).updCore c (fun k => { k with heat := 0, heatHeld := false })

/-- Every context that is not empty is not ready only because of coins: with enough of them it would be. -/
def sleeps (s : State) (c : Nat) : Bool :=
  let cs := contexts.filter (busyAt s c)
  !cs.isEmpty && cs.all (fun w => !yieldHolds s c w && (turn s c w).isNone && (turn (s.rich c) c w).isSome)

/-- After a tick: a sleeping core whose purse now covers a waiting context's next charge wakes (R392); one that only its heat meter keeps from
it sleeps because of the hold from now on, and wakes with the next window, which may be this one (R393). -/
def State.wakeDue (s : State) : State :=
  s.coreList.foldl (fun t c =>
    if !(t.core c).asleep then t
    else if contexts.any (fun w => busyAt t c w && (turn t c w).isSome) then t.updCore c Core.awake
    else t.heatMarks c) s

/-- What follows a step in which a tick may have run. -/
def State.afterTick (s before : State) : State := if s.tick == before.tick then s else s.wakeDue

/-! ### Turns of a core -/

/-- A cycle has passed: a visit of an octet's round may end (R294), and a refresh that begins or ends in the new one meets an open row
(R244). -/
def State.nextCycle (s : State) : State :=
  let t : State := ({ s with cycle := s.cycle + 1, waited := false } : State).yields
  t.cores.foldl (fun u p => p.2.banks.foldl (fun w b => if b.2.row.isSome then w.refreshDue p.1 b.1 else w) u) t

/-- The core whose ring moves after a core's: the next one in the table, round and round. -/
def nextCore (s : State) (c : Nat) : Nat :=
  match s.cores.find? (fun p => c < p.1) with
  | some p => p.1
  | none => match s.cores with | p :: _ => p.1 | [] => c

/-- A core's cycle, when some context issues in it; else the state after the search. -/
def coreTurn (s : State) (c : Nat) : Except State Res :=
  if !s.powered || s.bootStep < 4 || !s.isActive c || (s.core c).asleep then .error s
  else search c 6 (s.core c).ring (s.heatMarks c)

/-- Nobody issues: the core may fall asleep. -/
def State.rest (s : State) (c : Nat) : State :=
  if s.powered && s.isActive c && !(s.core c).asleep && sleeps s c then s.updCore c (fun k => { k with asleep := true }) else s

/-! ### Machine steps with an occasion -/

/-- What the message at the head of a core's router can do there. -/
def arrivals (c : Nat) : List (State → State) :=
  [fun s => s.landMessage c, fun s => s.shootPast c, fun s => s.remoteReply c, fun s => s.writeAck c, fun s => s.claimReply c, fun s => s.lrwGrant c,
    fun s => s.deferredReply c, fun s => s.copyBlockLanding c, fun s => s.copyBlockAck c, fun s => s.queueEntryLanding c,
    fun s => s.queueCredit c]

/-- What a slot's tile instruction, departure or arrival can do. -/
def slotSteps (c : Nat) (t : Fin 4) : List (State → State) :=
  [fun s => s.asSlot c t State.rowWritten, fun s => s.asSlot c t State.rowStep, fun s => s.migrateStep c t, fun s => s.preemptSave c t,
    fun s => s.migStub c t, fun s => s.restoreStep c t, fun s => s.resume c t, fun s => s.unpark c t, fun s => s.stopLater c t]

/-- A machine step's meaning as a step that always has an outcome. -/
def resultOr (s : State) (r : Res) : State :=
  match r with
  | .next t => t
  | _ => s

/-- What a bank of a core can do. -/
def bankSteps (c z : Nat) : List (State → State) :=
  [fun s => s.bankAct c z, fun s => s.rowRepair c z, fun s => s.frameWithdraw c z, fun s => s.frameEvacuate c z,
    fun s => s.spokeRetired c z] ++
  (List.finRange 9).map (fun g s => s.laneSteer c z g)

/-- What a core's matrix unit, vault, barriers, page services and store can do. -/
def coreSteps (s : State) (c : Nat) : List (State → State) :=
  [fun s => s.mtxKStep c, fun s => resultOr s (execMtxMzeroPerform c s), fun s => resultOr s (execMtxMstPerform c s),
    fun s => resultOr s (execMtxMldcPerform c s), fun s => resultOr s (execMtxMcfgPerform c s), fun s => resultOr s (execMtxMprogPerform c s)] ++
  (s.core c).banks.flatMap (fun b => bankSteps c b.1) ++
  (List.finRange 16).map (fun b s => resultOr s (execBarrierCarriedPhase c b s)) ++
  [fun s => s.performStub c, fun s => s.performFree c, fun s => s.endCow c, fun s => s.endGrants c, fun s => s.imageLoad c, fun s => s.rebuildPages c, fun s => s.logGo c, fun s => s.keepLog c,
    fun s => s.copyBlockLanding c, fun s => s.pushHalted c]

/-- A launch's next unit is placed, or a saved one restored, where the distributor chooses. -/
def State.placeNext (s : State) (l : Launch) : State :=
  match (if l.waits then l.nextUnits.findSome? (fun u => (site s l u).map (fun x => (u, x))) else none) with
  | none => s
  | some (u, c, t) => if l.next < l.desc.units then s.unitPlace l.num.toNat c t else s.unitRestore l.num.toNat u c t

/-- What the distributor can do for a launch. -/
def launchSteps (l : Launch) : List (State → State) :=
  [fun s => s.predecessors l.num.toNat, fun s => s.placeNext l, fun s => s.tensorFirst l.num.toNat, fun s => s.tensorLast l.num.toNat]

/-- Store lines that a fetch has found bad (R429). -/
def lineSteps (s : State) : List (State → State) :=
  s.bad.filterMap (fun b =>
    let off := keyOff b
    let c := keyCore b
    if b == storeKey c (off - storeKey 0 0) && off - storeKey 0 0 < 0x8000 then some (fun s => s.storeRewrite c ((off - storeKey 0 0) / 64)) else none)

/-- What the distributor root, the hubs and the rim can do. -/
def rootSteps : List (State → State) :=
  [State.launchAccept, State.unitCompletion, State.lstatPerform, State.cancelPerform, State.tregPerform, State.pursePerform,
    State.subsPerform, State.unsubsPerform, State.notifyWrite, State.crinitPerform, State.craddCount, State.roundOn, State.rimSend,
    fun s => s.hubCommand .a, fun s => s.hubCommand .b, fun s => s.hubSend .a, fun s => s.hubSend .b]

/-- A list begun at another place. -/
def rotate {α : Type} (n : Nat) (xs : List α) : List α :=
  let k := n % max 1 xs.length
  xs.drop k ++ xs.take k

/-- The machine steps that may have an occasion, in an order that moves on with the cycle. -/
def occasions (s : State) : List (State → State) :=
  let cs := s.cores.map (fun p => p.1)
  let dsts := (s.net.map (fun m => m.dst)).eraseDups
  rotate s.cycle.toNat (rootSteps ++ s.dist.launches.flatMap launchSteps ++ lineSteps s ++ dsts.flatMap arrivals ++
    cs.flatMap (fun c => coreSteps s c ++ (List.finRange 4).flatMap (slotSteps c)))

/-- A machine step that has its occasion. -/
def autonomous (s : State) : Option State :=
  if !s.powered then none else (firstChange s (occasions s)).map (fun t => t.takeNotes)

/-! ### The agenda -/

/-- A choice that names a machine step, with parts that exist (Table 0.2). -/
def eventOk (i : Instr) : Bool :=
  !i.isWord && i.wf && (match i with | .illegalWord _ => false | _ => true)

/-- A message starts in a cycle after the one in which it landed, when all that landed with it are there (R268). -/
def State.startLate (s : State) (c : Nat) : State :=
  if freshLanded s c != 0 && (s.core c).ready.isEmpty && (s.core c).landed.length == freshLanded s c && (s.core c).teller.act.isNone then s.nextCycle
  else s

/-- The slots that are ready, by core, as the ring would find them; those of a sleeping core are not (R40, R42, R453). -/
def readyTable (s : State) : Tab Nat :=
  s.cores.filterMap (fun p =>
    let n := ((List.finRange 4).filter (fun t => (s.slotAt p.1 t).phase == .run && !yieldHolds s p.1 (.slot t) &&
      (turn s p.1 (.slot t)).isSome)).foldl (fun n t => n + 2 ^ t.val) 0
    if n = 0 || p.2.asleep then none else some (p.1, n))

/-- A machine step that the agenda names. -/
def eventTurn (i : Instr) (s : State) : Res :=
  if !eventOk i then .fault .noSuchPart
  else
    match exec i (match i with
      | .handlerActivation c => s.startLate c
      | .cadencePulse => { s with readySlots := readyTable s }
      | _ => s) with
    | .next t => .next { t.takeNotes.afterTick s with waited := false }
    | r => r

/-- The agenda's head, or what moves when it is empty: the mint, the heat meters and, once the tick's cycle is over, the cadence pulse, and else
the ring of the focus and the machine steps, which take the first place in turn. -/
def choose (s : State) : Res :=
  match s.agenda with
  | .event i :: rest => eventTurn i { s with agenda := rest }
  | .hub h a :: rest => .next (({ s with agenda := rest } : State).hubAct h a)
  | .core c :: rest =>
    if 262144 ≤ c then .fault .noSuchPart
    else
      match coreTurn (({ s with agenda := rest } : State).startLate c) c with
      | .ok (.next t) => .next t.nextCycle
      | .ok r => r
      | .error t => .next (t.rest c).nextCycle
  | [] =>
    if s.powered && s.tick < s.cycle.toNat / 700 then .next (s.mintTick.afterTick s)
    else if s.powered && s.windows < s.tick / 10 then .next s.heatWindow
    else if s.powered && s.cadDue && s.cycle.toNat % 700 != 0 then .next ({ s with readySlots := readyTable s } : State).pulse
    else
      let u := { s with focus := nextCore s s.focus }
      let ring := fun (k : State → Res) =>
        match coreTurn u s.focus with
        | .ok (.next t) => .next t.nextCycle
        | .ok r => r
        | .error t => k (t.rest s.focus)
      let steps := fun (k : State → Res) (t : State) =>
        match autonomous t with
        | some v => .next v.nextCycle
        | none => k t
      if s.cycle.toNat % 2 = 0 then ring (steps (fun t => .next t.nextCycle)) else steps (fun _ => ring (fun t => .next t.nextCycle)) s

end Sys2Proof.Machine
end

