-- ==== Sys2Proof/Machine/Step.lean ====
section
/-!
DEFINITION. The step of the machine, and the placing of one instruction where the next step fetches.
-/
namespace Sys2Proof.Machine

/-- One step of the module: next state, fault or refusal. -/
def step (s : State) : Host.Outcome State Fault Refusal := choose s

/-- A unit in slot 0 of core 0, in unit mode at PC 0. -/
def firstUnit (l : Slot) : Slot := { l with phase := .run }

/-- The state with an instruction at PC 0 of core 0, whose slot 0 holds a running unit and whose purse is full: what the placement of
a unit with that program leaves there (log entry 17). -/
def State.withFetchWord (s : State) (nbits w : Nat) : State :=
  let p := s.setPurse 0 (2 ^ 20)
  let q := p.updSlotAt 0 0 firstUnit
  { q with mem := q.mem.writeNat (storeKey 0 0) 4 (w % 2 ^ nbits), agenda := [], focus := 0 }

end Sys2Proof.Machine
end

