-- ==== Sys2Proof/Safety.lean ====
section
/-!
DEFINITION. The terms in which claims are made: what an instruction leaves alone, what it costs, where it goes on, and the
invariants of the state.
-/
namespace Sys2Proof.Machine

/-! ### Going on (R23, R111, R112) -/

/-- The RPT whose frame words the executing context issues. -/
def State.replay (s : State) : Option Rpt := if s.isTeller then none else s.slot.rpt

/-- Replays still to run, the replay's number and the frame word's number, as Table 4.12 lays them out. -/
def Rpt.rem (x : Word) : Nat := x.toNat % 2 ^ 32
def Rpt.turn (x : Word) : Nat := x.toNat / 2 ^ 32 % 2 ^ 5
def Rpt.word (x : Word) : Nat := x.toNat / 2 ^ 40 % 2 ^ 4

/-- The frame's last word is the one that issues. -/
def Rpt.endsTurn (r : Rpt) (x : Word) : Bool := r.n.toNat + 1 ≤ Rpt.word x + 1

/-- It is the last replay, too. -/
def Rpt.ends (r : Rpt) (x : Word) : Bool := r.endsTurn x && Rpt.rem x ≤ 1

/-- The progress value after a frame word (R112). -/
def Rpt.next (r : Rpt) (x : Word) : Word :=
  if r.endsTurn x then State.progress (Rpt.rem x - 1) (Rpt.turn x + 1) 0 else State.progress (Rpt.rem x) (Rpt.turn x) (Rpt.word x + 1)

/-- The PC after an instruction that ends: the next word; inside a frame the PC stays at the RPT, until the last word of the last
replay leads past the frame. -/
def State.nextPc (s : State) : BitVec 15 :=
  match s.replay with
  | none => s.pc + 4
  | some r => if r.ends (s.g r.c) then s.pc + 4 + 4 * (r.n.zeroExtend 15 + 1) else s.pc

/-- How many instructions INSTRET counts: the RPT itself counts with its last frame word. -/
def State.counts (s : State) : Word :=
  match s.replay with
  | none => 1
  | some r => if r.ends (s.g r.c) then 2 else 1

/-- A frame word ends: the progress goes to the count register in the same step. -/
def State.afterWord (u s : State) : State :=
  match s.replay with
  | none => u
  | some r =>
    let v := u.setG r.c (r.next (s.g r.c))
    if r.ends (s.g r.c) then v.updSlot (fun l => { l with rpt := none }) else v

/-! ### Costs and frames -/

/-- Whose account a context's coins are counted to (Table 15.4). -/
def State.payer (s : State) : Option (BitVec 24) :=
  if s.isTeller then s.here.teller.act.map (fun a => a.job) else some s.slot.jobid

/-- A slot without what every instruction changes. -/
def Slot.bare (l : Slot) : Slot :=
  { l with coinspent := 0, instret := 0, lastPc := 0, resumed := false, watchMet := false, stepDue := false, ctx := { l.ctx with pc := 0 } }

/-- A teller without what every instruction changes. -/
def Teller.bare (k : Teller) : Teller :=
  { k with ctx := { k.ctx with pc := 0 }, act := k.act.map (fun a => { a with count := 0 }) }

/-- The state without what every instruction of the executing context changes: coins, counts, PC.  Two states that agree in this
agree in every other register, in all memory, and in every other part of the module. -/
def State.bare (s : State) : State :=
  let s1 := s.setPurse s.curCore 0
  let s2 := s1.updCore s.curCore (fun k =>
    { k with
      heat := 0
      slots := if s.isTeller then k.slots else k.slots.set s.curSlotNo (k.slots.get s.curSlotNo).bare s.curSlotNo.isLt
      teller := if s.isTeller then k.teller.bare else k.teller })
  { s2 with
    housekeeping := 0
    dist := { s2.dist with jobs := s2.dist.jobs.map (fun j => { j with coins := 0 }) } }

/-- n coins have been drawn from the core's purse and counted to the payer's account (R16, R387); a slot's count against its
COINSPENT and the core's heat meter too (R393).  `own` more are the module's own, on the housekeeping account (Table 15.4). -/
structure Paid (s t : State) (n : Nat) (own : Int := 0) : Prop where
  purse : t.purse s.curCore = s.purse s.curCore - n
  house : t.housekeeping = (s.countTo s.payer n).housekeeping + own
  jobs : t.dist.jobs = (s.countTo s.payer n).dist.jobs
  spent : s.isTeller = false → t.slot.coinspent = s.slot.coinspent + BitVec.ofNat 64 n
  heat : s.isTeller = false → t.here.heat = s.here.heat + n

/-- An instruction that takes n coins has run from s to t, and its effect on s is u: t is u but for the costs, the counts, the PC
and, inside an RPT's frame, the count register. -/
structure Ran (s t u : State) (n : Nat) : Prop where
  paid : Paid s t n (u.housekeeping - s.housekeeping)
  pc : t.pc = s.nextPc
  retired : s.isTeller = false → t.slot.instret = s.slot.instret + s.counts
  last : s.isTeller = false → s.replay = none → t.slot.lastPc = s.pc
  regs : ∀ r, t.g r = (u.afterWord s).g r
  rows : ∀ r, t.v r = u.v r
  masks : ∀ r, t.m r = u.m r
  bytes : ∀ a, t.mem.read a = u.mem.read a
  rest : t.bare = (u.afterWord s).bare

/-- The instruction completes from s at the cost of n coins, with the effect u. -/
def Completes (i : Instr) (s : State) (n : Nat) (u : State) : Prop := ∃ t, exec i s = .next t ∧ Ran s t u n

/-- The instruction completes from s with x in g[d]; a result for g0 is discarded, and every other register keeps its value (an
RPT's count register moves on with its frame). -/
def GivesG (i : Instr) (s : State) (n : Nat) (d : BitVec 5) (x : Word) : Prop :=
  ∃ t, exec i s = .next t ∧ Ran s t (s.setG d x) n ∧
    (s.replay = none → ∀ r, t.g r = if r = 0 then 0 else if r = d then x else s.g r)

/-- The instruction completes from s with x in v[d]; every other row keeps its value. -/
def GivesV (i : Instr) (s : State) (n : Nat) (d : BitVec 5) (x : Row) : Prop :=
  ∃ t, exec i s = .next t ∧ Ran s t (s.setV d x) n ∧ ∀ r, t.v r = if r = d then x else s.v r

/-- The instruction completes from s with a floating-point result in g[d], zero above its bits, and its flags set in FPMODE. -/
def GivesF (i : Instr) (s : State) (n : Nat) (d : BitVec 5) (x : FOut) : Prop :=
  ∃ t, exec i s = .next t ∧ Ran s t ((s.setG d (BitVec.ofNat 64 x.bits)).raise x.fl) n ∧
    t.ctx.fpmode = s.ctx.fpmode ||| (x.fl ++ 0#8) ∧
    (s.replay = none → ∀ r, t.g r = if r = 0 then 0 else if r = d then BitVec.ofNat 64 x.bits else s.g r)

/-- The instruction completes from s with x in m[d]; a result for m0 is discarded, and every other mask register keeps its value. -/
def GivesM (i : Instr) (s : State) (n : Nat) (d : BitVec 3) (x : Word) : Prop :=
  ∃ t, exec i s = .next t ∧ Ran s t (s.setM d x) n ∧
    ∀ r, t.m r = if r = 0 then BitVec.allOnes 64 else if r = d then x else s.m r

/-- A vector instruction completes: it pops `pop`, and writes v[d] element by element: where `act` holds the element is f's, and
elsewhere it is the old one. -/
def GivesLanes (i : Instr) (s : State) (n : Nat) (pop : Option (Fin 8)) (d : BitVec 5) (e : Nat) (act : Nat → Bool) (f : Nat → Nat) :
    Prop :=
  ∃ t x, exec i s = .next t ∧ Ran s t ((s.popOpt pop).setV d x) n ∧ (∀ r, t.v r = if r = d then x else s.v r) ∧
    ∀ j, j < 64 / e → lane e x j = if act j then f j % 2 ^ (8 * e) else lane e (s.v d) j

/-- As `GivesLanes`, with flags: a flag is set that was set or that an active element raises. -/
def GivesFLanes (i : Instr) (s : State) (n : Nat) (pop : Option (Fin 8)) (d : BitVec 5) (e : Nat) (act : Nat → Bool) (f : Nat → FOut) :
    Prop :=
  ∃ t x fl, exec i s = .next t ∧ Ran s t (((s.popOpt pop).setV d x).raise fl) n ∧ (∀ r, t.v r = if r = d then x else s.v r) ∧
    (∀ j, j < 64 / e → lane e x j = if act j then (f j).bits % 2 ^ (8 * e) else lane e (s.v d) j) ∧
    t.ctx.fpmode = s.ctx.fpmode ||| (fl ++ 0#8) ∧
    ∀ k, fl.getLsbD k = true ↔ ∃ j, j < 64 / e ∧ act j = true ∧ (f j).fl.getLsbD k = true

/-- A vector instruction completes with the row x in v[d] and the flags fl raised. -/
def GivesRow (i : Instr) (s : State) (n : Nat) (pop : Option (Fin 8)) (d : BitVec 5) (x : Row) (fl : FpFlags) : Prop :=
  ∃ t, exec i s = .next t ∧ Ran s t (((s.popOpt pop).setV d x).raise fl) n ∧ (∀ r, t.v r = if r = d then x else s.v r) ∧
    t.ctx.fpmode = s.ctx.fpmode ||| (fl ++ 0#8)

/-- A compare completes: bit j of m[d] is f's answer for the element that bit j lies in where that element is active, and the old
bit elsewhere. -/
def GivesBits (i : Instr) (s : State) (n : Nat) (pop : Option (Fin 8)) (d : BitVec 3) (e : Nat) (act : Nat → Bool) (f : Nat → Bool)
    (fl : FpFlags) : Prop :=
  ∃ t x, exec i s = .next t ∧ Ran s t (((s.popOpt pop).setM d x).raise fl) n ∧
    (∀ r, t.m r = if r = 0 then BitVec.allOnes 64 else if r = d then x else s.m r) ∧
    ∀ j, j < 64 → x.getLsbD j = if act (j / e) then f (j / e) else (s.m d).getLsbD j

/-- A conversion completes: n elements of e bytes, zero above them. -/
def GivesConv (i : Instr) (s : State) (pop : Option (Fin 8)) (d : BitVec 5) (n e : Nat) (act : Nat → Bool) (f : Nat → FOut) : Prop :=
  ∃ t x fl, exec i s = .next t ∧ Ran s t (((s.popOpt pop).setV d x).raise fl) 6 ∧ (∀ r, t.v r = if r = d then x else s.v r) ∧
    (∀ j, j < n → lane e x j = if act j then (f j).bits % 2 ^ (8 * e) else lane e (s.v d) j) ∧ x.toNat < 2 ^ (8 * e * n) ∧
    t.ctx.fpmode = s.ctx.fpmode ||| (fl ++ 0#8) ∧
    ∀ k, fl.getLsbD k = true ↔ ∃ j, j < n ∧ act j = true ∧ (f j).fl.getLsbD k = true

/-- The tree of R72 over a leaf function: node j of a level. -/
def treeNode {α : Type} (f : α → α → α) (leaf : Nat → Option α) : Nat → Nat → Option α
  | 0, i => leaf i
  | k + 1, j =>
    match treeNode f leaf k (2 * j), treeNode f leaf k (2 * j + 1) with
    | some x, some y => some (f x y)
    | some x, none => some x
    | none, y => y

/-- The places of the active elements of a vector access, in ascending order of the elements. -/
def places (mask : Word) (e : Nat) (loc : Nat → Loc) : List Loc :=
  ((List.range (64 / e)).filter (fun j => mask.getLsbD (j * e))).map loc

/-- What an access to some blocks does beside its own effect: it opens their rows and, for a read, counts their corrections. -/
def State.touched (s : State) (ls : List Loc) (reads : Bool) : State :=
  let bs := blocksOf ls
  let q := bs.foldl (fun q l => q.openRow s.curCore l.act) s
  if reads then bs.foldl (fun q l => q.corrected (l.key / 64 * 64)) q else q

/-- A transfer of control from s to the PC x, at the cost of n coins, with the effect u (R107, R109). -/
structure Jumped (s t u : State) (n : Nat) (x : BitVec 15) : Prop where
  paid : Paid s t n
  pc : t.pc = x
  retired : s.isTeller = false → t.slot.instret = s.slot.instret + 1
  last : s.isTeller = false → t.slot.lastPc = s.pc
  regs : ∀ r, t.g r = u.g r
  rows : ∀ r, t.v r = u.v r
  masks : ∀ r, t.m r = u.m r
  bytes : ∀ a, t.mem.read a = u.mem.read a
  rest : t.bare = u.bare

/-- A slot in unit mode has taken a trap (R30): the saved PC, the cause, the value, the mode and the target; and every other register,
all memory and every other slot and core are as before. -/
structure Entered (s t : State) (n : Nat) (cause sub : BitVec 8) (val : Word) : Prop where
  paid : Paid s t n
  trappc : t.slot.trappc = s.pc
  trapcause : t.slot.trapcause = sub ++ cause
  trapval : t.slot.trapval = val
  mode : t.ctx.status.getLsbD 0 = true
  pmode : t.ctx.status.getLsbD 4 = s.ctx.status.getLsbD 0
  others : t.ctx.status.extractLsb' 1 3 = s.ctx.status.extractLsb' 1 3
  pc : t.pc = s.slot.trapvec
  regs : ∀ r, t.g r = s.g r
  rows : ∀ r, t.v r = s.v r
  masks : ∀ r, t.m r = s.m r
  file : t.ctx.k = s.ctx.k ∧ t.ctx.fd = s.ctx.fd ∧ t.ctx.fpmode = s.ctx.fpmode
  count : t.slot.instret = s.slot.instret
  chans : t.slot.chans = s.slot.chans ∧ t.slot.nest = s.slot.nest ∧ t.slot.trapvec = s.slot.trapvec
  mem : t.mem = s.mem
  slots : ∀ k, k ≠ s.curSlotNo → t.slotAt s.curCore k = s.slotAt s.curCore k
  cores : ∀ c, c ≠ s.curCore → t.core c = s.core c

/-- A trap in the teller has ended its handler as a handler fault (R21, R31): both hubs get the record, and no register and no memory
changes. -/
def HandlerTraps (i : Instr) (s : State) (cause sub : BitVec 8) (val : Word) : Prop :=
  ∀ a, s.here.teller.act = some a →
    let r := HubRec.handlerFault (s.handlerFaultRec s.curCore a.handler s.here.teller.ctx.pc cause sub 0 val a.msg.src)
    ∃ t, exec i s = .next t ∧ t.here.teller.act = none ∧ t.here.teller.ctx = s.here.teller.ctx ∧ t.mem = s.mem ∧
      t.portA.events = s.portA.events ++ [r] ∧ t.portB.events = s.portB.events ++ [r]

/-- The instruction takes a trap from s. -/
def Traps (i : Instr) (s : State) (n : Nat) (cause sub : BitVec 8) (val : Word) : Prop :=
  ∃ t, exec i s = .next t ∧ Entered s t n cause sub val

/-! ### Rounding (R46 to R49, R61, Table 2.2) -/

/-- A power of two. -/
def pow2 (e : Int) : Rat := (2 : Rat) ^ e

/-- The rational number of a finite value (R46); 0 for an infinity and a NaN. -/
def FVal.rat : FVal → Rat
  | .fin n m e => (if n then -1 else 1) * (m : Rat) * pow2 e
  | _ => 0

/-- An exact magnitude, given by how it compares with each rational number. -/
abbrev Cut := Rat → Ordering

/-- The magnitude of a rational number. -/
def Cut.of (x : Rat) : Cut := fun r =>
  let y := if x < 0 then -x else x
  if y < r then .lt else if y = r then .eq else .gt

/-- The square root of a rational number that is not negative. -/
def Cut.sqrt (x : Rat) : Cut := fun r => if r < 0 then .gt else Cut.of x (r * r)

/-- A magnitude times 2^k. -/
def Cut.scaled (x : Cut) (k : Nat) : Cut := fun r => x (r * pow2 (-(k : Int)))

/-- The magnitude that an encoding without its sign stands for, with M mantissa bits, a least normal exponent and no greatest one (R46, R60). -/
def gridMag (man : Nat) (emin : Int) (b : Nat) : Rat :=
  if b < 2 ^ man then (b : Rat) * pow2 (emin - man)
  else ((2 ^ man + b % 2 ^ man : Nat) : Rat) * pow2 (emin - man + (b / 2 ^ man : Nat) - 1)

/-- Table 2.2: number b of a rising row of magnitudes, from zero on, is what a magnitude of a sign is rounded to. -/
def Rounds (g : Nat → Rat) (rm : Rm) (neg : Bool) (x : Cut) (b : Nat) : Prop :=
  let half := fun (k : Nat) => (g k + g (k + 1)) / 2
  let down := x (g b) ≠ .lt ∧ x (g (b + 1)) = .lt
  let up := x (g b) ≠ .gt ∧ (b = 0 ∨ x (g (b - 1)) = .gt)
  match rm with
  | .rne =>
    (x (half b) = .lt ∨ (x (half b) = .eq ∧ b % 2 = 0)) ∧
    (b = 0 ∨ x (half (b - 1)) = .gt ∨ (x (half (b - 1)) = .eq ∧ b % 2 = 0))
  | .rna => x (half b) = .lt ∧ (b = 0 ∨ x (half (b - 1)) ≠ .lt)
  | .rtz => down
  | .rup => if neg then down else up
  | .rdn => if neg then up else down

/-- R49: a non-zero magnitude is tiny. Rounded with an unbounded exponent, which is as if it were first scaled into the normal range, it
lies below 2^Emin. -/
def Tiny (man : Nat) (emin : Int) (rm : Rm) (neg : Bool) (x : Cut) : Prop :=
  ∃ k b, x.scaled k (pow2 emin) ≠ .lt ∧ Rounds (gridMag man emin) rm neg (x.scaled k) b ∧ gridMag man emin b < pow2 (emin + (k : Int))

/-- The flags of a result that does not overflow: none when it is exact, UF and NX when it is tiny and inexact, else NX (R49, Table 2.4). -/
def RoundFlags (man : Nat) (emin : Int) (rm : Rm) (neg : Bool) (x : Cut) (b : Nat) (fl : FpFlags) : Prop :=
  (x (gridMag man emin b) = .eq → fl = 0) ∧
  (x (gridMag man emin b) ≠ .eq → Tiny man emin rm neg x → fl = 0b00011) ∧
  (x (gridMag man emin b) ≠ .eq → ¬Tiny man emin rm neg x → fl = 0b00001)

/-- Table 2.3. -/
def toInf (rm : Rm) (neg : Bool) : Bool := rm == .rne || rm == .rna || (rm == .rup && !neg) || (rm == .rdn && neg)

/-- R47 to R49: r is the non-zero magnitude x, with a sign, rounded once into a fixed format. -/
def FFmt.OnceRounded (f : FFmt) (rm : Rm) (neg : Bool) (x : Cut) (r : FOut) : Prop :=
  ∃ b, Rounds (gridMag f.man f.emin) rm neg x b ∧
    (f.infBits ≤ b → r = ⟨f.signBit neg + (if toInf rm neg then f.infBits else f.infBits - 1), 0b00101⟩) ∧
    (b < f.infBits → r.bits = f.signBit neg + b ∧ RoundFlags f.man f.emin rm neg x b r.fl)

/-- Table 2.8, finite float to integer: the nearest integer of Table 2.2, or the nearest end of the range with NV. -/
def IntRounded (w : Nat) (signed : Bool) (rm : Rm) (neg : Bool) (x : Cut) (r : Int × FpFlags) : Prop :=
  let lo : Int := if signed then -2 ^ (w - 1) else 0
  let hi : Int := if signed then 2 ^ (w - 1) - 1 else 2 ^ w - 1
  ∃ k : Nat, Rounds (fun n => (n : Rat)) rm neg x k ∧
    let z : Int := if neg then -k else k
    (z < lo → r = (lo, 0b10000)) ∧ (hi < z → r = (hi, 0b10000)) ∧
    (lo ≤ z → z ≤ hi → r = (z, if x k = .eq then 0 else 0b00001))

/-- The order of two values that are not NaN (R50). -/
def FVal.below (a b : FVal) : Prop :=
  match a, b with
  | .inf n, .inf k => n = true ∧ k = false
  | .inf n, .fin _ _ _ => n = true
  | .fin _ _ _, .inf k => k = false
  | .fin _ _ _, .fin _ _ _ => a.rat < b.rat
  | _, _ => False

/-- R47, R50 and R51: r is the sum of two values that are not NaN. -/
def FFmt.Adds (f : FFmt) (rm : Rm) (a b : FVal) (r : FOut) : Prop :=
  match a, b with
  | .inf n, .inf k => r = if n = k then ⟨f.signBit n + f.infBits, 0⟩ else ⟨f.nanBits, 0b10000⟩
  | .inf n, .fin _ _ _ => r = ⟨f.signBit n + f.infBits, 0⟩
  | .fin _ _ _, .inf k => r = ⟨f.signBit k + f.infBits, 0⟩
  | .fin n _ _, .fin k _ _ =>
    let z := a.rat + b.rat
    (z ≠ 0 → f.OnceRounded rm (z < 0) (Cut.of z) r) ∧
    (z = 0 → r = ⟨f.signBit (if n = k then n else rm = .rdn), 0⟩)
  | _, _ => True

/-- R47, R50 and R51: r is the product of two values that are not NaN. -/
def FFmt.Multiplies (f : FFmt) (rm : Rm) (a b : FVal) (r : FOut) : Prop :=
  let n := a.neg != b.neg
  ((a.isInf = true ∧ b.isZero = true) ∨ (a.isZero = true ∧ b.isInf = true) → r = ⟨f.nanBits, 0b10000⟩) ∧
  ((a.isInf = true ∧ b.isZero = false) ∨ (a.isZero = false ∧ b.isInf = true) → r = ⟨f.signBit n + f.infBits, 0⟩) ∧
  (a.isInf = false → b.isInf = false →
    (a.rat * b.rat ≠ 0 → f.OnceRounded rm n (Cut.of (a.rat * b.rat)) r) ∧ (a.rat * b.rat = 0 → r = ⟨f.signBit n, 0⟩))

/-- R47 and R51: r is the quotient of two values that are not NaN. -/
def FFmt.Divides (f : FFmt) (rm : Rm) (a b : FVal) (r : FOut) : Prop :=
  let n := a.neg != b.neg
  ((a.isInf = true ∧ b.isInf = true) ∨ (a.isZero = true ∧ b.isZero = true) → r = ⟨f.nanBits, 0b10000⟩) ∧
  (a.isInf = true → b.isInf = false → r = ⟨f.signBit n + f.infBits, 0⟩) ∧
  (a.isInf = false → b.isInf = true → r = ⟨f.signBit n, 0⟩) ∧
  (a.isInf = false → b.isInf = false →
    (b.isZero = true → a.isZero = false → r = ⟨f.signBit n + f.infBits, 0b01000⟩) ∧
    (b.isZero = false → a.isZero = true → r = ⟨f.signBit n, 0⟩) ∧
    (b.isZero = false → a.isZero = false → f.OnceRounded rm n (Cut.of (a.rat / b.rat)) r))

/-- R61: r is what rounding an exact value once into a narrow format writes. -/
def NarrowFmt.RoundsTo (d : NarrowFmt) (rm : Rm) (v : FVal) (r : FOut) : Prop :=
  let lo : Int := if d.s then -2 ^ (d.w - 1) else 0
  let hi : Int := if d.s then 2 ^ (d.w - 1) - 1 else 2 ^ d.w - 1
  let wrap := fun (z : Int) => (z % 2 ^ d.w).toNat
  let sign := fun (n : Bool) => if n && d.s then 2 ^ (d.w - 1) else 0
  let capped := d.sat = true ∨ d.pol = 0
  match v with
  | .nan s => r = match d.nanBits with | some b => ⟨b, if s then 0b10000 else 0⟩ | none => ⟨0, 0b10000⟩
  | .inf n =>
    (n = true → d.s = false → r = ⟨0, 0b10000⟩) ∧
    (n = false ∨ d.s = true →
      (d.e = 0 → r = ⟨wrap (if n then lo else hi), 0b10000⟩) ∧
      (d.e ≠ 0 →
        (capped → r = ⟨sign n + d.maxEnc, 0b00101⟩) ∧
        (¬capped → d.pol = 1 → r = ⟨sign n + (2 ^ d.e - 1) * 2 ^ d.m, 0⟩) ∧
        (¬capped → d.pol = 2 → r = ⟨2 ^ (d.e + d.m) - 1, 0b10000⟩)))
  | .fin n m _ =>
    let x := Cut.of v.rat
    (n = true → d.s = false → r = ⟨0, if m = 0 then 0 else 0b10000⟩) ∧
    (n = false ∨ d.s = true →
      (d.e = 0 → ∃ k : Nat, Rounds (fun i => (i : Rat)) rm n x k ∧
        let z : Int := if n then -k else k
        (lo ≤ z → z ≤ hi → r = ⟨wrap z, if x k = .eq then 0 else 0b00001⟩) ∧
        (z < lo → r = ⟨wrap (if d.sat then lo else z), 0b10000⟩) ∧
        (hi < z → r = ⟨wrap (if d.sat then hi else z), 0b10000⟩)) ∧
      (d.e ≠ 0 → ∃ b, Rounds (gridMag d.m d.emin) rm n x b ∧
        (d.maxEnc < b →
          (capped → r = ⟨sign n + d.maxEnc, 0b00101⟩) ∧
          (¬capped → d.pol = 1 → r = ⟨sign n + (if toInf rm n then (2 ^ d.e - 1) * 2 ^ d.m else d.maxEnc), 0b00101⟩) ∧
          (¬capped → d.pol = 2 → r = ⟨2 ^ (d.e + d.m) - 1, 0b00101⟩)) ∧
        (b ≤ d.maxEnc →
          (d.sub = false → 0 < b → b < 2 ^ d.m → r = ⟨sign n, 0b00011⟩) ∧
          (d.sub = true ∨ b = 0 ∨ 2 ^ d.m ≤ b → r.bits = sign n + b ∧ RoundFlags d.m d.emin rm n x b r.fl))))

/-! ### The hubs' ports (Table 12.8) -/

/-- The head command of a port has been read and a reply of 32 bytes stands in the reply ring, where that lies in the hub's DRAM: tag,
status, value, zeros. -/
structure Replied (s t : State) (h : Hub) (tag : BitVec 32) (st : Nat) (x : Word) : Prop where
  head : (t.port h).cqhead = ringNext (s.port h).cqhead (s.port h).cqsize
  tail : (t.port h).rqtail = ringNext (s.port h).rqtail (s.port h).rqsize
  reply : (s.port h).rqbase.toNat + 32 * (s.port h).rqtail.toNat + 32 ≤ 2 ^ 37 →
    t.mem.readBytes (hubKey h ((s.port h).rqbase.toNat + 32 * (s.port h).rqtail.toNat)) 32 =
    bytesOf 4 tag.toNat ++ bytesOf 4 st ++ bytesOf 8 x.toNat ++ List.replicate 16 0

/-- Where that reply lies. -/
def State.replyAt (s : State) (h : Hub) : Nat := hubKey h ((s.port h).rqbase.toNat + 32 * (s.port h).rqtail.toNat)

/-- The contents of memory outside a range, and every core, are as before. -/
def Only (s t : State) (a n : Nat) : Prop := (∀ k, k < a ∨ a + n ≤ k → t.mem.read k = s.mem.read k) ∧ t.cores = s.cores

/-- The context waits: nothing but the mark of waiting changes (R40). -/
def Waits (i : Instr) (s : State) : Prop := exec i s = .next { s with waited := true }

/-! ### Invariants -/

/-- The table of cores lists each core once, in rising order. -/
def State.Ordered (s : State) : Prop := s.cores.Pairwise (fun a b => a.1 < b.1)

/-- What every step keeps: memory in its canonical form, and the tables of cores and purses in order. -/
structure State.Inv (s : State) : Prop where
  mem : s.mem.wf = true
  cores : s.Ordered
  purses : s.purses.Pairwise (fun a b => a.1 < b.1)

end Sys2Proof.Machine
end

