-- ==== Sys2Proof/Certificates/Slice0/Obligations.lean ====
section
/-!
DEFINITION. The statements for the provers.  Each docstring names the part of the specification that the statement formalises.
-/
open Sys2Proof Sys2Proof.Machine

/-! ### The scalar families (04_scalar_control.md) -/

/-- Table 4.3 and R102: the register-register integer instructions. Each takes two coins, writes g[d] from the old registers, and changes
nothing else; a result for g0 is discarded. R102, R103 and Table 4.3: counts, byte reversal and bit fields, each by what its result is bit
by bit. Table 4.6 and R105: the immediate majors. -/
def Obligations.AluResults : Prop :=
  (∀ (s : State) (d a b : BitVec 5) (n : BitVec 2), s.canPay 2 = true →
    let x := s.g a
    let y := s.g b
    let z := s.g d
    let sh := y.toNat % 64
    GivesG (.add d a b) s 2 d (x + y) ∧
    GivesG (.sub d a b) s 2 d (x - y) ∧
    GivesG (.and d a b) s 2 d (x &&& y) ∧
    GivesG (.or d a b) s 2 d (x ||| y) ∧
    GivesG (.xor d a b) s 2 d (x ^^^ y) ∧
    GivesG (.andn d a b) s 2 d (x &&& ~~~y) ∧
    GivesG (.sll d a b) s 2 d (x <<< sh) ∧
    GivesG (.srl d a b) s 2 d (x >>> sh) ∧
    GivesG (.sra d a b) s 2 d (x.sshiftRight sh) ∧
    GivesG (.rotr d a b) s 2 d (x.rotateRight sh) ∧
    GivesG (.slt d a b) s 2 d (if x.toInt < y.toInt then 1 else 0) ∧
    GivesG (.sltu d a b) s 2 d (if x.toNat < y.toNat then 1 else 0) ∧
    GivesG (.min d a b) s 2 d (if x.toInt ≤ y.toInt then x else y) ∧
    GivesG (.max d a b) s 2 d (if x.toInt ≤ y.toInt then y else x) ∧
    GivesG (.minu d a b) s 2 d (if x.toNat ≤ y.toNat then x else y) ∧
    GivesG (.maxu d a b) s 2 d (if x.toNat ≤ y.toNat then y else x) ∧
    GivesG (.mul d a b) s 2 d (x * y) ∧
    GivesG (.mulh d a b) s 2 d (BitVec.ofInt 64 (x.toInt * y.toInt / 2 ^ 64)) ∧
    GivesG (.mulhu d a b) s 2 d (BitVec.ofNat 64 (x.toNat * y.toNat / 2 ^ 64)) ∧
    GivesG (.div d a b) s 2 d (if y = 0 then BitVec.allOnes 64 else x.sdiv y) ∧
    GivesG (.divu d a b) s 2 d (if y = 0 then BitVec.allOnes 64 else x / y) ∧
    GivesG (.rem d a b) s 2 d (if y = 0 then x else x.srem y) ∧
    GivesG (.remu d a b) s 2 d (if y = 0 then x else x % y) ∧
    GivesG (.sel d a b) s 2 d ((x &&& z) ||| (y &&& ~~~z)) ∧
    GivesG (.shadd d a b n) s 2 d ((x <<< (n.toNat + 1)) + y)) ∧
  (∀ (s : State) (d a b : BitVec 5), s.canPay 2 = true →
    let x := s.g a
    let p := (s.g b).toNat % 64
    let w := min ((s.g b).toNat / 2 ^ 8 % 2 ^ 7) (64 - p)
    (∃ r : Nat, GivesG (.clz d a) s 2 d (BitVec.ofNat 64 r) ∧ r ≤ 64 ∧ (∀ i, 64 - r ≤ i → x.getLsbD i = false) ∧
      (r < 64 → x.getLsbD (63 - r) = true)) ∧
    (∃ r : Nat, GivesG (.ctz d a) s 2 d (BitVec.ofNat 64 r) ∧ r ≤ 64 ∧ (∀ i, i < r → x.getLsbD i = false) ∧
      (r < 64 → x.getLsbD r = true)) ∧
    GivesG (.popc d a) s 2 d (BitVec.ofNat 64 ((List.range 64).countP (fun i => x.getLsbD i))) ∧
    (∃ r : Word, GivesG (.bswap d a) s 2 d r ∧ ∀ i, i < 8 → r.extractLsb' (8 * i) 8 = x.extractLsb' (8 * (7 - i)) 8) ∧
    (∃ r : Word, GivesG (.extu d a b) s 2 d r ∧ ∀ i, i < 64 → r.getLsbD i = (decide (i < w) && x.getLsbD (p + i))) ∧
    (∃ r : Word, GivesG (.exts d a b) s 2 d r ∧
      ∀ i, i < 64 → r.getLsbD i = if i < w then x.getLsbD (p + i) else decide (0 < w) && x.getLsbD (p + w - 1)) ∧
    (∃ r : Word, GivesG (.insf d a b) s 2 d r ∧
      ∀ i, i < 64 → r.getLsbD i = if p ≤ i ∧ i < p + w then x.getLsbD (i - p) else (s.g d).getLsbD i)) ∧
  ∀ (s : State) (d a : BitVec 5) (i : BitVec 16) (n : BitVec 6) (h : BitVec 2), s.canPay 2 = true →
    let x := s.g a
    let se : Word := i.signExtend 64
    let ze : Word := i.zeroExtend 64
    GivesG (.addi d a i) s 2 d (x + se) ∧
    GivesG (.andi d a i) s 2 d (x &&& ze) ∧
    GivesG (.ori d a i) s 2 d (x ||| ze) ∧
    GivesG (.xori d a i) s 2 d (x ^^^ ze) ∧
    GivesG (.slti d a i) s 2 d (if x.toInt < i.toInt then 1 else 0) ∧
    GivesG (.sltiu d a i) s 2 d (if x.toNat < se.toNat then 1 else 0) ∧
    GivesG (.slli d a n) s 2 d (x <<< n.toNat) ∧
    GivesG (.srli d a n) s 2 d (x >>> n.toNat) ∧
    GivesG (.srai d a n) s 2 d (x.sshiftRight n.toNat) ∧
    GivesG (.rotri d a n) s 2 d (x.rotateRight n.toNat) ∧
    (∃ r : Word, GivesG (.lih d h i) s 2 d r ∧
      ∀ j, j < 4 → r.extractLsb' (16 * j) 16 = if j = h.toNat then i else (s.g d).extractLsb' (16 * j) 16) ∧
    (s.replay = none → GivesG (.adpc d i) s 2 d (BitVec.ofInt 64 ((s.pc.toNat + i.toInt * 4) % 2 ^ 15))) ∧
    (∀ r, s.replay = some r →
      GivesG (.adpc d i) s 2 d (BitVec.ofInt 64 ((s.pc.toNat + 4 * (Rpt.word (s.g r.c) + 1) + i.toInt * 4) % 2 ^ 15)))

/-- Tables 4.7 and 4.8, R99 and R106: the FPU major on the format that p selects. Sources come from the low bits only; the result has zero
above them; the flags an operation raises are set in FPMODE and none is cleared (R54). -/
def Obligations.FpuResults : Prop :=
  ∀ (s : State) (d a b : BitVec 5) (p q w : BitVec 2) (c : BitVec 3) (u : BitVec 1), s.canPay 2 = true →
    let f := fmtOfP p
    let x := (s.g a).toNat % 2 ^ f.width
    let y := (s.g b).toNat % 2 ^ f.width
    let z := (s.g d).toNat % 2 ^ f.width
    let k := 8 * 2 ^ w.toNat
    GivesF (.fadd d a b p) s 2 d (fAdd f s.rm x y) ∧
    GivesF (.fsub d a b p) s 2 d (fSub f s.rm x y) ∧
    GivesF (.fmul d a b p) s 2 d (fMul f s.rm x y) ∧
    GivesF (.fma d a b p) s 2 d (fFma f s.rm x y z) ∧
    GivesF (.fdiv d a b p) s 2 d (fDiv f s.rm x y) ∧
    GivesF (.fsqrt d a p) s 2 d (fSqrt f s.rm x) ∧
    GivesF (.fmin d a b p) s 2 d (fMinMax false f x y) ∧
    GivesF (.fmax d a b p) s 2 d (fMinMax true f x y) ∧
    GivesF (.fcmp d a b p c) s 2 d ⟨if (fCmp f c.toNat x y).1 then 1 else 0, (fCmp f c.toNat x y).2⟩ ∧
    GivesF (.fcvt d a p q) s 2 d (fCvt f (fmtOfP q) s.rm ((s.g a).toNat % 2 ^ (fmtOfP q).width)) ∧
    GivesF (.fclass d a p) s 2 d ⟨fClass f x, flNone⟩ ∧
    GivesF (.ftoi d a p w u) s 2 d
      ⟨(BitVec.ofInt 64 (valToInt k (u = 0) s.rm (unpack f x)).1).toNat, (valToInt k (u = 0) s.rm (unpack f x)).2⟩ ∧
    GivesF (.itof d a p w u) s 2 d
      (iToF f s.rm (if u = 0 then ((s.g a).setWidth k).toInt else ((s.g a).setWidth k).toNat))

/-- R124, R125 and Table 1.2: CRR of every register the table lists, from every context that may read it, and its value field by field. R13,
R29, R33, R35, R124 and Table 1.2: CRW. Writable fields take the value, read-only ones stay, and nothing else changes; an index that the
table does not list and a refused value trap ILLOP, and the teller has no K and FD registers and ignores writes to its per-slot ones.
LWINMASK is computed from the core's grants (log entry 20), and that a PRIV trap takes the two coins and an ILLOP trap none is the model's
reading (log entry 23). -/
def Obligations.ControlRegisters : Prop :=
  (∀ (s : State) (d : BitVec 5) (i : BitVec 10), s.canPay 2 = true →
    (crBits i.toNat).isSome = true → ¬(s.isTeller = true ∧ 0x070 ≤ i.toNat) → ¬(s.unitMode = true ∧ crPriv i.toNat = true) →
    let x := BitVec.ofNat 64 (crValue s i.toNat)
    (∃ t, exec (.crr d i) s = .next t ∧
      Ran s t ((if crLogged i.toNat then s.logged 5 (bytesOf 8 x.toNat) else s).setG d x) 2 ∧
      (s.replay = none → ∀ r, t.g r = if r = 0 then 0 else if r = d then x else s.g r)) ∧
    (let c := s.curCore
     let l := s.slot
     let own : List (Nat × Nat) :=
       [(0x010, l.unitid.toNat), (0x011, l.launchid.toNat), (0x012, l.jobid.toNat), (0x013, l.leaseSize.toNat * 2 ^ 32 + l.leaseBase.toNat * 2 ^ 6),
        (0x014, l.heatcls.toNat), (0x015, l.origin.toNat), (0x022, l.trapcause.toNat), (0x023, l.trappc.toNat), (0x024, l.trapval.toNat),
        (0x025, l.trapvec.toNat), (0x031, l.coinspent.toNat), (0x041, l.instret.toNat)]
     (∀ p ∈ [(0x000, if s.isTeller then 4 else s.curSlotNo.val), (0x001, s.modNo.toNat * 2 ^ 18 + (s.coreNo c).toNat),
        (0x002, coreY c * 2 ^ 9 + coreX c),
        (0x003, (if s.mtxBad.contains (octetOf c) then 0 else 2 ^ 18) + (coreY c / 2 * 128 + coreX c / 4) * 2 ^ 3 + (coreY c % 2 * 4 + coreX c % 4)),
        (0x004, coreY c / 32 * 2 ^ 4 + coreX c / 32), (0x005, s.joined.toNat * 2 ^ 8 + s.modNo.toNat),
        (0x020, s.ctx.status.toNat / 2 * 2 + (if s.isTeller then 1 else s.ctx.status.toNat % 2)), (0x021, s.ctx.fpmode.toNat),
        (0x030, s.purse c), (0x040, s.cycle.toNat), (0x050, 1), (0x051, 1)], i.toNat = p.1 → x = BitVec.ofNat 64 p.2) ∧
     (∀ p ∈ own, i.toNat = p.1 → x = if s.isTeller then 0 else BitVec.ofNat 64 p.2) ∧
     (i = 0x060 → ∀ k : Fin 64, x.getLsbD k.val = (!s.isTeller && decide (k.val < 4) && (lenderOf s.here k.val).isSome)) ∧
     (∀ k : Fin 4, i.toNat = 0x070 + k.val → x = (s.ctx.k.get k).zeroExtend 64) ∧
     (∀ k : Fin 8, i.toNat = 0x078 + k.val → x = (s.ctx.fd.get k).zeroExtend 64) ∧
     (s.logical = true → c < 262144 → (s.coreNo c).toNat = (List.range c).countP (fun e => !s.fused.contains e && !s.harvested.contains e)) ∧
     (s.logical = false → (s.coreNo c).toNat = (coreY c * 2 ^ 9 + coreX c) % 2 ^ 18)) ∧
    (∀ m, s.curCore < 262144 → s.purse s.curCore < 2 ^ 21 → s.ctx.fpmode &&& 0x00F8 = 0 → (∀ j, s.fdReg j &&& 0xFFF00000 = 0) →
      crBits i.toNat = some m → crValue s i.toNat &&& m = crValue s i.toNat)) ∧
  (∀ (s : State) (d : BitVec 5) (i : BitVec 10), s.canPay 2 = true → s.unitMode = true → (crBits i.toNat).isSome = true →
    crPriv i.toNat = true → Traps (.crr d i) s 2 causePRIV 0 0) ∧
  (∀ (s : State) (d : BitVec 5) (i : BitVec 10),
    ((crBits i.toNat).isSome = true ↔ i.toNat ≤ 0x005 ∨ (0x010 ≤ i.toNat ∧ i.toNat ≤ 0x015) ∨ (0x020 ≤ i.toNat ∧ i.toNat ≤ 0x025) ∨
      i = 0x030 ∨ i = 0x031 ∨ i = 0x040 ∨ i = 0x041 ∨ i = 0x050 ∨ i = 0x051 ∨ i = 0x060 ∨ (0x070 ≤ i.toNat ∧ i.toNat ≤ 0x073) ∨
      (0x078 ≤ i.toNat ∧ i.toNat ≤ 0x07F)) ∧
    ∀ j ∈ [Instr.crr d i, Instr.crw d i],
      (s.unitMode = true → (crBits i.toNat).isSome = false → Traps j s 0 causeILLOP 0 ((encode j).zeroExtend 64)) ∧
      (s.isTeller = true → (crBits i.toNat).isSome = false ∨ 0x070 ≤ i.toNat → HandlerTraps j s causeILLOP 0 ((encode j).zeroExtend 64))) ∧
  (∀ (s : State) (a : BitVec 5) (i : BitVec 10), s.isTeller = true →
    (s.canPay 2 = true →
      (0x010 ≤ i.toNat ∧ i.toNat ≤ 0x015) ∨ (0x022 ≤ i.toNat ∧ i.toNat ≤ 0x025) ∨ i = 0x031 ∨ i = 0x041 ∨ i = 0x060 →
      Completes (.crw a i) s 2 s) ∧
    (s.canPay 2 = true → i = 0x020 ∨ i = 0x021 → crRefused i.toNat (s.g a).toNat = false →
      Completes (.crw a i) s 2 (s.crWrite i.toNat (s.g a))) ∧
    (i = 0x020 ∨ i = 0x021 → crRefused i.toNat (s.g a).toNat = true → HandlerTraps (.crw a i) s causeILLOP 0 ((encode (.crw a i)).zeroExtend 64))) ∧
  (∀ (s : State) (a : BitVec 5) (i : BitVec 10), s.canPay 2 = true → s.isTeller = false →
    let x := s.g a
    let c := s.ctx
    let ok := ¬(s.unitMode = true ∧ crPriv i.toNat = true) ∧ crRefused i.toNat x.toNat = false
    (ok → Completes (.crw a i) s 2 (s.crWrite i.toNat x)) ∧
    (ok → i = 0x020 → Completes (.crw a i) s 2 (s.updCtx (fun r => { r with status := x.extractLsb' 1 4 ++ c.status.extractLsb' 0 1 }))) ∧
    (ok → i = 0x021 → Completes (.crw a i) s 2 (s.updCtx (fun r => { r with fpmode := x.extractLsb' 0 13 }))) ∧
    (ok → i = 0x022 → Completes (.crw a i) s 2 (s.updSlot (fun l => { l with trapcause := x.extractLsb' 0 16 }))) ∧
    (ok → i = 0x023 → Completes (.crw a i) s 2 (s.updSlot (fun l => { l with trappc := x.extractLsb' 0 15 }))) ∧
    (ok → i = 0x024 → Completes (.crw a i) s 2 (s.updSlot (fun l => { l with trapval := x }))) ∧
    (ok → i = 0x025 → Completes (.crw a i) s 2 (s.updSlot (fun l => { l with trapvec := x.extractLsb' 0 15 }))) ∧
    (∀ k : Fin 4, ok → i.toNat = 0x070 + k.val →
      Completes (.crw a i) s 2 (s.updCtx (fun r => { r with k := r.k.set k.val (x.extractLsb' 0 32) k.isLt }))) ∧
    (ok → crPriv i.toNat = false → i ≠ 0x021 → ¬(0x070 ≤ i.toNat ∧ i.toNat ≤ 0x073) → Completes (.crw a i) s 2 s) ∧
    (s.unitMode = true → crPriv i.toNat = true → Traps (.crw a i) s 2 causePRIV 0 0) ∧
    (∀ m, crBits i.toNat = some m → (crRefused i.toNat x.toNat = true ↔
      (∃ k, x.getLsbD k = true ∧ m.testBit k = false) ∨ (i = 0x021 ∧ 5 ≤ x.toNat % 8) ∨ (i = 0x025 ∧ (x.toNat < 0x6000 ∨ x.toNat % 4 ≠ 0)))) ∧
    (s.unitMode = true → crPriv i.toNat = false → crRefused i.toNat x.toNat = true →
      Traps (.crw a i) s 0 causeILLOP 0 ((encode (.crw a i)).zeroExtend 64)))

/-! ### Local memory (06_memory_messages.md, 08_memory_system.md) -/

/-- R154, R228, R235 and Table 6.2: where an access goes that meets every check: the own till in unit or system mode, a lender's till
through a window, and a page of the own vault, whose row is opened when it is not open. R154, Table 6.1 and R159: which check fails first,
and the trap it makes, for LD and ST in unit mode; memory and every register but those of R30 are as before. The order of two failing
checks in one range is the model's reading (log entry 27), and so are the 0 coins of a trapping access (log entry 23). -/
def Obligations.LocalAccesses : Prop :=
  (∀ (s : State) (va : Word) (n : Nat) (acc : Acc), 0 < n → n ≤ 64 → va.toNat % n = 0 → s.bad = [] → watched s va acc = false →
    (va.toNat < 0x1E000 → access s va n n acc = .ok ⟨tillKey s.curCore va.toNat, 0, none⟩) ∧
    (0x1E000 ≤ va.toNat → va.toNat < 0x20000 → s.isTeller = false → s.unitMode = false →
      access s va n n acc = .ok ⟨tillKey s.curCore va.toNat, 0, none⟩) ∧
    (∀ c, 0x20000 ≤ va.toNat → va.toNat < 0xA0000 → va.toNat % 0x20000 < 0x1E000 → s.isTeller = false →
      lenderOf s.here ((va.toNat - 0x20000) / 0x20000) = some c →
      access s va n n acc = .ok ⟨tillKey c (va.toNat % 0x20000), 1, none⟩) ∧
    (∀ c, 0x20000 ≤ va.toNat → va.toNat < 0xA0000 → 0x1E000 ≤ va.toNat % 0x20000 → s.isTeller = false →
      lenderOf s.here ((va.toNat - 0x20000) / 0x20000) = some c → access s va n n acc = .error (.trap causeLOCALBOUND 2 va)) ∧
    (∀ p, isGlobal va = true → homedHere s va = .ok p → p.rd = true → p.w = true → p.cow = false →
      let off := vaultOff p va
      let b := s.bank s.curCore (bankOf off)
      refreshing s s.curCore (bankOf off) = false → b.awaiting = [] → copyBusy s.here p = false →
      (b.row = some (rowOfOff off) → access s va n n acc = .ok ⟨vaultKey s.curCore off, 2, none⟩) ∧
      (b.row ≠ some (rowOfOff off) → b.held = [] → tileHolds s s.curCore (bankOf off) (some (rowOfOff off)) = false →
        pacing s s.curCore = false →
        access s va n n acc = .ok ⟨vaultKey s.curCore off, 2, some (bankOf off, rowOfOff off)⟩))) ∧
  (∀ (s : State) (d a : BitVec 5) (z : BitVec 4) (o : BitVec 12), s.unitMode = true →
    let n : Nat := 2 ^ (z.toNat / 2)
    let va := s.g a + BitVec.ofInt 64 (o.toInt * n)
    ∀ i ∈ [Instr.ld d a z o, Instr.st d a z o],
      (2 ^ 48 ≤ va.toNat → Traps i s 0 causeLOCALBOUND 3 va) ∧
      (va.toNat < 2 ^ 48 → va.toNat % n ≠ 0 → Traps i s 0 causeMISALIGN 0 va) ∧
      (va.toNat % n = 0 → 0x1E000 ≤ va.toNat → va.toNat < 0x20000 → Traps i s 0 causeLOCALBOUND 2 va) ∧
      (va.toNat % n = 0 → 0x20000 ≤ va.toNat → va.toNat < 0xA0000 →
        lenderOf s.here ((va.toNat - 0x20000) / 0x20000) = none → Traps i s 0 causeLOCALBOUND 1 va) ∧
      (va.toNat % n = 0 → 0xA0000 ≤ va.toNat → va.toNat < 0x100000000 → Traps i s 0 causeLOCALBOUND 0 va) ∧
      (va.toNat % n = 0 → isGlobal va = true → homedHere s va = .error (.remote va) → s.ctx.status.getLsbD 1 = false →
        Traps i s 0 causeREMOTEREF 0 va) ∧
      (va.toNat % n = 0 → isGlobal va = true → homedHere s va = .error (.remote va) → s.ctx.status.getLsbD 1 = true → homeOf s va = none →
        Traps i s 0 causePAGEFAULT 1 va) ∧
      (z.toNat ≤ 6 → va.toNat % n = 0 → va.toNat < 0x1E000 → s.bad.contains (tillKey s.curCore va.toNat / 64 * 64) = true →
        Traps i s 0 causeUNCORR 0 (va &&& ~~~63)) ∧
      ∀ p, va.toNat % n = 0 → isGlobal va = true → homedHere s va = .ok p →
        (i = .ld d a z o → p.rd = false → Traps i s 0 causePAGEFAULT 2 va) ∧
        (i = .st d a z o → copyBusy s.here p = false → p.w = false → Traps i s 0 causePAGEFAULT 2 va) ∧
        (i = .st d a z o → copyBusy s.here p = false → p.w = true → p.cow = true → Traps i s 0 causePAGEFAULT 3 va) ∧
        (z.toNat ≤ 6 → p.rd = true → p.w = true → p.cow = false → copyBusy s.here p = false →
          let off := vaultOff p va
          let b := s.bank s.curCore (bankOf off)
          refreshing s s.curCore (bankOf off) = false → b.awaiting = [] → b.row = some (rowOfOff off) →
          s.bad.contains (vaultKey s.curCore off / 64 * 64) = true → Traps i s 0 causeUNCORR 0 (va &&& ~~~63)))

/-- R159 and Table 6.3: LD and ST of every size. LD extends what memory holds, little-endian; ST changes exactly the bytes of the access.
-/
def Obligations.LoadAndStore : Prop :=
  ∀ (s : State) (d a : BitVec 5) (z : BitVec 4) (o : BitVec 12) (l : Loc),
    let n : Nat := 2 ^ (z.toNat / 2)
    let va := s.g a + BitVec.ofInt 64 (o.toInt * n)
    let x := s.mem.readNat l.key n
    let r := if z.toNat % 2 = 0 then BitVec.ofInt 64 (signedOf (8 * n) x) else BitVec.ofNat 64 x
    s.canPay (2 + l.coins) = true → z.toNat ≤ 6 →
    (access s va n n .read = .ok l →
      ∃ t, exec (.ld d a z o) s = .next t ∧ (∀ k, t.mem.read k = s.mem.read k) ∧
        Ran s t (((((s.openRow s.curCore l.act).corrected l.key).loggedRead va n (bytesOf 8 r.toNat))).setG d r) (2 + l.coins) ∧
        (s.replay = none → ∀ j, t.g j = if j = 0 then 0 else if j = d then r else s.g j)) ∧
    (z.toNat % 2 = 0 → access s va n n .write = .ok l →
      ∃ t, exec (.st d a z o) s = .next t ∧ t.mem.readBytes l.key n = bytesOf n (s.g d).toNat ∧
        (∀ k, k < l.key ∨ l.key + n ≤ k → t.mem.read k = s.mem.read k) ∧
        Ran s t ((s.openRow s.curCore l.act).store l.key n (s.g d).toNat) (2 + l.coins))

/-- R160: the new value of a read-modify-write, of w = 8n bits: old x, operand y, compare value c. R160: the ten AMO instructions in one
step: g[d] takes the old value, sign-extended for a word; memory takes the new one, and no byte outside it changes. A release waits for
what its slot has outstanding. -/
def Obligations.AtomicsInPlace : Prop :=
  (∀ (w x y c : Nat), x < 2 ^ w → y < 2 ^ w → c < 2 ^ w →
    rmwValue .add w x y c = (x + y) % 2 ^ w ∧
    (∀ i, (rmwValue .and w x y c).testBit i = (x.testBit i && y.testBit i)) ∧
    (∀ i, (rmwValue .or w x y c).testBit i = (x.testBit i || y.testBit i)) ∧
    (∀ i, (rmwValue .xor w x y c).testBit i = (x.testBit i ^^ y.testBit i)) ∧
    signedOf w (rmwValue .min w x y c) = min (signedOf w x) (signedOf w y) ∧
    signedOf w (rmwValue .max w x y c) = max (signedOf w x) (signedOf w y) ∧
    rmwValue .minu w x y c = min x y ∧
    rmwValue .maxu w x y c = max x y ∧
    rmwValue .swap w x y c = y ∧
    rmwValue .cas w x y c = (if x = c then y else x) ∧
    ∀ op, rmwValue op w x y c < 2 ^ w) ∧
  (∀ (s : State) (d a b : BitVec 5) (o : BitVec 2) (z : BitVec 1) (l : Loc),
    let n : Nat := if z = 0 then 4 else 8
    let x := s.mem.readNat l.key n
    let r := BitVec.ofInt 64 (signedOf (8 * n) x)
    let is : List (Instr × RmwOp) :=
      [(.amoAdd d a b o z, .add), (.amoAnd d a b o z, .and), (.amoOr d a b o z, .or), (.amoXor d a b o z, .xor),
       (.amoMin d a b o z, .min), (.amoMax d a b o z, .max), (.amoMinu d a b o z, .minu), (.amoMaxu d a b o z, .maxu),
       (.amoSwap d a b o z, .swap), (.amoCas d a b o z, .cas)]
    ∀ p ∈ is,
      (o.getLsbD 1 = true → releaseDone s 0 = false → Waits p.1 s) ∧
      (¬(o.getLsbD 1 = true ∧ releaseDone s 0 = false) → access s (s.g a) n n .both = .ok l → s.canPay (2 + l.coins) = true →
        let y := rmwValue p.2 (8 * n) x ((s.g b).toNat % 2 ^ (8 * n)) ((s.g d).toNat % 2 ^ (8 * n))
        ∃ t, exec p.1 s = .next t ∧ t.mem.readBytes l.key n = bytesOf n y ∧
          (∀ k, k < l.key ∨ l.key + n ≤ k → t.mem.read k = s.mem.read k) ∧
          Ran s t (((((s.openRow s.curCore l.act).corrected l.key).loggedRead (s.g a) n (bytesOf 8 r.toNat)).store l.key n y).setG d r)
            (2 + l.coins) ∧
          (s.replay = none → ∀ j, t.g j = if j = 0 then 0 else if j = d then r else s.g j)))

/-! ### Control (04_scalar_control.md) -/

/-- R108 and Table 4.10: the conditional branches. R109: JAL and JALR: the link is PC + 4, the target is read before the link is written,
and a misaligned target of JALR traps with no link; that this trap has charged its two coins is the model's reading (log entry 23). -/
def Obligations.BranchesAndJumps : Prop :=
  (∀ (s : State) (a b : BitVec 5) (o : BitVec 13), s.canPay 2 = true →
    let x := s.g a
    let y := s.g b
    let there := BitVec.ofInt 15 (s.pc.toNat + o.toInt * 4)
    let cs : List (Instr × Bool) :=
      [(.beq a b o, x == y), (.bne a b o, x != y), (.blt a b o, decide (x.toInt < y.toInt)), (.bge a b o, decide (y.toInt ≤ x.toInt)),
       (.bltu a b o, decide (x.toNat < y.toNat)), (.bgeu a b o, decide (y.toNat ≤ x.toNat)),
       (.bbs a b o, x.getLsbD (y.toNat % 64)), (.bbc a b o, !x.getLsbD (y.toNat % 64))]
    ∀ c ∈ cs,
      (c.2 = true → ∃ t, exec c.1 s = .next t ∧ Jumped s t (s.note (.branch there)) 2 there) ∧
      (c.2 = false → ∃ t, exec c.1 s = .next t ∧ Jumped s t s 2 (s.pc + 4))) ∧
  (∀ (s : State) (d a : BitVec 5) (o : BitVec 21) (i : BitVec 16),
    let link : Word := (s.pc + 4).zeroExtend 64
    let x := BitVec.ofInt 15 (s.pc.toNat + o.toInt * 4)
    let y := BitVec.ofInt 15 ((s.g a).toInt + i.toInt * 4)
    (s.canPay 2 = true → ∃ t, exec (.jal d o) s = .next t ∧ Jumped s t ((s.note (.branch x)).setG d link) 2 x ∧
      ∀ r, t.g r = if r = 0 then 0 else if r = d then link else s.g r) ∧
    (y.toNat % 4 = 0 → s.canPay 2 = true →
      ∃ t, exec (.jalr d a i) s = .next t ∧ Jumped s t ((s.note (.branch y)).setG d link) 2 y ∧
        ∀ r, t.g r = if r = 0 then 0 else if r = d then link else s.g r) ∧
    (y.toNat % 4 ≠ 0 → s.unitMode = true → s.canPay 2 = true → Traps (.jalr d a i) s 2 causeMISALIGN 0 (y.zeroExtend 64)))

/-- R83, R111 and R112: RPT. With no replay left it costs two coins and goes past its frame; otherwise its frame begins and its own word
counts with the last frame word; a progress beyond the frame is ILLOP 0x01. -/
def Obligations.RepeatFrames : Prop :=
  ∀ (s : State) (c : BitVec 5) (n : BitVec 4) (d a b : BitVec 2), s.isTeller = false → frameFits s.pc (n.toNat + 1) = true →
    let x := s.g c
    let good := ∀ j, j ≤ n.toNat → frameWordOk (s.storeWord s.curCore (framePc s.pc j)) = true
    let sound := ∀ j, j ≤ n.toNat → s.bad.contains (storeKey s.curCore ((framePc s.pc j).toNat / 64 * 64)) = false
    (n.toNat + 1 ≤ Rpt.word x → s.unitMode = true → Traps (.rpt c n d a b) s 0 causeILLOP 1 x) ∧
    (Rpt.word x ≤ n.toNat → ¬sound → Waits (.rpt c n d a b) s) ∧
    (Rpt.word x ≤ n.toNat → sound → good → s.canPay 2 = true → Rpt.rem x = 0 →
      ∃ t, exec (.rpt c n d a b) s = .next t ∧ Jumped s t s 2 (s.pc + 4 + 4 * (n.zeroExtend 15 + 1))) ∧
    (Rpt.word x ≤ n.toNat → sound → good → s.canPay 2 = true → Rpt.rem x ≠ 0 →
      ∃ t, exec (.rpt c n d a b) s = .next t ∧ Paid s t 2 ∧ t.replay = some ⟨c, n, d, a, b⟩ ∧ t.pc = s.pc ∧
        t.slot.instret = s.slot.instret ∧ (∀ r, t.g r = s.g r) ∧ (∀ r, t.v r = s.v r) ∧ t.mem = s.mem ∧
        t.bare = (s.updSlot (fun l => { l with rpt := some ⟨c, n, d, a, b⟩ })).bare) ∧
    (∀ j, j ≤ n.toNat → Rpt.word x ≤ n.toNat → sound → s.unitMode = true → (∀ k, k < j → frameWordOk (s.storeWord s.curCore (framePc s.pc k)) = true) →
      frameWordOk (s.storeWord s.curCore (framePc s.pc j)) = false →
      Traps (.rpt c n d a b) s 0 causeILLOP 0
        (BitVec.ofNat 64 ((framePc s.pc j).toNat * 2 ^ 32 + (s.storeWord s.curCore (framePc s.pc j)).toNat)))

/-- R114, R115 and R116: NEST and NESTQ load a valid descriptor; NEST starts the first claim at the counter's home at once. R117: NEXT
hands out the chunk's first index: k0 to k3 hold its four digits over the nest's extents, each from its own base; g[a] is 1; an exhausted
nest gives 0 and leaves k0 to k3. The claim's coins are charged as it starts (log entry 23). -/
def Obligations.NestLoadsAndNext : Prop :=
  (∀ (s : State) (a b : BitVec 5), s.Ordered → s.isTeller = false → s.slot.nest.pending = false →
    let va := s.g a
    let bs := readLocal s s.curCore va.toNat 64
    let n := nestOf bs
    let p := s.correctedLocal s.curCore va.toNat 64
    va.toNat % 64 = 0 → localRange s va 8 false = none → localRange s va 64 true = none → nestValid bs = true →
    (n.ctr.toNat % 8 = 0 → pmapPending s n.ctr = false → s.canPay (2 + 2 * routeHops s (routeOf s n.ctr)) = true →
      ∃ t, exec (.nest a) s = .next t ∧
        Ran s t ((p.updSlot (fun l => { l with nest := { n with pending := true } })).post (routeOf s n.ctr) 2 (s.me 0)
          (.claim n.ctr n.count n.p.toNat n.f.toNat n.cmin.toNat)) (2 + 2 * routeHops s (routeOf s n.ctr))) ∧
    (s.canPay 2 = true →
      Completes (.nestq a b) s 2
        (p.updSlot (fun l => { l with nest := { n with queueMode := true, queue := (s.g b).extractLsb' 0 3 } })))) ∧
  (∀ (s : State) (a b : BitVec 5), s.unitMode = true → s.slot.nest.pending = false → s.canPay 2 = true →
    ∀ i ∈ [Instr.nest a, Instr.nestq a b],
      (∀ c sub v, localRange s (s.g a) 8 false = some (.trap c sub v) → Traps i s 2 c sub v) ∧
      (localRange s (s.g a) 8 false = none → (s.g a).toNat % 64 ≠ 0 → Traps i s 2 causeMISALIGN 0 (s.g a))) ∧
  (∀ (s : State) (a : BitVec 5), s.isTeller = false →
    let n := s.slot.nest
    let l := n.first.toNat
    n.valid = true → n.fresh = false →
    (n.exhausted = true → s.canPay 2 = true → GivesG (.next a) s 2 a 0) ∧
    (n.exhausted = false → n.first ≠ n.last → (n.first + 1 ≠ n.last ∨ n.queueMode = true) → s.canPay 2 = true →
      ∃ t, exec (.next a) s = .next t ∧
        (s.replay = none → ∀ r, t.g r = if r = 0 then 0 else if r = a then 1 else s.g r) ∧
        t.ctx.k[0] = n.b[0] + BitVec.ofNat 32 (l % n.e[0].toNat) ∧
        t.ctx.k[1] = n.b[1] + BitVec.ofNat 32 (l / n.e[0].toNat % n.e[1].toNat) ∧
        t.ctx.k[2] = n.b[2] + BitVec.ofNat 32 (l / (n.e[0].toNat * n.e[1].toNat) % n.e[2].toNat) ∧
        t.ctx.k[3] = n.b[3] + BitVec.ofNat 32 (l / (n.e[0].toNat * n.e[1].toNat * n.e[2].toNat) % n.e[3].toNat) ∧
        t.slot.nest = { n with first := n.first + 1 } ∧ t.mem = s.mem ∧ t.net = s.net ∧
        Ran s t (((s.updSlot (fun x => { x with nest := { x.nest with first := n.first + 1 } })).updCtx
          (fun r => { r with k := nestIndex n l })).setG a 1) 2))

/-- R31: a trap in system mode is a double trap: the slot stops issuing with every register intact, the trap registers are not
overwritten, and both hubs are told; a trap of the teller ends its handler as a handler fault. -/
def Obligations.DoubleTrap : Prop :=
  ∀ (s : State) (cause sub : BitVec 8) (val : Word),
    (s.isTeller = false → s.unitMode = false →
      let t := s.trap cause sub val
      t.ctx = s.ctx ∧ t.slot.trapcause = s.slot.trapcause ∧ t.slot.trappc = s.slot.trappc ∧ t.slot.trapval = s.slot.trapval ∧
      t.here.dbgMod.reason.get s.curSlotNo = 6 ∧ isStopped t s.curCore s.curSlotNo = true ∧
      t.portA.events = s.portA.events ++ [.doubleTrap s.curCore s.curSlotNo.val] ∧
      t.portB.events = s.portB.events ++ [.doubleTrap s.curCore s.curSlotNo.val] ∧ t.mem = s.mem ∧
      (∀ c, c ≠ s.curCore → t.core c = s.core c)) ∧
    (∀ a, s.curWho = .teller → s.here.teller.act = some a →
      let t := s.trap cause sub val
      t.here.teller.act = none ∧ t.here.teller.ctx = s.here.teller.ctx ∧ t.mem = s.mem ∧
      t.portA.events = s.portA.events ++
        [.handlerFault (s.handlerFaultRec s.curCore a.handler s.here.teller.ctx.pc cause sub 0 val a.msg.src)] ∧
      t.portB.events = s.portB.events ++
        [.handlerFault (s.handlerFaultRec s.curCore a.handler s.here.teller.ctx.pc cause sub 0 val a.msg.src)])

/-- R30: what taking a trap does, in one step, to a slot in unit mode. Table 4.17 and R119 to R123: the other SYS instructions in a
slot. R123: EXIT ends the unit once nothing of it is outstanding: the slot is empty, the completion goes to the root, and the matrix unit,
the reservations and the stubs that were the unit's are released; a held fault record traps first. The coins before a TRAP or BRK, the PC
of a captured BRK and the low bits of TRAPPC at ERET are the model's readings (log entries 23, 25 and 26). -/
def Obligations.SystemInstructions : Prop :=
  (∀ (s : State) (cause sub : BitVec 8) (val : Word), s.unitMode = true → Entered s (s.trap cause sub val) 0 cause sub val) ∧
  (∀ (s : State) (c : BitVec 10) (w : InstrWord), s.isTeller = false →
    (s.unitMode = true → s.canPay 2 = true → Traps (.trap c) s 2 causeTRAPI 0 (c.zeroExtend 64)) ∧
    (s.unitMode = true → s.canPay 2 = true → s.here.dbgMod.brkcap = false → Traps (.brk c) s 2 causeBREAK 0 (c.zeroExtend 64)) ∧
    (s.canPay 2 = true → s.here.dbgMod.brkcap = true → s.here.dbgMod.reason.get s.curSlotNo = 0 →
      ∃ t, exec (.brk c) s = .next t ∧ isStopped t s.curCore s.curSlotNo = !s.here.dbgMod.sstep.getLsbD s.curSlotNo.val ∧
        t.here.dbgMod.reason.get s.curSlotNo = 3 ∧ t.ctx = s.ctx ∧ t.mem = s.mem) ∧
    (s.unitMode = true → Traps (.illegalWord w) s 0 causeILLOP 0 (w.zeroExtend 64)) ∧
    (s.unitMode = true → s.canPay 2 = true → Traps .eret s 2 causePRIV 0 0) ∧
    (s.unitMode = false → s.canPay 2 = true →
      ∃ t, exec .eret s = .next t ∧ Paid s t 2 ∧ t.pc.toNat = s.slot.trappc.toNat / 4 * 4 ∧
        t.ctx.status.getLsbD 0 = s.ctx.status.getLsbD 4 ∧ t.ctx.status.extractLsb' 1 4 = s.ctx.status.extractLsb' 1 4 ∧
        t.slot.trapcause = s.slot.trapcause ∧ t.slot.trapval = s.slot.trapval ∧ t.slot.trappc = s.slot.trappc ∧
        (∀ r, t.g r = s.g r) ∧ (∀ r, t.v r = s.v r) ∧ (∀ r, t.m r = s.m r) ∧ t.mem = s.mem) ∧
    (s.canPay 2 = true → Completes .yield s 2 (s.updSlot (fun l => { l with yielded := true })))) ∧
  (∀ (s : State), s.isTeller = false →
    let kept := fun k => ∀ g ∈ s.here.grants, k < tillKey g.lender 0 ∨ tillKey g.lender 0 + 0x1E000 ≤ k
    (s.slot.waiting = false → s.canPay 2 = true) →
    (s.slot.fault = none → opsLive s s.curCore s.curSlotNo = false → s.slot.nest.pending = false →
      mtxBusy s s.curCore s.curSlotNo = false →
      ∃ t, exec .exit s = .next t ∧
        t.slotAt s.curCore s.curSlotNo = { Slot.reset with ctx := { s.slot.ctx with pc := 0, status := 0, fpmode := 0 } } ∧
        (clearingMod s s.slot.jobid = s.modNo → t.dist.queue = s.dist.queue ++
          [⟨s.cycle, .completion ⟨s.curCore, s.curSlotNo.val, 0, s.slot.jobid, s.slot.launchid, s.slot.unitid⟩⟩]) ∧
        t.purse s.curCore = s.purse s.curCore - (if s.slot.waiting then 0 else 2) ∧
        ((∀ g ∈ s.here.grants, g.lender ≠ s.curCore) → ∀ k, k ≠ s.curSlotNo → t.slotAt s.curCore k = s.slotAt s.curCore k) ∧
        (s.here.owner = some s.curSlotNo → t.here.owner = none) ∧
        (∀ k, kept k → s.here.owner ≠ some s.curSlotNo → t.mem.read k = s.mem.read k) ∧
        (∀ k, kept k → k < latchKey s.curCore 0 ∨ latchKey s.curCore 0 + 4096 ≤ k → t.mem.read k = s.mem.read k)) ∧
    (∀ r, s.slot.fault = some r → s.unitMode = true →
      ∃ t, exec .exit s = .next t ∧ t.slot.trapcause = r.sub ++ r.cause ∧ t.slot.trapval = r.addr ∧ t.pc = s.slot.trapvec ∧
        t.mem = s.mem) ∧
    (s.slot.fault = none → (opsLive s s.curCore s.curSlotNo = true ∨ s.slot.nest.pending = true ∨
      mtxBusy s s.curCore s.curSlotNo = true) →
      (s.slot.waiting = true → Waits .exit s) ∧
      (s.slot.waiting = false → ∃ t, exec .exit s = .next t ∧ Paid s t 2 ∧ t.pc = s.pc ∧ t.slot.instret = s.slot.instret ∧ t.mem = s.mem ∧
        t.bare = (s.updSlot (fun l => { l with waiting := true })).bare)))

/-! ### The vector families (05_vector.md) -/

/-- R128, R129, R137 and Table 5.3: the integer lanes. -/
def Obligations.IntegerLanes : Prop :=
  ∀ (s : State) (d a b : BitVec 5) (m : BitVec 3) (q e : BitVec 2) (x y : Row) (pop : Option (Fin 8)),
    vSources s q a b = .got x y pop → s.canPay 6 = true →
    let z := 2 ^ e.toNat
    let w := 8 * z
    let act := fun j => (s.m m).getLsbD (j * z)
    let X := fun j => lane z x j
    let Y := fun j => lane z y j
    let SX := fun j => signedOf w (lane z x j)
    let SY := fun j => signedOf w (lane z y j)
    let wrap := fun (v : Int) => (v % 2 ^ w).toNat
    GivesLanes (.vadd d a b m q e) s 6 pop d z act (fun j => X j + Y j) ∧
    GivesLanes (.vsub d a b m q e) s 6 pop d z act (fun j => wrap ((X j : Int) - Y j)) ∧
    GivesLanes (.vmul d a b m q e) s 6 pop d z act (fun j => X j * Y j) ∧
    GivesLanes (.vmulh d a b m q e) s 6 pop d z act (fun j => wrap (SX j * SY j / 2 ^ w)) ∧
    GivesLanes (.vmin d a b m q e) s 6 pop d z act (fun j => wrap (min (SX j) (SY j))) ∧
    GivesLanes (.vmax d a b m q e) s 6 pop d z act (fun j => wrap (max (SX j) (SY j))) ∧
    GivesLanes (.vminu d a b m q e) s 6 pop d z act (fun j => min (X j) (Y j)) ∧
    GivesLanes (.vmaxu d a b m q e) s 6 pop d z act (fun j => max (X j) (Y j)) ∧
    GivesLanes (.vand d a b m q e) s 6 pop d z act (fun j => X j &&& Y j) ∧
    GivesLanes (.vor d a b m q e) s 6 pop d z act (fun j => X j ||| Y j) ∧
    GivesLanes (.vxor d a b m q e) s 6 pop d z act (fun j => X j ^^^ Y j) ∧
    GivesLanes (.vsll d a b m q e) s 6 pop d z act (fun j => X j * 2 ^ (Y j % w)) ∧
    GivesLanes (.vsrl d a b m q e) s 6 pop d z act (fun j => X j / 2 ^ (Y j % w)) ∧
    GivesLanes (.vsra d a b m q e) s 6 pop d z act (fun j => wrap (SX j / 2 ^ (Y j % w))) ∧
    GivesLanes (.vabsd d a b m q e) s 6 pop d z act (fun j => (SX j - SY j).natAbs) ∧
    GivesLanes (.vadds d a b m q e) s 6 pop d z act
      (fun j => wrap (max (-(2 ^ (w - 1))) (min (2 ^ (w - 1) - 1) (SX j + SY j))))

/-- R128, R129, R138 and Table 5.4: the floating-point lanes; flags come from active elements only. R73 to R75 and R146: the
transcendental functions run on each active element at 40 coins, whatever FPMODE.RM is. Rounding of the transcendental functions is exact
as far as log entry 19 says. -/
def Obligations.FloatLanes : Prop :=
  (∀ (s : State) (d a b : BitVec 5) (m : BitVec 3) (q e : BitVec 2) (x y : Row) (pop : Option (Fin 8)),
    let f := ewFmt e
    let z := f.width / 8
    let c := if e = 3 then 16 else 12
    let k := if e = 3 then 32 else 24
    let act := fun j => (s.m m).getLsbD (j * z)
    let X := fun j => lane z x j
    let Y := fun j => lane z y j
    let Z := fun j => lane z (s.v d) j
    (vSources s q a b = .got x y pop → s.canPay c = true →
      GivesFLanes (.vfadd d a b m q e) s c pop d z act (fun j => fAdd f s.rm (X j) (Y j)) ∧
      GivesFLanes (.vfsub d a b m q e) s c pop d z act (fun j => fSub f s.rm (X j) (Y j)) ∧
      GivesFLanes (.vfmul d a b m q e) s c pop d z act (fun j => fMul f s.rm (X j) (Y j)) ∧
      GivesFLanes (.vfma d a b m q e) s c pop d z act (fun j => fFma f s.rm (X j) (Y j) (Z j)) ∧
      GivesFLanes (.vfms d a b m q e) s c pop d z act (fun j => fFma f s.rm (X j) (Y j) (Z j ^^^ 2 ^ (f.width - 1))) ∧
      GivesFLanes (.vfmin d a b m q e) s c pop d z act (fun j => fMinMax false f (X j) (Y j)) ∧
      GivesFLanes (.vfmax d a b m q e) s c pop d z act (fun j => fMinMax true f (X j) (Y j))) ∧
    (vSources s q a b = .got x y pop → s.canPay k = true →
      GivesFLanes (.vfdiv d a b m q e) s k pop d z act (fun j => fDiv f s.rm (X j) (Y j))) ∧
    (vSources s q a 0 = .got x y pop →
      (s.canPay k = true → GivesFLanes (.vfsqrt d a m q e) s k pop d z act (fun j => fSqrt f s.rm (X j))) ∧
      (s.canPay c = true →
        GivesFLanes (.vfabs d a m q e) s c pop d z act (fun j => signOp f (X j) false) ∧
        GivesFLanes (.vfneg d a m q e) s c pop d z act (fun j => signOp f (X j) (!(X j).testBit (f.width - 1)))))) ∧
  (∀ (s : State) (d a : BitVec 5) (m : BitVec 3) (q e : BitVec 2) (x y : Row) (pop : Option (Fin 8)),
    vSources s q a 0 = .got x y pop → s.canPay 40 = true →
    let f := ewFmt e
    let z := f.width / 8
    let fs : List (Instr × MathFn) :=
      [(.vexp2 d a m q e, .exp2), (.vlog2 d a m q e, .log2), (.vexp d a m q e, .exp), (.vlog d a m q e, .log),
       (.vsin d a m q e, .sin), (.vcos d a m q e, .cos), (.vtanh d a m q e, .tanh), (.vsigm d a m q e, .sigm),
       (.verf d a m q e, .erf), (.vrcp d a m q e, .rcp), (.vrsqrt d a m q e, .rsqrt)]
    ∀ p ∈ fs, GivesFLanes p.1 s 40 pop d z (fun j => (s.m m).getLsbD (j * z)) (fun j => mathOp f p.2 (lane z x j)))

/-- R139: conversions between widths: n = 64 / max(es, ed) elements, zero above them. R57, R140, R141 and R142: conversions with a narrow
format. `N r j` is narrow element j of a row. The greatest magnitude of a signed fixed-point format is the model's reading (log entry 45),
and so is that a signalling NaN among the values of a VQBLK whose code is 255 sets NV (log entry 71). -/
def Obligations.VectorConversions : Prop :=
  (∀ (s : State) (d a : BitVec 5) (r w : BitVec 2) (u : BitVec 1) (m : BitVec 3) (q e : BitVec 2) (x y : Row) (pop : Option (Fin 8)),
    vSources s q a 0 = .got x y pop → s.canPay 6 = true →
    let f := ewFmt e
    let z := f.width / 8
    let zr := (ewFmt r).width / 8
    let zi := 2 ^ w.toNat
    GivesConv (.vcvtf d a r m q e) s pop d (64 / max zr z) z (fun j => (s.m m).getLsbD (j * z))
      (fun j => fCvt f (ewFmt r) s.rm (lane zr x j)) ∧
    GivesConv (.vftoi d a u w m q e) s pop d (64 / max z zi) zi (fun j => (s.m m).getLsbD (j * zi))
      (fun j => fToI f (8 * zi) (u = 0) s.rm (lane z x j)) ∧
    GivesConv (.vitof d a u w m q e) s pop d (64 / max zi z) z (fun j => (s.m m).getLsbD (j * z))
      (fun j => iToF f s.rm (if u = 0 then signedOf (8 * zi) (lane zi x j) else (lane zi x j : Int)))) ∧
  (∀ (s : State) (d a : BitVec 5) (n m : BitVec 3) (q e : BitVec 2) (x y : Row) (pop : Option (Fin 8)),
    let g := NarrowFmt.ofBits (s.fdReg n)
    let f := ewFmt e
    let z := f.width / 8
    let act := fun j => (s.m m).getLsbD (j * z)
    let N := fun (r : Row) (j : Nat) => r.toNat / 2 ^ (g.stride * j) % 2 ^ g.stride
    let c := lane 1 (s.v (d + 1)) 0
    fdValid (s.fdReg n) = true →
    (vSources s q a 0 = .got x y pop → s.canPay 6 = true →
      (∃ row fl, GivesRow (.vnarrow d a n m q e) s 6 pop d row fl ∧ row.toNat < 2 ^ (g.stride * (64 / z)) ∧
        (∀ j, j < 64 / z → N row j =
          if act j then (roundNarrow g s.rm (unpack f (lane z x j))).bits % 2 ^ g.stride else N (s.v d) j) ∧
        ∀ k, fl.getLsbD k = true ↔ ∃ j, j < 64 / z ∧ act j = true ∧ (roundNarrow g s.rm (unpack f (lane z x j))).fl.getLsbD k = true) ∧
      GivesFLanes (.vwiden d a n m q e) s 6 pop d z act
        (fun j => packFixed f s.rm (scaleBlock c (narrowVal g (g.elem x.toNat j))))) ∧
    (∀ k, k = g.perRow * z / 64 → s.canPay (6 * k) = true → s.isTeller = false →
      let V := fun j => unpack f (lane z (s.v (a + BitVec.ofNat 5 (j * z / 64))) (j % (64 / z)))
      let R := fun (h : NarrowFmt) (b : Nat) (j : Nat) => if b = 255 then ⟨0, flNone⟩ else roundNarrow h s.rm ((V j).scale (127 - (b : Int)))
      (∃ row fl, GivesRow (.vscale d a n e) s (6 * k) none d row fl ∧ row.toNat < 2 ^ (g.stride * g.perRow) ∧
        (∀ j, j < g.perRow → N row j = (R g c j).bits % 2 ^ g.stride) ∧
        ∀ i, fl.getLsbD i = true ↔ ∃ j, j < g.perRow ∧ (R g c j).fl.getLsbD i = true) ∧
      (∃ t row fl b, exec (.vqblk d a n e) s = .next t ∧ b = chooseScale g ((List.range g.perRow).map V) ∧
        Ran s t (((s.setV (d + 1) (packLanes 1 (List.replicate 64 b))).setV d row).raise fl) (6 * k) ∧
        (∀ j, j < g.perRow → N row j = (R { g with sat := true } b j).bits % 2 ^ g.stride) ∧
        (b ≠ 255 → ∀ i, fl.getLsbD i = true ↔ ∃ j, j < g.perRow ∧ (R { g with sat := true } b j).fl.getLsbD i = true) ∧
        (b = 255 → (∃ j, j < g.perRow ∧ (V j).isSnan = true) → fl = 0b10000) ∧
        (b = 255 → (∀ j, j < g.perRow → (V j).isSnan = false) → fl = 0))))

/-- R143 and Table 5.6: permutes and moves between the register files. R149, R150, R151: lent register banks. VXCH exchanges in one step,
between borrower and lender. -/
def Obligations.Permutes : Prop :=
  (∀ (s : State) (d a b : BitVec 5) (m : BitVec 3) (q e : BitVec 2) (x y : Row) (pop : Option (Fin 8)), s.canPay 6 = true →
    let z := 2 ^ e.toNat
    let n := 64 / z
    let act := fun j => (s.m m).getLsbD (j * z)
    let X := fun j => lane z x j
    let Y := fun j => lane z y j
    let k := (s.g b).toNat
    GivesLanes (.vbcast d a m e) s 6 none d z act (fun _ => (s.g a).toNat) ∧
    GivesLanes (.vins d a b e) s 6 none d z (fun j => k == j) (fun _ => (s.g a).toNat) ∧
    (vSources s q a 0 = .got x y pop →
      (∃ t, exec (.vext d a b q e) s = .next t ∧
        Ran s t ((s.popOpt pop).setG d (if k < n then BitVec.ofNat 64 (X k) else 0)) 6 ∧
        (s.replay = none → ∀ r, t.g r = if r = 0 then 0 else if r = d then (if k < n then BitVec.ofNat 64 (X k) else 0) else s.g r)) ∧
      GivesLanes (.vslideu d a b m q e) s 6 pop d z act (fun j => if k ≤ j then X (j - k) else 0) ∧
      GivesLanes (.vslided d a b m q e) s 6 pop d z act (fun j => if j + k < n then X (j + k) else 0)) ∧
    (vSources s q a b = .got x y pop →
      GivesLanes (.vperm d a b m q e) s 6 pop d z act (fun j => if Y j < n then X (Y j) else 0) ∧
      GivesLanes (.vzip d a b m q e) s 6 pop d z act (fun j => if j % 2 = 0 then X (j / 2) else Y (j / 2)) ∧
      GivesLanes (.vunzip d a b m q e) s 6 pop d z act (fun j => if j < n / 2 then X (2 * j) else Y (2 * (j - n / 2))) ∧
      GivesLanes (.vmerge d a b m q e) s 6 pop d z (fun _ => true) (fun j => if act j then X j else Y j))) ∧
  ∀ (s : State) (d : BitVec 5) (n : BitVec 6) (r : BitVec 3), s.isTeller = false →
    (∀ c, lenderOf s.here (n.toNat / 16) = some c → s.canPay 6 = true →
      let k : Fin 4 := ⟨n.toNat % 16 / 4, by omega⟩
      let j := BitVec.ofNat 5 (8 * (n.toNat % 4) + r.toNat)
      let old := (s.slotAt c k).ctx.v.get j.toFin
      ∃ t, exec (.vxch d n r) s = .next t ∧ t.v d = old ∧ (∀ i, i ≠ d → c ≠ s.curCore → t.v i = s.v i) ∧
        (c ≠ s.curCore → (t.slotAt c k).ctx = { (s.slotAt c k).ctx with v := (s.slotAt c k).ctx.v.set j.toNat (s.v d) j.isLt }) ∧
        (∀ i, i ≠ c → i ≠ s.curCore → t.core i = s.core i) ∧ (∀ i, t.g i = (s.afterWord s).g i) ∧ t.mem = s.mem ∧ Paid s t 6) ∧
    (lenderOf s.here (n.toNat / 16) = none → s.unitMode = true → Traps (.vxch d n r) s 0 causeLOCALBOUND 1 (n.zeroExtend 64)) ∧
    (s.canPay 2 = true →
      ∃ t x, exec (.lwin d) s = .next t ∧ Ran s t ((s.logged 5 (bytesOf 8 x)).setG d (BitVec.ofNat 64 x)) 2 ∧ x < 16 ∧
        (s.replay = none → ∀ i, t.g i = if i = 0 then 0 else if i = d then BitVec.ofNat 64 x else s.g i) ∧
        ∀ k, k < 4 → x.testBit k = (lenderOf s.here k).isSome)

/-- R72, R144 and R145: reductions over the active lanes. The floating-point ones follow the tree of R72, whose node j of a level is
formed from nodes 2j and 2j + 1 of the level below; VRSUM of integers is the sum modulo 2^64. -/
def Obligations.LaneReductions : Prop :=
  ∀ (s : State) (d a : BitVec 5) (m : BitVec 3) (q e : BitVec 2) (x y : Row) (pop : Option (Fin 8)),
    vSources s q a 0 = .got x y pop →
    let f := ewFmt e
    let z := f.width / 8
    let c := if e = 3 then 16 else 12
    let depth := if e = 3 then 3 else if e = 2 then 4 else 5
    let leaf := fun j => if (s.m m).getLsbD (j * z) then some (leafF f (lane z x j)) else none
    let root := fun (g : Nat → Nat → FOut) (o : Nat) => (treeNode (joinF g) leaf depth 0).getD ⟨o, flNone⟩
    let only := fun (v : FOut) (row : Row) => lane z row 0 = v.bits % 2 ^ (8 * z) ∧ ∀ j, 0 < j → j < 64 / z → lane z row j = 0
    (∀ l, leafF f l = if (unpack f l).isNan then ⟨f.nanBits, if (unpack f l).isSnan then flNV else flNone⟩ else ⟨l, flNone⟩) ∧
    (∀ (g : Nat → Nat → FOut) (v w : FOut), joinF g v w = ⟨(g v.bits w.bits).bits, v.fl ||| w.fl ||| (g v.bits w.bits).fl⟩) ∧
    (s.canPay c = true → ∃ row, GivesRow (.vrsum d a m q e) s c pop d row (root (fAdd f s.rm) 0).fl ∧ only (root (fAdd f s.rm) 0) row) ∧
    (s.canPay 6 = true →
      (∃ row, GivesRow (.vrmax d a m q e) s 6 pop d row (root (fMinMax true f) (f.signBit true + f.infBits)).fl ∧
        only (root (fMinMax true f) (f.signBit true + f.infBits)) row) ∧
      (∃ row, GivesRow (.vrmin d a m q e) s 6 pop d row (root (fMinMax false f) f.infBits).fl ∧
        only (root (fMinMax false f) f.infBits) row) ∧
      (∃ row, GivesRow (.vrsumi d a m q e) s 6 pop d row flNone ∧
        row.toNat = (((List.range (64 / 2 ^ e.toNat)).map (fun j =>
          if (s.m m).getLsbD (j * 2 ^ e.toNat) then signedOf (8 * 2 ^ e.toNat) (lane (2 ^ e.toNat) x j) else 0)).sum % 2 ^ 64).toNat)) ∧
    (s.canPay c = true → ∃ row fl, GivesRow (.vscan d a m q e) s c pop d row fl ∧
      ∃ acc : Nat → FOut,
        (∀ j, acc j =
          match ((List.range j).filter (fun k => (s.m m).getLsbD (k * z))).getLast? with
          | none => leafF f (lane z x j)
          | some k => fAdd f s.rm (acc k).bits (lane z x j)) ∧
        (∀ j, j < 64 / z →
          lane z row j = if (s.m m).getLsbD (j * z) then (acc j).bits % 2 ^ (8 * z) else lane z (s.v d) j) ∧
        ∀ k, fl.getLsbD k = true ↔ ∃ j, j < 64 / z ∧ (s.m m).getLsbD (j * z) = true ∧ (acc j).fl.getLsbD k = true)

/-- R147 and Table 5.9: compares. All e bits of an active element take the answer; those of an inactive one stay. R143 and R148: masks as
words: logic on all 64 bits, the count and the first of the elements a mask selects, and MSET. -/
def Obligations.ComparesAndMasks : Prop :=
  (∀ (s : State) (d : BitVec 3) (a b : BitVec 5) (m : BitVec 3) (q e : BitVec 2) (x y : Row) (pop : Option (Fin 8)),
    vSources s q a b = .got x y pop → s.canPay 6 = true →
    let z := 2 ^ e.toNat
    let w := 8 * z
    let f := ewFmt e
    let zf := f.width / 8
    let X := fun j => lane z x j
    let Y := fun j => lane z y j
    let int := fun (i : Instr) (r : Nat → Bool) => GivesBits i s 6 pop d z (fun j => (s.m m).getLsbD (j * z)) r 0
    let flt := fun (i : Instr) (c : Nat) => ∃ fl,
      GivesBits i s 6 pop d zf (fun j => (s.m m).getLsbD (j * zf)) (fun j => (fCmp f c (lane zf x j) (lane zf y j)).1) fl ∧
      ∀ k, fl.getLsbD k = true ↔
        ∃ j, j < 64 / zf ∧ (s.m m).getLsbD (j * zf) = true ∧ (fCmp f c (lane zf x j) (lane zf y j)).2.getLsbD k = true
    int (.vcmpeq d a b m q e) (fun j => X j == Y j) ∧
    int (.vcmpne d a b m q e) (fun j => X j != Y j) ∧
    int (.vcmplt d a b m q e) (fun j => signedOf w (X j) < signedOf w (Y j)) ∧
    int (.vcmple d a b m q e) (fun j => signedOf w (X j) ≤ signedOf w (Y j)) ∧
    int (.vcmpltu d a b m q e) (fun j => X j < Y j) ∧
    int (.vcmpleu d a b m q e) (fun j => X j ≤ Y j) ∧
    flt (.vfcmpeq d a b m q e) 0 ∧ flt (.vfcmplt d a b m q e) 1 ∧ flt (.vfcmple d a b m q e) 2 ∧ flt (.vfcmpun d a b m q e) 3) ∧
  (∀ (s : State) (d a b : BitVec 3) (g : BitVec 5) (e : BitVec 2), s.canPay 2 = true →
    let z := 2 ^ e.toNat
    let act := fun j => (s.m a).getLsbD (j * z)
    GivesM (.mand d a b) s 2 d (s.m a &&& s.m b) ∧
    GivesM (.mor d a b) s 2 d (s.m a ||| s.m b) ∧
    GivesM (.mxor d a b) s 2 d (s.m a ^^^ s.m b) ∧
    GivesM (.mnot d a) s 2 d (~~~(s.m a)) ∧
    GivesM (.mset d g) s 2 d (s.g g) ∧
    GivesG (.mpopc g a e) s 2 g (BitVec.ofNat 64 ((List.range (64 / z)).countP act)) ∧
    ∃ r, GivesG (.mfirst g a e) s 2 g (BitVec.ofNat 64 r) ∧ r ≤ 64 / z ∧ (∀ j, j < r → act j = false) ∧ (r < 64 / z → act r = true))

/-- R161, R162 and Table 6.4: vector loads and stores whose every active element passes its checks. A load writes the active elements of
v[d] and no memory; a store writes the active elements in ascending order and nothing else. Table 6.4: LDVB writes the e bytes at g[a] to
every element. -/
def Obligations.VectorLoadsAndStores : Prop :=
  (∀ (s : State) (d a b : BitVec 5) (m : BitVec 3) (e : BitVec 2) (loc : Nat → Loc),
    let z := 2 ^ e.toNat
    let act := fun j => (s.m m).getLsbD (j * z)
    let ls := places (s.m m) z loc
    let n := blockCoins (blocksOf ls)
    let seq := fun j => s.g a + BitVec.ofNat 64 (j * z)
    let strided := fun j => s.g a + BitVec.ofNat 64 j * s.g b
    let indexed := fun j => s.g a + BitVec.ofInt 64 (signedOf (8 * z) (lane z (s.v b) j))
    s.canPay n = true →
    (∀ p ∈ [(Instr.ldv d a m e, seq), (.ldvs d a b m e, strided), (.ldvx d a b m e, indexed)],
      (∀ j, j < 64 / z → act j = true → access s (p.2 j) z z .read = .ok (loc j)) →
      ∃ t x, ∃ out : Bool, exec p.1 s = .next t ∧
        Ran s t ((if out then (s.touched ls true).logged 2 (rowBytes x) else s.touched ls true).setV d x) n ∧
        (∀ r, t.v r = if r = d then x else s.v r) ∧ (∀ k, t.mem.read k = s.mem.read k) ∧
        ∀ j, j < 64 / z → lane z x j = if act j then s.mem.readNat (loc j).key z else lane z (s.v d) j) ∧
    (∀ p ∈ [(Instr.stv d a m e, seq), (.stvs d a b m e, strided), (.stvx d a b m e, indexed)],
      let whole := (∀ j, j < 64 / z → act j = true ∧ p.2 j = p.2 0 + BitVec.ofNat 64 (j * z)) ∧ (p.2 0).toNat % 64 = 0
      (∀ k, (whole ∧ k = 64) ∨ (¬whole ∧ k = z) → ∀ j, j < 64 / z → act j = true → access s (p.2 j) k z .write = .ok (loc j)) →
      let q : State := { s.touched ls false with
        mem := ((List.range (64 / z)).filter act).foldl (fun mem j => mem.writeNat (loc j).key z (lane z (s.v d) j)) s.mem }
      ∃ t u, exec p.1 s = .next t ∧ Ran s t u n ∧ (whole → u = q.sound ((loc 0).key / 64 * 64)) ∧ (¬whole → u = q) ∧ t.mem = q.mem ∧
        (∀ k, (∀ j, j < 64 / z → act j = true → k < (loc j).key ∨ (loc j).key + z ≤ k) → t.mem.read k = s.mem.read k))) ∧
  (∀ (s : State) (d a : BitVec 5) (e : BitVec 2) (l : Loc),
    let z := 2 ^ e.toNat
    access s (s.g a) z z .read = .ok l → s.canPay (blockCoins [l]) = true →
      ∃ t x, ∃ out : Bool, exec (.ldvb d a e) s = .next t ∧
        Ran s t ((if out then (s.touched [l] true).logged 2 (rowBytes x) else s.touched [l] true).setV d x) (blockCoins [l]) ∧
        (∀ r, t.v r = if r = d then x else s.v r) ∧ (∀ k, t.mem.read k = s.mem.read k) ∧
        ∀ j, j < 64 / z → lane z x j = s.mem.readNat l.key z)

/-! ### Matrix commands as they issue (07_matrix_spans_work.md) -/

/-- R57, R191, R194 to R202: the matrix commands as a slot issues them to a working MTX that is free or its own, with room in the queue:
each takes its coins and is queued; MMA, MST and MLDC join the open batch; the first command of a slot makes it the owner. An MMA that
names an empty inbound queue, or a channel without a free entry, waits (R40, items 4 and 5). -/
def Obligations.MatrixCommandsIssue : Prop :=
  ∀ (s : State) (n : BitVec 3) (c : BitVec 2) (a b k : BitVec 5) (src : BitVec 2) (pass scaled : BitVec 1) (mode : BitVec 2),
    s.isTeller = false →
    let va := s.g a
    let bs := readLocal s s.curCore va.toNat 32
    let read := s.correctedLocal s.curCore va.toNat 32
    let ch := s.slot.chans.get (queueOf b)
    let held := (src = 1 ∧ s.here.queues.get (queueOf b) = []) ∨ (pass = 1 ∧ ch.bound = true ∧ ch.free = 0)
    let room := s.here.mtxQ.length < 4 ∧ (s.here.owner = none ∨ s.here.owner = some s.curSlotNo)
    let cfg := nextCfg s
    let op := s.here.nextOp
    let batch := fun (i : Instr) (x : MtxCmd) => Completes i s 2 ((s.queueMtx x).startOp .matrix va (encode i) .none none 1 none)
    (va.extractLsb' 32 32 = 0 → fdValid (va.extractLsb' 0 32) = true → s.canPay 2 = true →
      Completes (.fdset n a) s 2 (s.updCtx (fun r => { r with fd := r.fd.set n.toNat (va.extractLsb' 0 32) n.isLt }))) ∧
    (mtxWorks s s.curCore = true → room →
      (recordCheck s va 32 32 = none → mcfgValid (mcfgOf bs) = true → s.canPay 6 = true →
        Completes (.mcfg a) s 6 (read.queueMtx (.mcfg (mcfgOf bs)))) ∧
      (recordCheck s va 32 32 = none → mprogValid bs = true → s.canPay 6 = true →
        Completes (.mprog a) s 6 (read.queueMtx (.mprog (mprogOf bs)))) ∧
      (s.canPay 2 = true → Completes (.mzero c) s 2 (s.queueMtx (.mzero c.toFin))) ∧
      (va.toNat % 4 = 0 → eightRanges s va cfg.ostride.toNat (outRow cfg) = none → s.canJoin = true → s.canPay 2 = true →
        batch (.mst c a) (.mst c.toFin va op)) ∧
      (va.toNat % 64 = 0 → localRange s va 1024 false = none → s.canJoin = true → s.canPay 2 = true →
        batch (.mldc a) (.mldc va op)) ∧
      (held → Waits (.mma c a b k src pass scaled mode) s) ∧
      (¬held → (s.g k).toNat ≤ 4096 → ¬(scaled = 1 ∧ mtxInt cfg.afmt cfg.adesc = true) →
        (s.g k ≠ 0 → mmaOperands s a b src (scaled = 1) (s.g k).toNat = none) →
        (pass = 1 → ch.bound = true) → s.canJoin = true → s.canPay 2 = true →
        batch (.mma c a b k src pass scaled mode)
          (.mma c.toFin va (s.g b) (s.g (a + 1)) (s.g (b + 1)) (s.g k).toNat src (queueOf b) (pass = 1) (scaled = 1) (mode = 1) 0 op))) ∧
    (mtxWorks s s.curCore = true → ¬room → ∀ i ∈ [Instr.mcfg a, .mprog a, .mzero c, .mst c a, .mldc a, .mma c a b k src pass scaled mode], Waits i s) ∧
    (mtxWorks s s.curCore = false → s.unitMode = true →
      ∀ i ∈ [Instr.mcfg a, .mprog a, .mzero c, .mst c a, .mldc a, .mma c a b k src pass scaled mode], Traps i s 0 causeILLOP 8 ((encode i).zeroExtend 64))

/-! ### Rows, tiles and copies (06_memory_messages.md) -/

/-- R163: ACT opens the row of a vault address for 250 coins, or 2 when it is open; PRE closes the bank's row for 2; one that a tile
instruction's row holds back is left for the bank to perform, and the context goes on (R241). R164 and R165: TLD,
TLDL and TST take two coins as they issue, make their first checks, and end at once on a count of 0; otherwise the slot runs the tile
instruction, whose steps follow, with PC, registers and memory as they are; a TLDL first waits for the MTX commands queued and for a TLDL
that runs (R252). The coins taken before the first row step's checks are the model's reading (log entry 23). -/
def Obligations.VaultInstructionsIssue : Prop :=
  (∀ (s : State) (a : BitVec 5) (off : Nat), vaultCheck s (s.g a) = .ok off →
    let z := bankOf off
    let k := s.bank s.curCore z
    (k.row = some (rowOfOff off) → s.canPay 2 = true → Completes (.act a) s 2 s) ∧
    (k.row ≠ some (rowOfOff off) → refreshing s s.curCore z = false → pacing s s.curCore = false → s.canPay 250 = true →
      Completes (.act a) s 250 (s.setBank s.curCore z
        (if k.held = [] ∧ tileHolds s s.curCore z (some (rowOfOff off)) = false then
          { k with row := some (rowOfOff off), lastAct := s.cycle.toNat }
        else { k with held := k.held ++ [some (rowOfOff off)] }))) ∧
    (k.row = none → s.canPay 2 = true → Completes (.pre a) s 2 s) ∧
    (k.row ≠ none → refreshing s s.curCore z = false → s.canPay 2 = true →
      Completes (.pre a) s 2 (s.setBank s.curCore z
        (if k.held = [] ∧ tileHolds s s.curCore z none = false then { k with row := none } else { k with held := k.held ++ [none] }))) ∧
    (k.row ≠ some (rowOfOff off) → refreshing s s.curCore z = true ∨ pacing s s.curCore = true → Waits (.act a) s) ∧
    (k.row ≠ none → refreshing s s.curCore z = true → Waits (.pre a) s)) ∧
  (∀ (s : State) (d a b : BitVec 5), s.isTeller = false → s.canPay 2 = true →
    ∀ p ∈ [(Instr.tld d a b, (0 : Fin 3)), (.tldl d a b, 1), (.tst d a b, 2)],
      (p.2 = 1 → mtxWorks s s.curCore = true ∧ (s.here.owner = none ∨ s.here.owner = some s.curSlotNo)) →
      let w := p.2 == 1 && (!s.here.mtxQ.isEmpty || latchBusy s.here)
      let tl : Tile := ⟨p.2, d, a, b, true, [], false, none, none, w⟩
      (∀ c sub v, tileChecks s p.2 d a b = some (.trap c sub v) → s.unitMode = true → Traps p.1 s 2 c sub v) ∧
      (tileChecks s p.2 d a b = none →
        ((s.g b).toNat % 2 ^ 32 = 0 → w = false → Completes p.1 s 2 s) ∧
        ((s.g b).toNat % 2 ^ 32 ≠ 0 ∨ w = true →
          ∃ t, exec p.1 s = .next t ∧ Paid s t 2 ∧ t.slot.tile = some tl ∧ t.pc = s.pc ∧
            t.ctx = s.ctx ∧ t.mem = s.mem ∧ t.slot.instret = s.slot.instret ∧
            t.bare = (s.updSlot (fun l => { l with tile := some tl })).bare)))

/-- R172 to R175: the copies as they issue. Each is one operation of the open batch, of one piece for each 64-byte block, or for each block
and target of a TCPYM; a global side is asked for page by page, of the page's routed home, and a copy with local sides only is the core's
own work; a count of 0 completes at once. TFPR sends one request. No memory changes. The runs of a global side lie one after another in one
page each, and cover the range. Which messages a copy goes as is the model's choice (log entry 11). -/
def Obligations.CopiesIssue : Prop :=
  (∀ (s : State) (d a b : BitVec 5) (c : BitVec 1) (n : BitVec 4), s.Ordered → s.isTeller = false → s.canJoin = true → s.canPay 2 = true →
    let dst := s.g d
    let src := s.g a
    let len := s.g b
    let bar := if c = 0 then none else some n.toFin
    let me := s.me s.here.nextOp
    let skip := fun (x : CopySide) (off : Nat) => { x with addr := x.addr + BitVec.ofNat 64 off }
    (copyCheck len 131072 dst src = none → ¬(isGlobal dst = true ∧ isGlobal src = true) → sideCheck s dst len.toNat false = none →
      sideCheck s src len.toNat true = none →
      let side := if isGlobal dst then dst else src
      let tgt := copySide s s.curCore dst len.toNat
      let source := copySide s s.curCore src len.toNat
      let t := s.startOp .copy side (encode (.tcpy d a b c n)) .none bar (len.toNat / 64) none len.toNat
      (isGlobal side = true → pmapPending s side len.toNat = false) →
      (len.toNat = 0 → Completes (.tcpy d a b c n) s 2 s) ∧
      (len.toNat ≠ 0 →
        (isGlobal src = true → Completes (.tcpy d a b c n) s 2
          (t.postRuns src len.toNat me (fun va off k => .tileRead va k 0 false [skip tgt off] bar))) ∧
        (isGlobal dst = true → Completes (.tcpy d a b c n) s 2
          (t.postRuns dst len.toNat me (fun va off k => .tileWrite va k 0 false (skip source off) [] bar))) ∧
        (isGlobal dst = false → isGlobal src = false → Completes (.tcpy d a b c n) s 2
          (t.updHere (fun x => { x with copies := x.copies ++ [⟨me, source, [tgt], len.toNat, 0, bar⟩] }))))) ∧
    (let k := (len.extractLsb' 0 18).toNat
     let ts := mirrorCores s.curCore (len.extractLsb' 32 8)
     let tills := ts.map (fun x => (⟨x, dst, none⟩ : CopySide))
     let t := s.startOp .copy src (encode (.tcpym d a b c n)) .none bar (k / 64 * ts.length) none k
     copyCheck ((len.extractLsb' 0 18).zeroExtend 64) 122880 dst src = none → inactivePos s s.curCore (len.extractLsb' 32 8) = none →
     multicastRange s dst k = none → sideCheck s src k true = none → (isGlobal src = true → pmapPending s src k = false) →
      (k = 0 ∨ ts = [] → Completes (.tcpym d a b c n) s 2 s) ∧
      (k ≠ 0 → ts ≠ [] →
        (isGlobal src = true → Completes (.tcpym d a b c n) s 2
          (t.postRuns src k me (fun va off r => .tileRead va r 0 false (tills.map (fun x => skip x off)) bar))) ∧
        (isGlobal src = false → Completes (.tcpym d a b c n) s 2
          (t.updHere (fun x => { x with copies := x.copies ++ [⟨me, copySide s s.curCore src k, tills, k, 0, bar⟩] }))))) ∧
    (len.toNat % 64 = 0 → len.toNat ≠ 0 → len.toNat ≤ 65536 → src.toNat < 2 ^ 48 → src.toNat % 64 = 0 →
      src.toNat % 2 ^ 16 + len.toNat ≤ 2 ^ 16 → sideCheck s src len.toNat false = none →
      (isGlobal src = true → pmapPending s src len.toNat = false) →
      Completes (.tfpr d a b) s 2
        ((s.startOp .result src (encode (.tfpr d a b)) (destG d) none 1 none len.toNat).post
          (if isGlobal src then routeOf s src else s.curCore) 5 me
          (.fpr src len.toNat 0 0 (if isGlobal src then none else some (copySide s s.curCore src len.toNat)))))) ∧
  (∀ (va : Word) (n : Nat), va.toNat % 64 = 0 → n % 64 = 0 → n ≤ 131072 → va.toNat + n ≤ 2 ^ 48 →
    let rs := pageRuns 4 va 0 n
    (∀ k, k < n ↔ ∃ r ∈ rs, r.1 ≤ k ∧ k < r.1 + r.2) ∧
    rs.Pairwise (fun x y => x.1 + x.2 ≤ y.1) ∧
    ∀ r ∈ rs, ∀ k, r.1 ≤ k → k < r.1 + r.2 → vpnOf (va + BitVec.ofNat 64 k) = vpnOf (va + BitVec.ofNat 64 r.1))

/-! ### Remote memory and messages -/

/-- R176 to R179: remote loads, stores, read-modify-writes and reservations as they issue: one request to the page's routed home, one
operation of the open batch, the destination marked; RSTR, VRST, RFA, RCAS and SCH with release wait for earlier operations. R176 and
Table 6.1: what the issue checks of remote instructions let pass, and what each failing one traps with, in order. -/
def Obligations.RemoteRequestsIssue : Prop :=
  (∀ (s : State) (d a b : BitVec 5) (o z : BitVec 2) (y : BitVec 1), s.Ordered → s.isTeller = false →
    let va := s.g a
    let n := 2 ^ z.toNat
    let k := if y = 0 then 4 else 8
    let dw := decide (y = 1)
    let rel := o.getLsbD 1
    let rmw := fun (op : RmwOp) => Body.rmw va dw op (s.g b) (s.g d)
    let mk := OpKind.rmw k (decide (y = 0))
    -- instruction, bytes, alignment, release, flit-hops of each hop, handler, kind, destination, request
    let is : List (Instr × Nat × Nat × Bool × Nat × BitVec 6 × OpKind × Dest × Body) :=
      [(.rld d a o z, n, n, false, 2, 0, .marked n false, destG d, .load va n),
       (.rstr d a o z, n, n, rel, 2, 1, .write, .none, .store va (bytesOf n (s.g d).toNat)),
       (.vrld d a o, 64, 1, false, 3, 0, .marked 64 false, .v d, .load va 64),
       (.vrst d a o, 64, 1, rel, 3, 1, .write, .none, .store va (bytesOf 64 (s.v d).toNat)),
       (.rfaAdd d a b o y, k, k, rel, 2, 2, mk, destG d, rmw .add), (.rfaAnd d a b o y, k, k, rel, 2, 2, mk, destG d, rmw .and),
       (.rfaOr d a b o y, k, k, rel, 2, 2, mk, destG d, rmw .or), (.rfaXor d a b o y, k, k, rel, 2, 2, mk, destG d, rmw .xor),
       (.rfaMin d a b o y, k, k, rel, 2, 2, mk, destG d, rmw .min), (.rfaMax d a b o y, k, k, rel, 2, 2, mk, destG d, rmw .max),
       (.rfaMinu d a b o y, k, k, rel, 2, 2, mk, destG d, rmw .minu), (.rfaMaxu d a b o y, k, k, rel, 2, 2, mk, destG d, rmw .maxu),
       (.rfaSwap d a b o y, k, k, rel, 2, 2, mk, destG d, rmw .swap), (.rcas d a b o y, k, k, rel, 2, 2, mk, destG d, rmw .cas),
       (.sch a b y, k, k, true, 2, 3, .write, .none, .sch va dw (s.g b))]
    let ready := fun (release : Bool) =>
      (release = true → releaseDone s 4 = true) ∧ s.canJoin = true ∧ holdFree s va = true ∧ pmapPending s va = false
    let cost := fun (flits : Nat) => 42 + flits * routeHops s (heldRoute s va)
    (∀ i bytes align release flits h kind dest body, (i, bytes, align, release, flits, h, kind, dest, body) ∈ is →
      isGlobal va = true → va.toNat % align = 0 → va.toNat % 2 ^ 16 + bytes ≤ 2 ^ 16 →
      (ready release → s.canPay (cost flits) = true →
        ∃ t, exec i s = .next t ∧ Ran s t (s.request va h kind (encode i) dest body) (cost flits) ∧ t.mem = s.mem ∧
          t.net = s.net ++ [⟨heldRoute s va, h, s.me s.here.nextOp, body⟩] ∧ t.here.ops.length = s.here.ops.length + 1 ∧
          (∀ r, dest = .g r → t.slot.marksG.getLsbD r.toNat = true) ∧ (∀ r, dest = .v r → t.slot.marksV.getLsbD r.toNat = true)) ∧
      (¬ready release → Waits i s)) ∧
    (isGlobal va = true → va.toNat % k = 0 → ready false → s.canPay (cost 2) = true →
      ∃ t, exec (.lrw d a y) s = .next t ∧ t.slot.lrw = some va ∧ t.mem = s.mem ∧ Paid s t (cost 2) ∧
        t.net = s.net ++ [⟨heldRoute s va, 3, s.me s.here.nextOp, .lrw va dw⟩])) ∧
  (∀ (va : Word) (n align : Nat),
    (remoteCheck va n align = none ↔ isGlobal va = true ∧ va.toNat % align = 0 ∧ va.toNat % 2 ^ 16 + n ≤ 2 ^ 16) ∧
    (2 ^ 48 ≤ va.toNat → remoteCheck va n align = some (causeLOCALBOUND, 3)) ∧
    (va.toNat < 0xA0000 → remoteCheck va n align = some (causeLOCALBOUND, 5)) ∧
    (0xA0000 ≤ va.toNat → va.toNat < 0x100000000 → remoteCheck va n align = some (causeLOCALBOUND, 0)) ∧
    (isGlobal va = true → va.toNat % align ≠ 0 → remoteCheck va n align = some (causeMISALIGN, 0)) ∧
    (isGlobal va = true → va.toNat % align = 0 → 2 ^ 16 < va.toNat % 2 ^ 16 + n → remoteCheck va n align = some (causeSPANCROSS, 0)))

/-- R180 and Table 6.6: SEND and SENDM. The payload is read at issue; the message takes one flit and one for each 64 bytes, over the hops
to each addressee; in a slot it is one operation of the open batch, kept while a resident handler's request may fault (R284); no register
and no memory changes. SENDM goes to every named position of the octet, all of which must be active. The order of the checks is the
model's reading (log entry 27), and so is that a trap at issue charges nothing (log entry 23). -/
def Obligations.MessagesLeave : Prop :=
  ∀ (s : State) (d a b : BitVec 5) (h : BitVec 6), s.Ordered →
    let c := (s.g a).extractLsb' 0 26
    let n := (s.g d).toNat
    let body := Body.user (readLocal s s.curCore (s.g b).toNat (64 * n))
    let mask := (s.g a).extractLsb' 32 8
    let cost := 2 + (1 + n) * s.hopsTo c
    let ids := octetIds s c mask
    let ts := ids.filterMap id
    let total := 2 + (1 + n) * (ts.map (fun x => s.hopsTo x)).sum
    let msgs := ts.map (fun x => (⟨s.placeOf x, h, s.me s.here.nextOp, body⟩ : Msg))
    let p := s.correctedLocal s.curCore (s.g b).toNat (64 * n)
    let op := fun (i : Instr) (tgt : Word) (left : Nat) => (p.startOp .sent tgt (encode i) .none none left none).keepSend h
    (h.toNat < 16 → s.unitMode = true → Traps (.send d a b h) s 0 causePRIV 0 (h.zeroExtend 64)) ∧
    (sendCheck s h (s.g d) (s.g b) = none → s.isReachable c = true →
      (s.isTeller = true → s.canPay cost = true →
        Completes (.send d a b h) s cost (p.post (s.placeOf c) h (s.me s.here.nextOp) body)) ∧
      (s.isTeller = false → s.canJoin = true → s.canPay cost = true →
        Completes (.send d a b h) s cost ((op (.send d a b h) (c.zeroExtend 64) 1).post (s.placeOf c) h (s.me s.here.nextOp) body)) ∧
      (none ∉ ids → s.canPay total = true →
        (s.isTeller = true ∨ ts = [] → Completes (.sendm d a b h) s total { p with net := s.net ++ msgs }) ∧
        (s.isTeller = false → ts ≠ [] → s.canJoin = true →
          Completes (.sendm d a b h) s total
            { op (.sendm d a b h) (BitVec.ofNat 64 (c.toNat + mask.toNat * 2 ^ 32)) ts.length with net := s.net ++ msgs })) ∧
      (none ∈ ids → s.unitMode = true → ∃ x, Traps (.sendm d a b h) s 0 causeREMOTEREF 2 x)) ∧
    (sendCheck s h (s.g d) (s.g b) = none → s.isReachable c = false → s.unitMode = true →
      ∀ i ∈ [Instr.send d a b h, .sendm d a b h], Traps i s 0 causeREMOTEREF 2 (c.zeroExtend 64)) ∧
    (∀ k, s.ofId c = some k → ∀ i, i < 8 → mask.getLsbD i = true →
      (if s.isActive (octetCore (octetOf k) i) then some (s.coreId (octetCore (octetOf k) i)) else none) ∈ ids)

/-- R81 and R132: which sources of a V-format word are queues; a pop takes the head entry, and gives its credit back at the plate's cost
(R248, Table 15.4); an empty queue makes a slot wait, and traps QUEUE 0x04 in the teller. R181 and R182: outbound channels and inbound
queues. QPUSH takes a free entry of its channel and sends v[d]; QPOP takes the head entry; QPEEK leaves it; QBIND binds a channel with 16
free entries. That a trap at issue charges nothing is the model's reading (log entry 23). -/
def Obligations.QueuesOfRows : Prop :=
  (∀ (s : State) (a b : BitVec 5),
    vSources s 0 a b = .got (s.v a) (s.v b) none ∧
    (∀ e r, s.here.queues.get (queueOf a) = e :: r → vSources s 1 a b = .got e.data (s.v b) (some (queueOf a))) ∧
    (∀ e r, s.here.queues.get (queueOf b) = e :: r → vSources s 2 a b = .got (s.v a) e.data (some (queueOf b))) ∧
    (s.here.queues.get (queueOf a) = [] → vSources s 1 a b = .empty (queueOf a)) ∧
    (s.here.queues.get (queueOf b) = [] → vSources s 2 a b = .empty (queueOf b)) ∧
    (∀ (q : Fin 8) e r, s.here.queues.get q = e :: r →
      let t := s.popOpt (some q)
      t.here.queues.get q = r ∧ (∀ k, k ≠ q → t.here.queues.get k = s.here.queues.get k) ∧
      t.net = s.net ++ [⟨e.srcCore, 63, ⟨s.curCore, e.srcSlot, 0, 0, 0, 0⟩, .credit e.chan 1 e.gen e.unit e.launch⟩] ∧
      t.housekeeping = s.housekeeping + s.hopsDst s.curCore e.srcCore ∧ t.ctx = s.ctx ∧ t.mem = s.mem) ∧
    (∀ d m e q x, vSources s q a b = .empty x → s.isTeller = false → Waits (.vadd d a b m q e) s) ∧
    (∀ d m e q x, vSources s q a b = .empty x → s.isTeller = true → HandlerTraps (.vadd d a b m q e) s causeQUEUE 4 (BitVec.ofNat 64 x.val))) ∧
  (∀ (s : State) (d a b : BitVec 5) (c : BitVec 3), s.Ordered →
    let o : Fin 8 := c.toFin
    let ch := s.slot.chans.get o
    let core := ch.mod ++ ch.core
    let dest := (s.g a).extractLsb' 0 26
    (s.isTeller = false → ch.bound = true → ch.free ≠ 0 → s.canPay (2 + s.hopsTo core) = true →
      Completes (.qpush d c) s (2 + s.hopsTo core)
        ((s.setChan o { ch with free := ch.free - 1 }).post (s.placeOf core) 63 (s.me 0) (.entry ch.queue.toFin (s.v d) o ch.gen))) ∧
    (s.isTeller = false → ch.bound = true → ch.free = 0 → Waits (.qpush d c) s) ∧
    (s.unitMode = true → ch.bound = false → Traps (.qpush d c) s 0 causeQUEUE 1 (c.zeroExtend 64)) ∧
    (∀ e r, s.here.queues.get o = e :: r → s.canPay 4 = true →
      (∃ t, exec (.qpop d c) s = .next t ∧ Ran s t ((s.popOpt (some o)).setV d e.data) 4 ∧ t.v d = e.data ∧ t.here.queues.get o = r) ∧
      (∃ t, exec (.qpeek d c) s = .next t ∧ Ran s t ((s.logged 3 (bytesOf 64 e.data.toNat)).setV d e.data) 4 ∧ t.v d = e.data ∧
        t.here.queues.get o = e :: r)) ∧
    (s.here.queues.get o = [] → s.isTeller = false → Waits (.qpop d c) s ∧ Waits (.qpeek d c) s) ∧
    (s.here.queues.get o = [] → s.isTeller = true →
      HandlerTraps (.qpop d c) s causeQUEUE 4 (c.zeroExtend 64) ∧ HandlerTraps (.qpeek d c) s causeQUEUE 4 (c.zeroExtend 64)) ∧
    (s.isTeller = false → s.isReachable dest = true → s.canPay 2 = true →
      Completes (.qbind a b c) s 2
        (s.setChan o ⟨true, dest.extractLsb' 18 8, dest.extractLsb' 0 18, (s.g b).extractLsb' 0 3, 16, ch.gen + 1⟩)) ∧
    (s.unitMode = true → s.isReachable dest = false → Traps (.qbind a b c) s 0 causeREMOTEREF 2 (dest.zeroExtend 64)))

/-- R183 and R184: MIG and MIGO set out for the page's home or the unit's origin; on that core already, they only cost two coins; a lease
of more than 32 KiB traps LEASE. HOME tells what the core knows of a page's home. R126: PMAP as it issues: the request goes to the
clearing core of the page that g[a] names, as one operation of the open batch. The home that MIG asks for is read from the page's entry
(log entry 10). What a trap has charged is the model's reading (log entry 23). -/
def Obligations.MigrationAndPageRequests : Prop :=
  (∀ (s : State) (d a : BitVec 5), s.Ordered → s.isTeller = false →
    let va := s.g a
    let bytes := s.slot.leaseSize.toNat * 64
    let go := fun (i : Instr) (dest : BitVec 26) =>
      (dest = s.coreId s.curCore → s.canPay 2 = true → Completes i s 2 s) ∧
      (dest ≠ s.coreId s.curCore → bytes ≤ 32768 → s.canPay 2 = true →
        Completes i s 2 (s.updSlot (fun l => { l with
          phase := if inReplay (s.afterWord s).slot then l.phase else .drain, leaving := some ⟨.mig, dest, 0, none, 0, none⟩ }))) ∧
      (dest ≠ s.coreId s.curCore → 32768 < bytes → s.unitMode = true → Traps i s 0 causeLEASE 0 (BitVec.ofNat 64 bytes))
    go .migo s.slot.origin ∧
    (∀ h, isGlobal va = true → homeOf s va = some h → go (.mig a) h) ∧
    (isGlobal va = true → homeOf s va = none → s.unitMode = true → Traps (.mig a) s 0 causePAGEFAULT 1 va) ∧
    (isGlobal va = true → s.canPay 2 = true →
      let x := homeWord s va
      ∃ t, exec (.home d a) s = .next t ∧ Ran s t ((s.logged 5 (bytesOf 8 x.toNat)).setG d x) 2 ∧
        (findPage s.here.vaultMap s.job (vpnOf va) ≠ none → x = (s.coreId s.curCore).zeroExtend 64) ∧
        (∀ h, findPage s.here.vaultMap s.job (vpnOf va) = none → findHint s.here s.job (vpnOf va) = some h →
          x.getLsbD 62 = true ∧ x.getLsbD 63 = false ∧ x.extractLsb' 0 26 = h) ∧
        (findPage s.here.vaultMap s.job (vpnOf va) = none → findHint s.here s.job (vpnOf va) = none →
          x.getLsbD 63 = true ∧ x.getLsbD 62 = false ∧ x.extractLsb' 0 26 = clearingMod s s.job ++ clearingNo s s.job (vpnOf va)))) ∧
  (∀ (s : State) (d a b : BitVec 5), s.Ordered → s.isTeller = false →
    let va := s.g a
    let x := s.g b
    let op := x.extractLsb' 0 4
    let second : Word := (x.extractLsb' 16 32).zeroExtend 64 <<< 16
    let bad := x.extractLsb' 12 4 != 0 || x.extractLsb' 48 16 != 0
    let named := fun (p : Word) => touchesPage s (vpnOf p)
    (s.unitMode = true → 4 ≤ op.toNat → op.toNat ≤ 6 → s.canPay 2 = true → Traps (.pmap d a b) s 2 causePRIV 0 0) ∧
    (¬(s.unitMode = true ∧ 4 ≤ op.toNat ∧ op.toNat ≤ 6) → s.canJoin = true → named va = false →
      (op = 1 → named second = false) → s.canPay 2 = true →
      Completes (.pmap d a b) s 2
        ((s.startOp .result va (encode (.pmap d a b)) (destG d) none 1 (if op == 1 then some (vpnOf second).toNat else none)).post
          (clearingPlace s s.job (vpnOf va)) 7 (s.me s.nextOpId) (.page (.pmap va op (x.extractLsb' 4 8) second bad) none))))

/-- R167 to R169 and R185 to R190: fences, barriers and batches. That a fence waits for replies is the model's reading (log entry 22), and
so is the PC of a waiting instruction (log entry 24). -/
def Obligations.FencesBarriersBatches : Prop :=
  ∀ (s : State) (d a b : BitVec 5) (k : BitVec 2) (z : BitVec 3) (n : BitVec 4) (w : BitVec 3), s.Ordered →
    let i : Fin 16 := n.toFin
    let bar := s.barrier s.curCore i
    let mm := (s.g d).extractLsb' 0 8
    let core := (s.g a).extractLsb' 0 26
    let base := (s.barSum s.curCore i).base
    let arrived := fun (dr : Nat) => (s.setTicket i (some base.p)).barrierUpdate s.curCore i 1 0 dr
    ((∀ y, Tab.find s.here.barSums i.val = some y → y.cycle ≠ s.cycle) → base = bar) ∧
    (fenceDone s z.toNat (k.getLsbD 0) (k.getLsbD 1) = true → s.canPay 2 = true → Completes (.fence k z) s 2 s) ∧
    (fenceDone s z.toNat (k.getLsbD 0) (k.getLsbD 1) = false → Waits (.fence k z) s) ∧
    ((s.g a).toNat < 2 ^ 24 → (s.g b).toNat < 2 ^ 40 → (s.g d).toNat < 2 ^ 8 → mm.getLsbD (octetPos s.curCore) = false →
      inactivePos s s.curCore mm = none → s.canPay 2 = true →
      Completes (.binit d a b n) s 2 (s.setBarrier s.curCore i ⟨bar.p, (s.g a).extractLsb' 0 24, (s.g b).extractLsb' 0 40, 0, 0, 0, mm⟩)) ∧
    (fenceDone s 3 false true = true → (a = 0 ∨ core = s.coreId s.curCore) → s.canPay 2 = true →
      Completes (.arrive a n) s 2 (arrived 0)) ∧
    (fenceDone s 3 false true = true → a ≠ 0 → core ≠ s.coreId s.curCore → s.isReachable core = true → s.isTeller = false →
      s.canJoin = true → s.canPay (2 + s.hopsTo core) = true →
      Completes (.arrive a n) s (2 + s.hopsTo core)
        ((s.startOp .sent (core.zeroExtend 64) (encode (.arrive a n)) .none none 1 none).post (s.placeOf core) 8 (s.me s.here.nextOp)
          (.arrive i))) ∧
    (fenceDone s 3 false true = true → s.canPay 2 = true → Completes (.arrdrop n) s 2 (arrived 1)) ∧
    (fenceDone s 3 false true = false → Waits (.arrive a n) s ∧ Waits (.arrdrop n) s) ∧
    (s.canPay 2 = true →
      ∃ t x, exec (.btest d n) s = .next t ∧
        Ran s t (((s.logged 5 (bytesOf 8 x)).setTicket i (some bar.p)).setG d (BitVec.ofNat 64 x)) 2 ∧
        x = bar.p.toNat + (bar.ea.toNat - bar.ca) * 2 ^ 32) ∧
    (s.isTeller = false → s.canPay 2 = true →
      Completes .abatch s 2 (s.updSlot (fun l => if l.batchUsed then { l with batch := l.batch + 1, batchUsed := false } else l))) ∧
    (s.isTeller = false → s.slot.fault = none → s.slot.waiting = false → s.canPay 2 = true →
      (∀ x ∈ s.here.ops, x.slot = s.curSlotNo → x.failed = false → s.closeBatch.slot.batch - w.toNat ≤ x.batch) →
      Completes (.await w) s 2 s.closeBatch) ∧
    (∀ r, s.isTeller = false → s.unitMode = true → s.slot.fault = some r → r.batch < s.closeBatch.slot.batch - w.toNat →
      ∃ t, exec (.await w) s = .next t ∧ t.slot.trapcause = r.sub ++ r.cause ∧ t.slot.trapval = r.addr ∧ t.pc = s.slot.trapvec) ∧
    (s.isTeller = false → s.slot.fault = none → s.slot.waiting = false → s.slot.bwait = none → coresidentHold s = false →
      (∃ p, s.slot.tickets.get i = some p ∧ p ≠ bar.p) → s.canPay 2 = true →
      Completes (.bwait n) s 2 (s.updSlot (fun l => { l with tickets := l.tickets.set i none i.isLt, bwait := none, firstBwait := false }))) ∧
    (s.isTeller = false → s.slot.fault = none → s.slot.waiting = false → s.slot.bwait = none → s.slot.tickets.get i = none →
      s.canPay 2 = true →
      ∃ t, exec (.bwait n) s = .next t ∧ t.slot.waiting = true ∧ t.slot.bwait = some (i, bar.p) ∧ t.pc = s.pc ∧ Paid s t 2)

/-! ### Spans, work and collectives as they issue (07_matrix_spans_work.md) -/

/-- R210 to R212: the span instructions: one request to the pool's entry core, at 2 coins and one for each hop, as one operation of the
open batch; a bad handle, bad bits or a bad count traps SPAN 0x06. -/
def Obligations.SpanInstructionsIssue : Prop :=
  ∀ (s : State) (d a b : BitVec 5), s.Ordered → s.isTeller = false →
    let h := s.g a
    let x := s.g b
    let e := entryCore s s.job (h.toNat / 2 ^ 32 % 2 ^ 16)
    let cost := 2 + s.hopsDst s.curCore e
    let desc := readLocal s s.curCore x.toNat 64
    let q := queryFlits desc
    let is : List (Instr × SpanOp × Word × Dest) :=
      [(.sptag a b, .tag, x, .none), (.spapp d a b, .app, x, destG d), (.spcom a b, .com, x, .none), (.sprej a b, .rej, x, .none),
       (.spretHole d a b, .retHole, x, destG d), (.spretClose d a b, .retClose, x, destG d), (.sploc d a b, .loc, x, destG d),
       (.splen d a, .len, 0, destG d)]
    let sent := fun (p : State) (i : Instr) (op : SpanOp) (v : Word) (dst : Dest) (ds qs : List Byte) =>
      Completes i s cost
        ((p.startOp (if dst = .none then .sent else .result) h (encode i) dst none 1 none).post e 6 (s.me s.here.nextOp)
          (.span op h v ds qs))
    (∀ p ∈ is,
      (h.toNat < 2 ^ 48 → p.2.2.1 &&& ~~~(spanBits p.2.1) = 0 → spanCountBad p.2.1 p.2.2.1 = false → s.canJoin = true →
        s.canPay cost = true → sent s p.1 p.2.1 p.2.2.1 p.2.2.2 [] []) ∧
      (2 ^ 48 ≤ h.toNat → s.unitMode = true → Traps p.1 s 0 causeSPAN 6 h) ∧
      (h.toNat < 2 ^ 48 → p.2.2.1 &&& ~~~(spanBits p.2.1) ≠ 0 ∨ spanCountBad p.2.1 p.2.2.1 = true → s.unitMode = true →
        Traps p.1 s 0 causeSPAN 6 p.2.2.1)) ∧
    (h.toNat < 2 ^ 48 → recordCheck s x 64 64 = none → localRange s (queryAddr desc) (64 * q) true = none → s.canJoin = true →
      s.canPay cost = true →
      sent ((s.correctedLocal s.curCore x.toNat 64).correctedLocal s.curCore (queryAddr desc).toNat (64 * q)) (.spqry d a b) .qry x (destG d) desc (readLocal s s.curCore (queryAddr desc).toNat (64 * q)))

/-- R213 to R227: the instructions that ask the distributor root: one operation of the open batch and one request in the root's queue; that
of a unit whose job was opened on another module goes over the rim, but for what asks after this module itself (R481; log entry 8).
LAUNCH is a release at scope .sys; CRADD costs 20 coins for each 64 bytes. R215 and R227: LWAIT and CRWAIT end when the launch has ended,
or the round has completed (1 to 32 767 rounds ahead, modulo 2^16); until then the slot waits at the instruction, which takes its two
coins once; an unknown launch or reduction traps. The coins of a wait, the PC during it, and what ends it beside a completed launch are
the model's readings (log entries 23, 24 and 29). -/
def Obligations.WorkInstructions : Prop :=
  (∀ (s : State) (d a b : BitVec 5) (l : BitVec 3), s.isTeller = false →
    let x := s.g a
    let me := s.me s.here.nextOp
    let rec64 := readLocal s s.curCore x.toNat
    let read := fun (y : Word) (n : Nat) => s.correctedLocal s.curCore y.toNat n
    let asked := fun (p : State) (i : Instr) (coins : Nat) (kind : OpKind) (dst : Dest) (r : RootReq) =>
      Completes i s coins ((p.startOp kind x (encode i) dst none 1 none).toRoot r)
    let k := x.toNat / 2 ^ 26 % 2 ^ 4
    let ok := fun (n : Nat) => s.canJoin = true ∧ s.canPay n = true
    (releaseDone s 4 = true → recordCheck s x 128 64 = none → ok 40 →
      asked (read x 128) (.launch d a) 40 .result (destG d) (.launch me (rec64 128))) ∧
    (releaseDone s 4 = false → Waits (.launch d a) s) ∧
    (recordCheck s x 64 64 = none → ok 10 →
      asked (read x 64) (.treg d a) 10 .result (destG d) (.treg me (rec64 64)) ∧ asked (read x 64) (.crinit d a) 10 .result (destG d) (.crinit me (rec64 64))) ∧
    (recordCheck s x 32 32 = none → ok 10 → asked (read x 32) (.subs d a) 10 .result (destG d) (.subs me (rec64 32))) ∧
    (ok 10 → asked s (.purse d a) 10 .result (destG d) (.purse me x)) ∧
    (x.toNat < 2 ^ 32 → ok 10 →
      asked s (.lcancel a l) 10 .sent .none (.cancel me l.toNat (x.extractLsb' 0 32)) ∧
      asked s (.lstat d a) 10 .result (destG d) (.lstat me (x.extractLsb' 0 32))) ∧
    (2 ^ 32 ≤ x.toNat → s.unitMode = true → ∀ i ∈ [Instr.lcancel a l, .lstat d a, .lwait a], Traps i s 0 causeLAUNCH 3 x) ∧
    (x.toNat < 2 ^ 8 → ok 10 → asked s (.unsubs a) 10 .sent .none (.unsubs me (x.extractLsb' 0 8))) ∧
    (x.toNat < 2 ^ 30 → 1 ≤ k → k ≤ 8 → (s.g b).toNat % 64 = 0 → localRange s (s.g b) (64 * k) true = none →
      ok (2 + 20 * k) →
      let bytes := readLocal s s.curCore (s.g b).toNat (64 * k)
      asked (read (s.g b) (64 * k)) (.cradd a b) (2 + 20 * k) .sent .none (.cradd me (x.toNat % 2 ^ 16) (x.toNat / 2 ^ 16 % 2 ^ 10) k bytes))) ∧
  (∀ (s : State) (q : Req),
    let queued := fun (r : RootReq) => s.toRoot r = s.updDist (fun d => { d with queue := d.queue ++ [⟨s.cycle, r⟩] })
    (∀ x, queued (.purse q x)) ∧ (∀ bs, queued (.subs q bs)) ∧ (∀ n, queued (.unsubs q n)) ∧
    (∀ r, r.src = q →
      (clearingMod s q.job = s.modNo → queued r) ∧
      (clearingMod s q.job ≠ s.modNo → (∀ x, r ≠ .purse q x) → (∀ bs, r ≠ .subs q bs) → (∀ n, r ≠ .unsubs q n) →
        s.toRoot r = s.post (2 ^ 20 + (clearingMod s q.job).toNat * 2 ^ 18) 63 q (.ask r)))) ∧
  (∀ (s : State) (a : BitVec 5), s.isTeller = false →
    let x := s.g a
    let c := fun (n : Nat) => (n % 65536 + 65536 - x.toNat % 2 ^ 16) % 65536
    let rounds := roundsOf s s.slot.jobid (x.extractLsb' 16 10)
    let waiting := fun (i : Instr) =>
      (s.slot.waiting = true → Waits i s) ∧
      (s.slot.waiting = false → s.canPay 2 = true →
        ∃ t, exec i s = .next t ∧ t.slot.waiting = true ∧ t.pc = s.pc ∧ Paid s t 2 ∧ t.ctx = s.ctx ∧ t.mem = s.mem)
    let ends := fun (i : Instr) =>
      (s.slot.waiting = false → s.canPay 2 = true → Completes i s 2 s) ∧
      (s.slot.waiting = true → ∃ t, exec i s = .next t ∧ t.slot.waiting = false ∧ t.pc = s.nextPc ∧ t.mem = s.mem ∧
        t.purse s.curCore = s.purse s.curCore)
    let ended := endedOf s s.slot.jobid (x.extractLsb' 0 32)
    (clearingMod s s.slot.jobid = s.modNo →
      ended = (s.dist.launches.find? (fun y => y.num == x.extractLsb' 0 32 && y.desc.job == s.slot.jobid)).map
        (fun l => 3 ≤ l.st && l.st ≤ 5)) ∧
    (x.toNat < 2 ^ 32 → x.extractLsb' 0 32 ≠ s.slot.launchid →
      (ended = some true → ends (.lwait a)) ∧ (ended = some false → waiting (.lwait a)) ∧
      (ended = none → s.unitMode = true → s.slot.waiting = false → s.canPay 2 = true → Traps (.lwait a) s 2 causeLAUNCH 1 x)) ∧
    (x.toNat < 2 ^ 32 → x.extractLsb' 0 32 = s.slot.launchid → s.unitMode = true → Traps (.lwait a) s 0 causeLAUNCH 2 x) ∧
    (clearingMod s s.slot.jobid = s.modNo →
      rounds = (s.dist.reductions.find? (fun y => y.num == x.extractLsb' 16 10 && y.job == s.slot.jobid)).map (fun r => (r.round, r.failed))) ∧
    (∀ n, rounds = some (n, false) →
      (1 ≤ c n → c n ≤ 32767 → ends (.crwait a)) ∧ (c n = 0 ∨ 32767 < c n → waiting (.crwait a))) ∧
    (∀ n, rounds = some (n, true) → s.unitMode = true → s.slot.waiting = false → s.canPay 2 = true → Traps (.crwait a) s 2 causeBARRIER 4 x) ∧
    (rounds = none → s.unitMode = true → s.slot.waiting = false → s.canPay 2 = true → Traps (.crwait a) s 2 causeBARRIER 2 x))

/-! ### The hubs (12_launch_scheduling.md, 21_interfaces.md) -/

/-- R335, R336, R470, R474 and Tables 12.7 and 21.1: writes into the device window, the semaphores, and the two PCIe events. No core and
no memory changes, and the other port keeps every register but what a reset shows it. What an invalid ring size and a hub's reset show is
the model's reading (log entry 52). -/
def Obligations.HubRegisters : Prop :=
  ∀ (s : State) (h : Hub) (v : BitVec 64) (n : BitVec 5), v.toNat % 32 = n.toNat →
    let p := s.port h
    let x := s.sem n
    let w12 := v.extractLsb' 0 12
    (w12.toNat < p.cqsize.toNat → exec (.cqtail h v) s =
      .next (s.setPort h { p with cqtail := w12, since := if p.cqhead = p.cqtail then s.cycle else p.since })) ∧
    (p.cqsize.toNat ≤ w12.toNat → exec (.cqtail h v) s = .next (s.setPort h { p with cqerr := true })) ∧
    (p.owed = [] → exec (.rqhead h v) s = .next (s.setPort h { p with rqhead := w12, owed := [] })) ∧
    (x.owner = none →
      ∃ t, exec (.semacq h v) s = .next t ∧ t.sem n = ⟨x.count + 1, some h, s.cycle⟩ ∧ (∀ k, k ≠ n → t.sem k = s.sem k) ∧ t.cores = s.cores ∧
        t.mem = s.mem ∧ t.portA = s.portA ∧ t.portB = s.portB) ∧
    (x.owner ≠ none → ¬(h = .a ∧ x.owner = some .b ∧ x.taken = s.cycle) → exec (.semacq h v) s = .next s) ∧
    (h = .a → x.owner = some .b → x.taken = s.cycle →
      ∃ t, exec (.semacq h v) s = .next t ∧ t.sem n = { x with owner := some .a } ∧ (∀ k, k ≠ n → t.sem k = s.sem k) ∧ t.cores = s.cores ∧
        t.mem = s.mem) ∧
    (x.owner = some h →
      ∃ t, exec (.semrel h v) s = .next t ∧ t.sem n = { x with owner := none } ∧ (∀ k, k ≠ n → t.sem k = s.sem k) ∧ t.cores = s.cores ∧ t.mem = s.mem) ∧
    (x.owner ≠ some h → exec (.semrel h v) s = .next (s.setPort h { p with semerr := true })) ∧
    (∃ t, exec (.semfrel h v) s = .next t ∧ t.sem n = { x with owner := none } ∧ (∀ k, k ≠ n → t.sem k = s.sem k) ∧ t.cores = s.cores ∧ t.mem = s.mem) ∧
    (p.cqhead = p.cqtail → exec (.registerWrite h 0x008 v) s = .next (s.setPort h { p with cqbase := v.extractLsb' 12 36 ++ 0#12 })) ∧
    (p.cqhead ≠ p.cqtail → exec (.registerWrite h 0x008 v) s = .next (s.setPort h { p with cqerr := true })) ∧
    (p.cqhead = p.cqtail → 8 ≤ s.bootStep →
      exec (.registerWrite h 0x010 v) s = .next (s.setPort h { p with cqsize := v.extractLsb' 0 13 })) ∧
    exec (.registerWrite h 0x048 v) s =
      .next (s.setPort h { p with cqerr := p.cqerr && !v.getLsbD 1, semerr := p.semerr && !v.getLsbD 0 }) ∧
    (∀ off, off % 8 ≠ 0 → exec (.registerWrite h off v) s = .next (s.setPort h { p with busErr := true })) ∧
    (∀ off width, width ≠ 8 ∨ off % 8 ≠ 0 →
      s.hubAct h (.load off width) = s.setPort h { p with busErr := true } ∧ (s.windowLoad h off width).2 = 0 ∧
      s.hubAct h (.store off width v) = s.setPort h { p with busErr := true }) ∧
    (∀ f r, ∃ t, exec (.pcieLinkTrain h f r) s = .next t ∧ ((t.port h).pcieUp = true ↔ f = true ∧ r = 64) ∧
      t.cores = s.cores ∧ t.mem = s.mem) ∧
    (∀ r, ∃ t, exec (.hubReset h r) s = .next t ∧ (t.port h).pcieUp = false ∧ (t.port h).rootPort = r ∧
      (t.port (otherHub h)).peer = !(s.port (otherHub h)).peer ∧ t.sems = s.sems ∧ t.cores = s.cores ∧ t.mem = s.mem)

/-- R307, R312, R337, R473 and Tables 12.8 and 12.9: the hub commands at the head of a ring: each is read, performed and answered by one
reply of 32 bytes. R331 and R338: what a cancel does at once: every launch of its scope that has not ended is marked as being cancelled, a
cancelled graph, phase or job takes state 2, and no slot that belongs to no launch of the scope, on a core that lends to none, changes. In
a tick cycle CAPSET waits for the mint (R389). Readings where the tables name no
status are in log entry 52, and the answers about closed scopes in log entry 39. -/
def Obligations.HubCommands : Prop :=
  (∀ (s : State) (h : Hub) (x : Cmd), headCmd s h = some x → x.bad = false → (x.op ≠ 1 → descBad x = false) →
    let ok := fun (i : Instr) (st : Nat) (v : Word) =>
      ∃ t, exec i s = .next t ∧ Replied s t h x.tag st v ∧ Only s t (s.replyAt h) 32
    (∀ l, x.op = 1 → judge s x.job x.desc = .accept l → launchNo s l.num = none → l.desc.preds = [] →
      l.eligible = false → l.st = 0 →
      ∃ t, exec (.hubLaunch h) s = .next t ∧ Replied s t h x.tag 0 (l.num.zeroExtend 64) ∧
        Only (s.judged x.desc) t (s.replyAt h) 32 ∧ launchNo t l.num = some { l with eligible := true, order := s.dist.nextOrder } ∧ t.dist.nextLaunch = s.dist.nextLaunch + 1) ∧
    (∀ st, x.op = 1 → judge s x.job x.desc = .refused st → ok (.hubLaunch h) st 0) ∧
    (x.op = 2 → (jobOf s x.job).isSome = true → cancelNames s x.level x.job x.num = true →
      exec (.hubCancel h) s = .next ((s.popCmd h).cancel ⟨x.level, x.job, x.num, .hub h x.tag, false⟩)) ∧
    (x.op = 2 → jobOf s x.job = none ∨ cancelNames s x.level x.job x.num = false → ok (.hubCancel h) 9 0) ∧
    (∀ l, x.op = 3 → (jobOf s x.job).isSome = true → findLaunch s x.job x.num = some l → ok (.hubLstat h) 0 l.stat) ∧
    (x.op = 3 → jobOf s x.job = none ∨ findLaunch s x.job x.num = none → ok (.hubLstat h) 9 0) ∧
    (x.op = 4 → x.level = 0 → ok (.counter h) 8 0) ∧
    (∀ y, x.op = 4 → x.level = 1 → findScope s x.job false x.num = some y →
      ok (.counter h) 0 (BitVec.ofNat 64 (y.st * 2 ^ 62 + y.canc * 2 ^ 42 + y.comp * 2 ^ 22 + y.live))) ∧
    (∀ y, x.op = 4 → x.level = 2 → findScope s x.job true x.num = some y →
      ok (.counter h) 0 (BitVec.ofNat 64 (y.st * 2 ^ 62 + y.canc * 2 ^ 42 + y.comp * 2 ^ 22 + y.live))) ∧
    (∀ y, x.op = 4 → x.level = 3 → jobOf s x.job = some y →
      ok (.counter h) 0 (BitVec.ofNat 64 (y.st * 2 ^ 62 + y.canc * 2 ^ 42 + y.comp * 2 ^ 22 + y.live))) ∧
    (x.op = 5 → x.arg = 0 → jobOf s x.job = none ∨ findLaunch s x.job x.num = none → ok (.preempt h) 9 0) ∧
    (∀ l, x.op = 5 → x.arg = 0 → (jobOf s x.job).isSome = true → findLaunch s x.job x.num = some l → l.desc.preemptible = false →
      ok (.preempt h) 6 0) ∧
    (∀ l, x.op = 5 → x.arg = 0 → (jobOf s x.job).isSome = true → findLaunch s x.job x.num = some l → l.desc.preemptible = true →
      exec (.preempt h) s = .next (((((s.popCmd h).updDist (fun d => { d with preempts := d.preempts ++ [(l.num, h, x.tag)] })).updLaunch l.num
        (fun y => { y with preempting := if y.ended then none else some none, passing := false })).saveParked l.num (fun _ => true)).endPreempts)) ∧
    (x.op = 6 → x.arg.toNat < 8 → openJobs s < 4096 → s.dist.nextJob < 2 ^ 24 →
      ∃ t, exec (.jobopen h) s = .next t ∧ Replied s t h x.tag 0 (BitVec.ofNat 64 s.dist.nextJob) ∧ Only s t (s.replyAt h) 32 ∧
        t.dist.jobs = s.dist.jobs ++ [⟨BitVec.ofNat 24 s.dist.nextJob, x.arg.toNat, 1, 0, 0, 0, 0, false, false, false⟩] ∧
        t.dist.nextJob = s.dist.nextJob + 1) ∧
    (x.op = 6 → x.arg.toNat < 8 → 4096 ≤ openJobs s → ok (.jobopen h) 7 0) ∧
    (x.op = 7 → (jobOf s x.job).isSome = true →
      exec (.jobclose h) s =
        .next ((s.popCmd h).cancel ⟨3, x.job, 0, .hub h x.tag, true⟩)) ∧
    (x.op = 7 → jobOf s x.job = none → ok (.jobclose h) 9 0) ∧
    (x.op = 10 → s.cycle.toNat / 700 ≤ s.tick → 8 ≤ x.arg.toNat → x.arg.toNat ≤ 32 → s.coolantLow = false →
      ∃ t, exec (.capset h) s = .next t ∧ Replied s t h x.tag 0 x.arg ∧ Only s t (s.replyAt h) 32 ∧ t.capNext = x.arg.toNat ∧
        t.capSet = x.arg.toNat ∧ t.cap = s.cap) ∧
    (x.op = 10 → s.cycle.toNat / 700 ≤ s.tick → x.arg.toNat < 8 ∨ 32 < x.arg.toNat → ok (.capset h) 8 0) ∧
    (x.op = 10 → s.tick < s.cycle.toNat / 700 → exec (.capset h) s = .next s)) ∧
  (∀ (s : State) (x : Cancel), s.dist.cancels = [] →
    let t := s.cancel x
    (∀ l, launchNo s l.num = some l → x.covers l = true → l.ended = false → ∃ m, launchNo t l.num = some m ∧ m.cancelling = true) ∧
    (∀ c k, (∀ l ∈ s.dist.launches, x.covers l = true → l.num ≠ (s.slotAt c k).launchid) → (∀ p ∈ s.cores, ∀ g ∈ p.2.grants, g.lender ≠ c) →
      t.slotAt c k = s.slotAt c k))

/-- R362, R467, R468, R471 and R472: the DMA commands in pieces of one page each: DMAREAD encrypts each under the next IV of its key slot
and writes ciphertext and record to hub DRAM; DMAWRITE writes a piece whose tag is good; a fault ends the transfer with its address.
Sealing and opening are functions without a body (log entry 61), and the pieces of a transfer are the model's reading (log entry 53). -/
def Obligations.HubTransfers : Prop :=
  ∀ (s : State) (h : Hub) (x : Cmd), headCmd s h = some x → x.bad = false → descBad x = false → (jobOf s x.job).isSome = true →
    let hub := imgNat x.desc 0 8
    let len := imgNat x.desc 8 8
    let rec1 := imgNat x.desc 16 8
    let xs := dmaPieces 300 x.arg len
    let p := s.popCmd h
    x.arg.toNat % 64 = 0 → hub % 64 = 0 → len % 64 = 0 → 0 < len → len ≤ 2 ^ 24 →
    (x.op = 8 → dmaWaits s x.job false xs = false →
      (∀ t, p.dmaRun h x.job true hub rec1 xs = (t, none) → exec (.dmaread h) s = .next (t.hubReply h x.tag 0 0)) ∧
      (∀ t a, p.dmaRun h x.job true hub rec1 xs = (t, some a) → exec (.dmaread h) s = .next (t.hubReply h x.tag 10 a))) ∧
    (x.op = 9 → dmaWaits s x.job true xs = false →
      (∀ t, p.dmaRun h x.job false hub rec1 xs = (t, none) → exec (.dmawrite h) s = .next (t.hubReply h x.tag 0 0)) ∧
      (∀ t a, p.dmaRun h x.job false hub rec1 xs = (t, some a) → exec (.dmawrite h) s = .next (t.hubReply h x.tag 10 a))) ∧
    (∀ (va : Word) (n key at1 at2 : Nat) (k : BitVec 6),
      (dmaPage s x.job va n false = .ok (key, k) →
        let iv := s.modNo ++ k ++ 0#2 ++ (s.keys.get k.toFin).ctr
        let e := Config.gcmEncrypt (s.keys.get k.toFin).key iv [] (s.mem.readBytes key n)
        let t := (s.dmaOut h x.job at1 at2 va n).1
        (s.dmaOut h x.job at1 at2 va n).2 = none ∧
          t.mem = hubPut (hubPut s.mem h at1 (e.1.take n)) h at2 (bytesOf 12 iv.toNat ++ [0, 0, 0, 0] ++ bytesOf 16 e.2.toNat) ∧
          (t.keys.get k.toFin).ctr = (s.keys.get k.toFin).ctr + 1 ∧ t.cores = (s.correctedIn key n).cores) ∧
      (dmaPage s x.job va n true = .ok (key, k) →
        let iv := BitVec.ofNat 96 (natOfBytes (hubGet s.mem h at2 12))
        let tag := BitVec.ofNat 128 (natOfBytes (hubGet s.mem h (at2 + 16) 16))
        match Config.gcmDecrypt (s.keys.get k.toFin).key iv [] (hubGet s.mem h at1 n) tag with
        | some bs => (s.dmaIn h x.job at1 at2 va n).2 = none ∧ (s.dmaIn h x.job at1 at2 va n).1.mem = s.mem.writeBytes key (bs.take n)
        | none => (s.dmaIn h x.job at1 at2 va n).2 = some va ∧ (s.dmaIn h x.job at1 at2 va n).1.mem = s.mem))

/-! ### The teller's work (10_kernel_execution.md, 06_memory_messages.md) -/

/-- R249, R268, R278, R281, R282 and Table 10.4: the oldest message for a core lands in a free buffer, a SEND's payload with it, behind all
that landed in an earlier cycle and among those of its own in ascending order of the senders, and waits when there is no buffer; a free
teller starts the handler of the oldest landed message, in the registers of Table 10.4, but serves first a request that
was held for its page and may go on (R259). Which free buffer is taken
is open (log entry 6). -/
def Obligations.LandingAndActivation : Prop :=
  ∀ (s : State) (c : Nat),
    (∀ m rest, netHead s c = some (m, rest) → m.body.forTeller = true → lrwBlocked (s.core c) m = false → rebuildHolds s c m = false →
      ¬((s.core c).asleep = true ∧ m.body.isShoot = true) →
      (freeBuffers (s.core c) ≠ [] →
        let old := (s.core c).landed.length - freshLanded s c
        let rank := fun (x : Msg) => (s.reqId x.src).toNat
        ∃ b t pre post, exec (.messageLanding c) s = .next t ∧ b ∈ freeBuffers (s.core c) ∧
          (s.core c).landed.drop old = pre ++ post ∧
          (t.core c).landed = (s.core c).landed.take old ++ pre ++ [(b, m)] ++ post ∧
          (∀ x ∈ pre, rank x.2 ≤ rank m) ∧ (∀ x, post.head? = some x → rank m < rank x.2) ∧
          (t.core c).fresh = (s.cycle, freshLanded s c + 1) ∧ (t.core c).teller = (s.core c).teller ∧
          (∀ p, m.body = .user p → t.mem = s.mem.writeBytes (tillKey c (bufferAddr b)) p) ∧
          ((∀ p, m.body ≠ .user p) → (∀ p h i q, m.body ≠ .query p h i q) → t.mem = s.mem ∧ t.net = rest ∧
            ∀ k, k ≠ c → t.core k = s.core k)) ∧
      (freeBuffers (s.core c) = [] → exec (.messageLanding c) s = .next s)) ∧
    (∀ m rest, (s.core c).ready = m :: rest → (s.core c).teller.act = none → (s.core c).teller.stopped = false → (s.core c).asleep = false →
      let e := (s.core c).handlers.get m.handler.toNat ⟨0, false, 0⟩
      e.valid = true → m.handler.toNat < 16 → resident m = some m →
        ∃ t, exec (.handlerActivation c) s = .next t ∧ (t.core c).ready = rest ∧ (t.core c).landed = (s.core c).landed ∧
          (t.core c).teller.act = some ⟨m.handler, 0, m, 0, e.job⟩ ∧ t.mem = s.mem ∧ t.net = s.net) ∧
    (∀ b m rest, (s.core c).ready = [] → (s.core c).landed = (b, m) :: rest → (s.core c).teller.act = none → (s.core c).teller.stopped = false →
      (s.core c).asleep = false →
      let e := (s.core c).handlers.get m.handler.toNat ⟨0, false, 0⟩
      (e.valid = true → 16 ≤ m.handler.toNat → e.job = m.src.job →
        ∃ t, exec (.handlerActivation c) s = .next t ∧ (t.core c).landed = rest ∧
          (t.core c).teller.act = some ⟨m.handler, b, m, 0, e.job⟩ ∧
          (let r := (t.core c).teller.ctx
           r.pc = e.entry &&& ~~~3 ∧ r.g[3] = BitVec.ofNat 64 (bufferAddr b) ∧ r.g[4] = BitVec.ofNat 64 (payloadFlits m) ∧
           r.g[6] = m.handler.zeroExtend 64 ∧ r.g[7] = m.src.job.zeroExtend 64 ∧ r.fpmode = 0 ∧ ∀ i, r.v.get i = 0) ∧
          t.mem = s.mem ∧ t.net = s.net ∧ (t.core c).slots = (s.core c).slots ∧ ∀ k, k ≠ c → t.core k = s.core k) ∧
      ((e.valid = false ∨ (16 ≤ m.handler.toNat ∧ e.job ≠ m.src.job)) →
        ∃ t r, exec (.handlerActivation c) s = .next t ∧ (t.core c).landed = rest ∧ (t.core c).teller = (s.core c).teller ∧
          t.mem = s.mem ∧ t.portA.events = s.portA.events ++ [.handlerFault r] ∧ t.portB.events = s.portB.events ++ [.handlerFault r]))

/-- R154, R157, R172 to R179, R188 to R190, R116 and R352: the resident handlers at a page's home, when the page is mapped, its row open,
and nothing in the way: each answers its requester, ends its activation, and changes exactly the bytes it stores to; a copy or a
fingerprint goes block by block, each when its coins are drawn; and how a request that
finds no page here is sent on. Coins of forwarding are the model's reading (log entry 23). -/
def Obligations.HomesServe : Prop :=
  ∀ (s : State) (c : Nat) (m : Msg) (p : PageEntry) (va : Word), s.work c = some m → s.bad = [] → s.weak = [] →
    m.src.core < 2 ^ 20 → p.st = 1 → copyBusy (s.core c) p = false → behindHeld (s.core c) m.src va = false →
    let k := vaultKey c (vaultOff p va)
    let here := fun (n : Nat) (acc : Acc) =>
      findPage (s.core c).vaultMap m.src.job (vpnOf va) = some p ∧ permCheck p acc va = none ∧
      needRow s c (vaultOff p va) = .ok none ∧ needRow s c (vaultOff p va + n - 1) = .ok none
    let hint := some ((vpnOf va).toNat, s.coreId c)
    let n := fun (dw : Bool) => if dw then 8 else 4
    -- served: the reply is sent, the teller is free, only the bytes at k change
    let served := fun (i : Instr) (b : Body) (bs : List Byte) =>
      ∃ t, exec i s = .next t ∧ t.net = s.net ++ [⟨m.src.core, 63, m.src, b⟩] ∧ (t.core c).teller.act = none ∧
        t.mem = s.mem.writeBytes k bs ∧ (∀ j, j ≠ c → t.core j = s.core j) ∧ (t.core c).slots = (s.core c).slots ∧
        (t.core c).resvs = (s.core c).resvs ∧ t.purses = s.purses
    (∀ z, m.body = .load va z → here z .read → served (.remoteLoadServe c) (.reply (s.mem.readBytes k z) hint none) []) ∧
    (∀ bs, m.body = .store va bs → here bs.length .write → served (.remoteStoreServe c) (.ack hint none) bs) ∧
    (∀ dw op x y, m.body = .rmw va dw op x y → here (n dw) .both →
      let old := s.mem.readNat k (n dw)
      served (.atomicServe c) (.reply (bytesOf (n dw) old) hint none)
        (bytesOf (n dw) (rmwValue op (8 * n dw) old (x.toNat % 2 ^ (8 * n dw)) (y.toNat % 2 ^ (8 * n dw))))) ∧
    (∀ all units f least, m.body = .claim va all units f least → here 8 .both →
      let x := s.mem.readNat k 8
      let z := min (all - x) (max least ((all - x + f * units - 1) / (f * units)))
      served (.nestClaim c) (.claimReply x z hint none) (bytesOf 8 ((x + z) % 2 ^ 64))) ∧
    (∀ dw, m.body = .lrw va dw → senderHere s m.src = false →
      ∃ t, exec (.lrwServe c) s = .next t ∧ t.net = s.net ∧ (t.core c).resvs = (s.core c).resvs ∧ t.mem = s.mem ∧
        (t.core c).teller.act = none) ∧
    (∀ dw, m.body = .lrw va dw → senderHere s m.src = true → here (n dw) .read → findResv (s.core c) m.src.job va = none →
      ∃ t, exec (.lrwServe c) s = .next t ∧ t.net = s.net ++ [⟨m.src.core, 63, m.src, .grant (s.mem.readBytes k (n dw)) hint none⟩] ∧
        (t.core c).resvs = (s.core c).resvs ++ [⟨m.src.job, va &&& ~~~7, some (m.src.launch, m.src.unit, m.src.core), []⟩] ∧
        t.mem = s.mem ∧ (t.core c).teller.act = none) ∧
    (∀ dw x r, m.body = .sch va dw x → here (n dw) .write → findResv (s.core c) m.src.job va = some r →
      (holds r m.src = true → r.waiting = [] →
        ∃ t, exec (.schServe c) s = .next t ∧ t.mem = s.mem.writeNat k (n dw) (x.toNat % 2 ^ (8 * n dw)) ∧
          t.net = s.net ++ [⟨m.src.core, 63, m.src, .ack hint none⟩] ∧ (t.core c).teller.act = none ∧
          (t.core c).resvs = (s.core c).resvs.filter (fun y => !(y.job == r.job && y.va == r.va))) ∧
      (holds r m.src = false →
        ∃ t, exec (.schServe c) s = .next t ∧ t.mem = s.mem ∧
          t.net = s.net ++ [⟨m.src.core, 63, m.src, .ack none (some ⟨causeQUEUE, 3, va⟩)⟩])) ∧
    -- one block of a page's run, at `va`: its coins are drawn first; the last one ends the activation
    (∀ (q : Fin 4) base z i one bar, va = base + BitVec.ofNat 64 (64 * i) → m.src.slot = q.val → sentBy s m.src q = true →
      let h := hops m.src.core c
      let hint := some ((vpnOf base).toNat, s.coreId c)
      let block := fun (i' : Instr) (cost : Nat) (mem : List Byte) (ms : List Msg) (more : Option Body) =>
        s.slotCanPay m.src.core q cost = true →
        ∃ t, exec i' s = .next t ∧ t.mem = s.mem.writeBytes k mem ∧ t.net = s.net ++ ms ∧
          t.purse m.src.core = s.purse m.src.core - cost ∧ (more = none → (t.core c).teller.act = none) ∧
          (∀ b, more = some b → t.work c = some { m with body := b })
      let on := fun (b : Body) => if one = true ∨ z / 64 ≤ i + 1 then none else some b
      (∀ src data bs, m.body = .tileWrite base z i one src data bar → here 64 .write →
        (data = [] → sourceBlock s src i = .ok bs) → (data ≠ [] → bs = data.take 64) →
        block (.tileServe c) (localCoins src.addr.toNat + 40 + 3 * h) bs [⟨m.src.core, 63, m.src, .blockAck 1 bar hint none⟩]
          (on (.tileWrite base z (i + 1) one src data bar))) ∧
      (∀ src f, m.body = .tileWrite base z i one src [] bar → here 64 .write → sourceBlock s src i = .error f →
        block (.tileServe c) (localCoins src.addr.toNat + 40 + 3 * h) [] [⟨m.src.core, 63, m.src, .blockAck 1 bar none (some f)⟩]
          (on (.tileWrite base z (i + 1) one src [] bar))) ∧
      (∀ ts, m.body = .tileRead base z i one ts bar → here 64 .read →
        block (.tileServe c) (h + (ts.map (fun x => 40 + localCoins x.addr.toNat + 2 * dstHops s c x.core)).sum) []
          (ts.map (fun x => ⟨x.core, 63, m.src, .block (x.addr + BitVec.ofNat 64 (64 * i)) x.via (s.mem.readBytes k 64) 0 bar hint⟩))
          (on (.tileRead base z (i + 1) one ts bar))) ∧
      (∀ crc, m.body = .fpr base z i crc none → here 64 .read →
        let x := (s.mem.readBytes k 64).foldl crcByte crc
        block (.fingerprintServe c) (40 + if i = 0 then 2 * h else 0) []
          (if i + 1 < z / 64 then [] else [⟨m.src.core, 63, m.src, .fprReply x 0 hint⟩])
          (if i + 1 < z / 64 then some (.fpr base z (i + 1) x none) else none))) ∧
    (∀ z d, m.body = .load va z → findPage (s.core c).vaultMap m.src.job (vpnOf va) = none → homeLost s c m.src.job va = false →
      nextHop s c m.src.job va = some d → d ≠ c → dstHops s c d ≤ s.purse c →
      ∃ t, exec (.requestForward c) s = .next t ∧ t.net = s.net ++ [⟨d, m.handler, m.src, m.body⟩] ∧ t.mem = s.mem ∧
        t.purse c = s.purse c - dstHops s c d ∧ (t.core c).teller.act = none) ∧
    (∀ z, m.body = .load va z → findPage (s.core c).vaultMap m.src.job (vpnOf va) = none → homeLost s c m.src.job va = false →
      nextHop s c m.src.job va = none →
      ∃ t, exec (.requestForward c) s = .next t ∧ t.mem = s.mem ∧ (t.core c).teller.act = none ∧
        t.net = s.net ++ [⟨m.src.core, 63, m.src, .reply [] none (some ⟨causePAGEFAULT, 1, va⟩)⟩])

/-- R189: one atomic update of a barrier for all that reaches it in one cycle: the counts; and, when both expectations are met, the next
phase, the counts less what was expected, the drops taken from the arrivals expected, and one push of the new phase to every mirror. R188
to R190: barriers at work for other cores: a counted arrival that does not complete the phase, a phase whose counts already meet its
expectations, which ends in a later cycle, and the phase number that a mirror takes. That a cycle's parts are added up as they come is the
model's way to say it (log entry 59). -/
def Obligations.BarrierPhases : Prop :=
  (∀ (s : State) (c : Nat) (n : Fin 16) (ca cb dr : Nat),
    let x := s.barSum c n
    let b := x.base
    let t := s.barrierUpdate c n ca cb dr
    let a := b.ca + (x.ca + ca)
    let e := b.cb + (x.cb + cb)
    let full := b.ea.toNat ≤ a ∧ b.eb.toNat ≤ e ∧ (b.ea ≠ 0 ∨ b.eb ≠ 0)
    (¬full → t.barrier c n = { b with ca := a, cb := e, dr := b.dr + (x.dr + dr) }) ∧
    (full → t.barrier c n = { b with
      p := b.p + 1, ca := a - b.ea.toNat, cb := e - b.eb.toNat, ea := BitVec.ofNat 24 (b.ea.toNat - (b.dr + (x.dr + dr))), dr := 0 }) ∧
    t.net = s.net ++ (if (t.barrier c n).p = (s.barrier c n).p then []
      else (mirrorCores c b.mm).map (fun k => ⟨k, 8, ⟨c, 4, 0, 0, 0, 0⟩, .push n (t.barrier c n).p⟩)) ∧
    t.barSum c n = ⟨s.cycle, b, x.ca + ca, x.cb + cb, x.dr + dr⟩ ∧
    ((∀ y, Tab.find (s.core c).barSums n.val = some y → y.cycle ≠ s.cycle) → x = ⟨s.cycle, s.barrier c n, 0, 0, 0⟩) ∧
    (∀ k, k ≠ n → t.barrier c k = s.barrier c k) ∧ (∀ k, k ≠ c → t.core k = s.core k) ∧ t.mem = s.mem) ∧
  (∀ (s : State) (c : Nat) (b : Fin 16),
    let x := s.barrier c b
    (∀ m, s.work c = some m → m.body = .arrive b → s.barSum c b = ⟨s.cycle, x, 0, 0, 0⟩ → (x.count 1 0 0).full = false →
      ∃ t, exec (.remoteArriveServe c) s = .next t ∧ t.barrier c b = { x with ca := x.ca + 1 } ∧
        (∀ k, k ≠ b → t.barrier c k = s.barrier c k) ∧ t.net = s.net ++ [⟨m.src.core, 63, m.src, .ack none none⟩] ∧
        (t.core c).teller.act = none ∧ t.mem = s.mem) ∧
    (x.full = true → s.phaseEnded c b = false →
      ∃ t, exec (.barrierCarriedPhase c b) s = .next t ∧
        t.barrier c b = { x with p := x.p + 1, ca := x.ca - x.ea.toNat, cb := x.cb - x.eb.toNat,
                                 ea := BitVec.ofNat 24 (x.ea.toNat - x.dr), dr := 0 } ∧
        (∀ k, k ≠ b → t.barrier c k = s.barrier c k) ∧ t.net.length = s.net.length + (mirrorCores c x.mm).length ∧ t.mem = s.mem) ∧
    (x.full = false ∨ s.phaseEnded c b = true → exec (.barrierCarriedPhase c b) s = .next s) ∧
    (∀ m p, s.work c = some m → m.body = .push b p →
      ∃ t, exec (.phasePush c) s = .next t ∧ t.barrier c b = { x with p := p } ∧ (∀ k, k ≠ b → t.barrier c k = s.barrier c k) ∧
        t.net = s.net ∧ t.mem = s.mem ∧ (t.core c).teller.act = none))

/-- R27, R116, R168, R174, R177, R179, R193, R247, R248 and R351: what lands for a core's slots and queues, at the head of its router,
without a fault: a reply writes its destination and clears its mark, and every other reply does its own part. -/
def Obligations.RepliesLand : Prop :=
  ∀ (s : State) (c : Nat) (m : Msg) (rest : List Msg), netHead s c = some (m, rest) → m.src.slot < 4 →
    (∀ o bs home r, m.body = .reply bs home none → opOf s c m = some o → o.dest = .g r → r ≠ 0 → o.kind = .marked bs.length false →
      ∃ t, exec (.remoteReply c) s = .next t ∧ (t.slotAt c o.slot).ctx.g.get r.toFin = BitVec.ofNat 64 (natOfBytes bs) ∧
        (t.slotAt c o.slot).marksG.getLsbD r.toNat = false ∧ (t.core c).ops = (s.core c).ops.filter (fun x => x.id != o.id) ∧
        (∀ i, i ≠ r.toFin → (t.slotAt c o.slot).ctx.g.get i = (s.slotAt c o.slot).ctx.g.get i) ∧
        (∀ j, j ≠ o.slot → t.slotAt c j = s.slotAt c j) ∧ (∀ k, k ≠ c → t.core k = s.core k)) ∧
    (∀ o bs home f, m.body = .reply bs home (some f) → opOf s c m = some o → (s.slotAt c o.slot).fault = none →
      ∃ t, exec (.remoteReply c) s = .next t ∧ t.mem = s.mem ∧ (t.slotAt c o.slot).ctx = (s.slotAt c o.slot).ctx ∧
        (t.slotAt c o.slot).fault = some ⟨f.addr, f.cause, f.sub, o.pc, o.batch, o.barrier, o.dest⟩) ∧
    (∀ o bs home, m.body = .grant bs home none → opOf s c m = some o →
      ∃ t, exec (.lrwGrant c) s = .next t ∧ (t.slotAt c o.slot).lrw = none ∧
        (∀ r, o.dest = .g r → r ≠ 0 →
          (t.slotAt c o.slot).ctx.g.get r.toFin = BitVec.ofNat 64 (replyValue o.kind bs) ∧
          (o.kind = .marked bs.length false → (t.slotAt c o.slot).marksG.getLsbD r.toNat = false))) ∧
    (∀ o home, m.body = .ack home none → opOf s c m = some o → o.left = 1 → o.fault = none →
      ∃ t, exec (.writeAck c) s = .next t ∧ (t.core c).ops = (s.core c).ops.filter (fun x => x.id != o.id) ∧ t.mem = s.mem ∧
        t.net = rest ∧ ∀ j, (t.slotAt c j).ctx = (s.slotAt c j).ctx) ∧
    (∀ x z home, m.body = .claimReply x z home none →
      let q : Fin 4 := ⟨m.src.slot % 4, Nat.mod_lt _ (by decide)⟩
      let l := s.slotAt c q
      l.unitid = m.src.unit → l.launchid = m.src.launch → l.nest.pending = true →
      ∃ t, exec (.claimReply c) s = .next t ∧ t.mem = s.mem ∧ (t.slotAt c q).ctx = l.ctx ∧
        (t.slotAt c q).nest = { l.nest with pending := false, fresh := true, first := BitVec.ofNat 48 x,
                                            last := BitVec.ofNat 48 (x + z), exhausted := z == 0 }) ∧
    (∀ o x r, m.body = .deferred x none → opOf s c m = some o → o.dest = .g r → r ≠ 0 → o.kind = .result →
      ∃ t, exec (.deferredReply c) s = .next t ∧ (t.slotAt c o.slot).ctx.g.get r.toFin = x ∧
        (t.core c).ops = (s.core c).ops.filter (fun y => y.id != o.id) ∧ (∀ j, j ≠ o.slot → t.slotAt c j = s.slotAt c j)) ∧
    (∀ (q : Fin 4) dst via bs coins page, m.body = .block dst via bs coins none page → m.src.slot = q.val → m.src.core < 2 ^ 20 →
      sentBy s m.src q = true → s.slotCanPay m.src.core q coins = true → dst.toNat < 0x1E000 → frozenAt s c dst.toNat = false → stubFor (s.core c) dst.toNat = none →
      leaseHolder (s.core c) dst.toNat = none →
      ∃ t, exec (.copyBlockLanding c) s = .next t ∧ t.mem = s.mem.writeBytes (tillKey c dst.toNat) bs ∧
        t.purse m.src.core = s.purse m.src.core - coins ∧ t.net = rest) ∧
    (∀ o blocks home, m.body = .blockAck blocks none home none → opOf s c m = some o → o.fault = none →
      ∃ t, exec (.copyBlockAck c) s = .next t ∧ t.mem = s.mem ∧ t.net = rest ∧
        (0 < blocks → o.left = blocks → (t.core c).ops = (s.core c).ops.filter (fun x => x.id != o.id))) ∧
    (∀ q data chan gen, m.body = .entry q data chan gen →
      let xs := (s.core c).queues.get q
      (xs.length < 16 →
        ∃ t, exec (.queueEntryLanding c) s = .next t ∧
          (t.core c).queues.get q = xs ++ [⟨data, m.src.core, m.src.slot, chan, gen, m.src.unit, m.src.launch⟩] ∧
          (∀ k, k ≠ q → (t.core c).queues.get k = (s.core c).queues.get k) ∧ t.net = rest ∧ t.mem = s.mem ∧
          (t.core c).slots = (s.core c).slots) ∧
      (16 ≤ xs.length → exec (.queueEntryLanding c) s = .next s)) ∧
    (∀ o f, m.body = .sendFault f → (s.core c).sends.find? (fun x => x.id == m.src.op) = some o →
      (s.core c).ops.any (fun x => x.id == m.src.op) = false → (s.slotAt c o.slot).fault = none →
      ∃ t, exec (.writeAck c) s = .next t ∧ t.mem = s.mem ∧ t.net = rest ∧ (t.slotAt c o.slot).ctx = (s.slotAt c o.slot).ctx ∧
        (t.slotAt c o.slot).fault = some ⟨f.addr, f.cause, f.sub, o.pc, o.batch, o.barrier, o.dest⟩) ∧
    (∀ (i : Fin 4) chan n gen unit launch, m.body = .credit chan n gen unit launch → unitSlot (s.core c) launch unit = some i →
      isFrozen (s.slotAt c i) = false → (s.slotAt c i).incoming = none →
      let x := (s.slotAt c i).chans.get chan
      ∃ t, exec (.queueCredit c) s = .next t ∧ t.net = rest ∧ t.mem = s.mem ∧ (t.slotAt c i).ctx = (s.slotAt c i).ctx ∧
        (t.slotAt c i).chans.get chan = (if x.bound = true ∧ x.gen = gen then { x with free := min 16 (x.free + n) } else x) ∧
        ∀ k, k ≠ chan → (t.slotAt c i).chans.get k = (s.slotAt c i).chans.get k)

/-! ### Page services (13_memory_services.md) -/

/-- R126, R127, R349, R354, R364, R366 and Tables 4.18, 4.19 and 13.3: a page service's request as handler 7 performs it at the clearing
core: the status that it answers, the entry that it leaves, and the first copy message of a move. A MAP goes to the core that it names,
or where its class chooses; that a class S page may leave the core it names is the model's choice (log entry 12), and which free frame is
taken is open (log entry 6). -/
def Obligations.PageServices : Prop :=
  ∀ (s : State) (c : Nat) (m : Msg), s.Ordered → s.work c = some m →
    let job := m.src.job
    let told := fun (t : State) (x : Word) => (⟨m.src.core, 63, m.src, .deferred x none⟩ : Msg) ∈ t.net
    let free := fun (t : State) => (t.core c).teller.act = none
    -- PMAP: its result and the state it leaves
    (∀ va op arg second bad, m.body = .page (.pmap va op arg second bad) none →
      (∀ x u, pmapRun s job va op arg second bad = some (x, u) →
        ∃ t, exec (.pmapPerform c) s = .next t ∧ told t x ∧ free t ∧ t.mem = u.mem ∧
          ∀ j vpn, pageEntry t j vpn = pageEntry u j vpn) ∧
      (isGlobal va = true → bad = false → op = 0 →
        pmapRun s job va op arg second bad = some (queryWord (pageEntry s job (vpnOf va)), s)) ∧
      (∀ p, clearsHere s job = true → isGlobal va = true → bad = false → pageEntry s job (vpnOf va) = some p → p.st = 1 →
        (4 ≤ op.toNat → op.toNat ≤ 6 → runOn s job (vpnOf va) = true → pmapRun s job va op arg second bad = none) ∧
        (op = 2 → p.pin ≠ 255 → ∃ u, pmapRun s job va op arg second bad = some (0, u) ∧ u.mem = s.mem ∧
          pageEntry u job (vpnOf va) = some { p with pin := p.pin + 1 }) ∧
        (op = 3 → p.pin ≠ 0 → ∃ u, pmapRun s job va op arg second bad = some (0, u) ∧ u.mem = s.mem ∧
          pageEntry u job (vpnOf va) = some { p with pin := p.pin - 1 }) ∧
        (op = 4 → p.pin = 0 → runOn s job (vpnOf va) = false → ∃ u, pmapRun s job va op arg second bad = some (0, u) ∧ u.mem = s.mem ∧
          pageEntry u job (vpnOf va) = some { p with rd := arg.getLsbD 0, w := arg.getLsbD 1 }) ∧
        (op = 5 → p.pin = 0 → runOn s job (vpnOf va) = false → ∃ u, pmapRun s job va op arg second bad = some (0, u) ∧ u.mem = s.mem ∧
          pageEntry u job (vpnOf va) = some { p with key := arg.extractLsb' 0 6 }) ∧
        (op = 6 → p.pin = 0 → runOn s job (vpnOf va) = false → ∃ u, pmapRun s job va op arg second bad = some (0, u) ∧ u.mem = s.mem ∧
          pageEntry u job (vpnOf va) = none))) ∧
    (∀ j vpn cls rd w key home, m.body = .page (.map j vpn cls rd w key home) none →
      (vpnValid vpn = false ∨ (pageEntry s j vpn).isSome = true →
        ∃ t, exec (.mapPage c) s = .next t ∧ told t 5 ∧ free t ∧ t.mem = s.mem) ∧
      (vpnValid vpn = true → pageEntry s j vpn = none → s.mapPage j vpn cls rd w key home = none →
        ∃ t, exec (.mapPage c) s = .next t ∧ told t 6 ∧ free t ∧ t.mem = s.mem)) ∧
    (∀ j vpn cls rd w key home h, m.body = .page (.map j vpn cls rd w key home) none → vpnValid vpn = true → pageEntry s j vpn = none →
      (s.core (clearingCore s j vpn)).pages.length < 1024 → (s.core h).vaultMap.length < 1024 → freeFrames s h (vpnLarge vpn) ≠ [] →
      (home = none ∧ placeFrame s (classCore s j vpn cls) (vpnLarge vpn) = some h ∨
        ∃ a e, home = some a ∧ s.ofId a = some e ∧ (if cls = 3 then placeFrame s e (vpnLarge vpn) = some h else h = e)) →
      ∃ t p, exec (.mapPage c) s = .next t ∧ told t 0 ∧ free t ∧ pageEntry t j vpn = some p ∧ p.frame ∈ freeFrames s h (vpnLarge vpn) ∧
        p.mod ++ p.core = s.coreId h ∧ p.rd = rd ∧ p.w = w ∧ p.key = key ∧ p.cls = cls ∧ p.cow = false ∧ p.pin = 0 ∧ p.share = 1 ∧
        p.st = 1 ∧ (∀ i, i < pageSize (vpnLarge vpn) → t.mem.read (vaultKey h (frameOff p.frame) + i) = 0) ∧
        ∀ k, k < vaultKey h (frameOff p.frame) ∨ vaultKey h (frameOff p.frame) + pageSize (vpnLarge vpn) ≤ k →
          t.mem.read k = s.mem.read k) ∧
    (∀ j vpn p, m.body = .page (.unmap j vpn) none → isGlobal (vpnBase vpn) = true → vpnOf (vpnBase vpn) = vpn →
      pageEntry s j vpn = some p → p.st = 1 → p.pin = 0 → runOn s j vpn = false →
      ∃ t, exec (.unmapPage c) s = .next t ∧ told t 0 ∧ free t ∧ pageEntry t j vpn = none ∧ t.mem = s.mem) ∧
    (∀ j vpn home p, m.body = .page (.rehome j vpn home) none → pageEntry s j vpn = some p →
      (p.st = 2 ∨ p.st = 3 →
        ∃ t, exec (.rehome c) s = .next t ∧ (t.core c).pageWait = (s.core c).pageWait ++ [m] ∧ free t ∧ t.net = s.net ∧ t.mem = s.mem) ∧
      (p.st = 1 → p.home = home → ∃ t, exec (.rehome c) s = .next t ∧ told t 0 ∧ free t ∧ t.mem = s.mem) ∧
      (∀ h, p.st = 1 → p.home ≠ home → entryHome s p = some h → (home.extractLsb' 18 8 = p.mod ∨ keyUsable s p.key j = true) →
        canMove s h (sharers s h p.large p.frame) = true →
        (∀ d, s.ofId home = some d → (s.core d).vaultMap.length + (sharers s h p.large p.frame).length ≤ 1024 →
          freeFrames s d p.large ≠ [] → ∃ f u, s.newFrame home p.large (sharers s h p.large p.frame).length = some (f, u) ∧
            f ∈ freeFrames s d p.large) ∧
        (s.newFrame home p.large (sharers s h p.large p.frame).length = none →
          ∃ t, exec (.rehome c) s = .next t ∧ told t 6 ∧ free t ∧ t.mem = s.mem) ∧
        (∀ f u, s.newFrame home p.large (sharers s h p.large p.frame).length = some (f, u) →
          ∃ t, exec (.rehome c) s = .next t ∧ free t ∧ t.mem = s.mem ∧
            (t.core h).rehomes = (s.core h).rehomes ++
              [⟨(s.core h).nextOp, p.job, p.vpn, home, f, p.frame, p.large, 0, 4, sharers s h p.large p.frame, some (m.src, none), false,
                0, some j⟩] ∧
            (⟨s.dstOf home, 7, ⟨h, 4, 0, p.job, 0, 0⟩,
              .rehomeCopy p.job p.vpn h 0 (s.mem.readBytes (vaultKey h (frameOff p.frame)) 512)
                (badBlocks s (vaultKey h (frameOff p.frame)))⟩ : Msg) ∈ t.net))) ∧
    (∀ j vpn p, m.body = .page (.cowbreak j vpn) none → clearsHere s j = true → pageEntry s j vpn = some p → p.st = 1 →
      runOn s j vpn = false →
      (p.cow = false → ∃ t, exec (.cowbreak c) s = .next t ∧ told t 0 ∧ free t ∧ t.mem = s.mem ∧ pageEntry t j vpn = some p) ∧
      (∀ h, p.cow = true → entryHome s p = some h →
        ∃ t, exec (.cowbreak c) s = .next t ∧ free t ∧ t.mem = s.mem ∧ pageEntry t j vpn = some { p with st := 2 } ∧
          (⟨s.dstOf p.home, 7, m.src, .cowBreak j vpn none⟩ : Msg) ∈ t.net)) ∧
    (∀ j vpn p, m.body = .cowBreak j vpn none → clearsHere s j = true → findPage (s.core c).vaultMap j vpn = some p → copyBusy (s.core c) p = false →
      rowInFlight s c (sharers s c p.large p.frame) = false →
      (p.share.toNat ≤ 1 → ∃ t, exec (.cowBreakDecide c) s = .next t ∧ told t 0 ∧ free t ∧ t.mem = s.mem ∧
        ∀ q, pageEntry s j vpn = some q → pageEntry t j vpn = some { q with st := 1, cow := false }) ∧
      (2 ≤ p.share.toNat → freeFrames s c p.large ≠ [] →
        ∃ t f, exec (.cowBreakDecide c) s = .next t ∧ free t ∧ t.mem = s.mem ∧ f ∈ freeFrames s c p.large ∧
          (t.core c).rehomes = (s.core c).rehomes ++
            [⟨(s.core c).nextOp, p.job, p.vpn, s.coreId c, f, p.frame, p.large, 0, 4, [(p.job, p.vpn)], some (m.src, none), true, 0,
              some p.job⟩]))

/-- R354, R356 to R359, R364, R440 and Table 13.3: the later steps of a move or a copy of a page, and of a shoot-down: what each copies,
what it costs, what the entry, the stubs and the hints hold after it. -/
def Obligations.PageMoves : Prop :=
  ∀ (s : State) (c : Nat), s.Ordered →
    (∀ m job vpn old index bs bad r, s.work c = some m → m.body = .rehomeCopy job vpn old index bs bad → old < 2 ^ 20 →
      (s.core old).rehomes.find? (fun r => r.job == job && r.vpn == vpn && r.step == 4) = some r →
      let n := 640 + 9 * s.hopsDst old (s.dstOf r.newHome)
      let last := index + 1 == copyMessages r.large
      n ≤ s.purse old →
      ∃ t, exec (.rehomeCopy c) s = .next t ∧ t.mem = s.mem.writeBytes (vaultKey c (frameOff r.newFrame) + 512 * index) bs ∧
        t.purse old = s.purse old - n ∧ (t.core c).teller.act = none ∧
        (last = true → t.net = s.net ∧ ∃ x ∈ (t.core old).rehomes, x = { r with copied := index + 1, step := 5 }) ∧
        (last = false → t.net.length = s.net.length + 1 ∧ ∃ x ∈ (t.core old).rehomes, x = { r with copied := index + 1 })) ∧
    (∀ r, (s.core c).rehomes.find? (fun r => (r.step == 5 || r.step == 6) && !r.cow) = some r →
      (r.step = 5 → (s.core c).stubs.length + r.pages.length ≤ 64 →
        ∃ t, exec (.rehomeStub c) s = .next t ∧ t.mem = s.mem ∧ t.net.take s.net.length = s.net ∧
          (t.core c).stubs = (s.core c).stubs ++ r.pages.map (fun x => .page x.1 x.2 r.newHome) ∧
          (∃ x ∈ (t.core c).rehomes, x.id = r.id ∧ x.step = 6) ∧
          ∀ d, s.ofId r.newHome = some d → (∀ y ∈ (t.core d).vaultMap, (y.job, y.vpn) ∈ r.pages → y.st = 1) ∧
            (t.core d).ready = (s.core d).ready ++ (s.core d).held.filter (heldFor r.pages)) ∧
      (∀ m rest, r.step = 6 → takeFirst (heldFor r.pages) (s.core c).held = some (m, rest) →
        let d := s.dstOf r.newHome
        let n := ((m.body.pieces d).map Body.flits).sum * s.hopsDst c d
        n ≤ s.purse c →
        ∃ t, exec (.rehomeStub c) s = .next t ∧ t.mem = s.mem ∧ (t.core c).held = rest ∧ t.purse c = s.purse c - n ∧
          t.net = s.net ++ (m.body.pieces d).map (fun b => ⟨d, m.handler, m.src, b⟩)) ∧
      (r.step = 6 → (s.core c).held.any (heldFor r.pages) = false → requestsDue s c r.pages = true → exec (.rehomeStub c) s = .next s) ∧
      (r.step = 6 → (s.core c).held.any (heldFor r.pages) = false → requestsDue s c r.pages = false →
        resvRoom s c r.newHome r.pages = true →
        ∃ t, exec (.rehomeStub c) s = .next t ∧ t.mem = s.mem ∧ (∀ y ∈ (t.core c).vaultMap, (y.job, y.vpn) ∉ r.pages) ∧
          (∃ x ∈ (t.core c).rehomes, x.id = r.id ∧ x.step = 7 ∧ x.acks = r.pages.length) ∧
          (∀ x ∈ r.pages, clearsHere s x.1 = true → (⟨rootCore s, 7, ⟨clearingCore s x.1 x.2, 4, 0, x.1, 0, 0⟩,
            .shootdown x.1 x.2 (clearingCore s x.1 x.2) (some (c, r.id))⟩ : Msg) ∈ t.net) ∧
          ∀ j vpn p y, (j, vpn) ∈ r.pages → clearsHere s j = true → pageEntry s j vpn = some p →
            (s.core c).vaultMap.filter (fun z => z.job == j && z.vpn == vpn) = [y] →
            ∃ q, pageEntry t j vpn = some q ∧ q.mod ++ q.core = r.newHome ∧ q.frame = r.newFrame ∧ q.st = 1 ∧ q.rd = p.rd ∧ q.w = p.w ∧
              q.pin = p.pin ∧ q.key = p.key ∧ q.share = y.share ∧ q.cow = y.cow)) ∧
    (∀ r rest, takeFirst (fun r : Rehome => r.step == 7 && r.acks == 0) (s.core c).rehomes = some (r, rest) →
      ∃ t, exec (.rehomeFree c) s = .next t ∧ (t.core c).rehomes = rest ∧ t.mem = s.mem ∧ (t.core c).pages = (s.core c).pages ∧
        (t.core c).stubs = r.pages.foldl (fun xs y => dropStub y r.newHome xs) (s.core c).stubs) ∧
    (∀ r rest p, takeFirst (fun r : Rehome => r.cow && r.step == 5) (s.core c).rehomes = some (r, rest) →
      findPage (s.core c).vaultMap r.job r.vpn = some p →
      (s.dstOf r.newHome = c ∨ ((s.core c).held.any (heldFor [(r.job, r.vpn)]) = false ∧ requestsDue s c [(r.job, r.vpn)] = false ∧
        resvRoom s c r.newHome [(r.job, r.vpn)] = true)) →
      ∃ t, exec (.cowbreakCopyEnd c) s = .next t ∧ (t.core c).rehomes = rest ∧ t.mem = s.mem ∧
        ∀ x, clearsHere s r.job = true → pageEntry s r.job r.vpn = some x →
          ∃ q, pageEntry t r.job r.vpn = some q ∧ q.frame = r.newFrame ∧ q.mod ++ q.core = r.newHome ∧ q.share = 1 ∧ q.st = 1 ∧
            q.cow = false ∧ q.rd = x.rd ∧ q.w = x.w ∧ q.pin = x.pin) ∧
    (∀ m u job vpn cc move, s.pageWork c = some (m, u) → m.body = .shootdown job vpn cc move →
      let tgt := shootTargets s c m
      let parent := if c = rootCore s then (if m.src.foreign then m.src.core else cc) else treeParent s c
      ∃ t, exec (.shootdown c) s = .next t ∧ t.mem = s.mem ∧
        ((s.core c).asleep = true → (t.core c).wake = true ∧ (t.core c).hints = (s.core c).hints) ∧
        ((s.core c).asleep = false → ∀ i h, (t.core c).hints.get i = some h →
          (s.core c).hints.get i = some h ∧ (h.job ≠ job ∨ h.vpn ≠ vpn)) ∧
        ((s.core c).asleep = false → s.isActive c = true → (t.core c).teller.act = none) ∧
        (tgt = [] → t.net = u.net ++ [⟨parent, 7, ⟨c, 4, 0, job, 0, 0⟩, .shootAck job vpn cc move⟩]) ∧
        (tgt ≠ [] → t.net = u.net ++ tgt.map (fun d => ⟨d, 7, ⟨c, 4, 0, job, 0, 0⟩, .shootdown job vpn cc move⟩) ∧
          (t.core c).shoots = (s.core c).shoots ++ [⟨job, vpn, cc, move, parent, tgt.length⟩])) ∧
    (∀ m u job vpn cc move, s.pageWork c = some (m, u) → m.body = .shootAck job vpn cc move →
      let mine := takeFirst (fun x : Shoot => x.job == job && x.vpn == vpn && x.clearing == cc && x.move == move) (s.core c).shoots
      ∃ t, exec (.shootdownAck c) s = .next t ∧ t.mem = s.mem ∧
        ((s.core c).asleep = false → s.isActive c = true → (t.core c).teller.act = none) ∧
        (∀ x rest, mine = some (x, rest) →
          (x.due ≤ 1 → (t.core c).shoots = rest ∧ t.net = u.net ++ [⟨x.parent, 7, ⟨c, 4, 0, job, 0, 0⟩, .shootAck job vpn cc move⟩]) ∧
          (1 < x.due → (t.core c).shoots = { x with due := x.due - 1 } :: rest ∧ t.net = u.net)) ∧
        (∀ id r, mine = none → move = some (c, id) → (s.core c).rehomes.find? (fun r => r.id == id && r.step == 7) = some r →
          t.net = u.net ∧ ∃ x ∈ (t.core c).rehomes, x = { r with acks := r.acks - 1 }) ∧
        (∀ old id, mine = none → move = some (old, id) → old ≠ c → c = cc →
          t.net = u.net ++ [⟨old, 7, ⟨c, 4, 0, job, 0, 0⟩, .shootAck job vpn cc move⟩])) ∧
    ((s.core c).rebuilding = true →
      ∃ t, exec (.pageEntryRebuild c) s = .next t ∧ (t.core c).rebuilding = false ∧ t.mem = s.mem ∧ (∀ k, k ≠ c → t.core k = s.core k) ∧
        ∀ k p, p ∈ (s.core k).vaultMap → clearingCore s p.job p.vpn = c → comingHere s p = false → (findPage (t.core c).pages p.job p.vpn).isSome = true)

/-! ### The distributor root (12_launch_scheduling.md, 07_matrix_spans_work.md) -/

/-- R214, R217, R220 to R226, R306 to R315, R331 and R368: the root performs the request whose turn it is: what it answers, and what it
enters in its tables. The turn is that of the oldest cycle's requests, in the order of R310: hub commands, then completions and
resolutions, then instructions, each in ascending sender. When a request reaches the root is the model's reading (log entry 37), and so
are some refusals (log entries 39 and 43). -/
def Obligations.RootPerforms : Prop :=
  ∀ (s u : State) (q : Req), s.Ordered →
    let headed := fun (r : RootReq) => s.rootHead = some (r, u)
    let answeredOn := fun (p t : State) (x : Word) (f : Option FaultInfo) =>
      t.net = s.net ++ [⟨q.core, 63, q, .deferred x f⟩] ∧ t.dist.queue = u.dist.queue ∧ t.cores = p.cores
    let answered := answeredOn s
    (∀ e, s.dist.queue = [e] → hubAt s .a e.cycle = false → hubAt s .b e.cycle = false →
      (e.req.isCompletion = true ∨ ∀ l ∈ s.dist.launches, ∀ n, dueAt s l = some n → e.cycle.toNat < n.toNat) →
      s.rootHead = some (e.req, s.updDist (fun d => { d with queue := [] }))) ∧
    (∀ r, headed r → ∃ e ∈ s.dist.queue, e.req = r ∧ hubAt s .a e.cycle = false ∧ hubAt s .b e.cycle = false ∧
      s.dist.queue.head?.map (fun x => x.cycle) = some e.cycle ∧
      (∀ x ∈ s.dist.queue, x.cycle = e.cycle → rootRank s r ≤ rootRank s x.req) ∧
      (r.isCompletion = false → ∀ l ∈ s.dist.launches, ∀ n, dueAt s l = some n → e.cycle.toNat < n.toNat)) ∧
    (∀ bs l, headed (.launch q bs) → judge s q.job bs = .accept l → launchNo s l.num = none → l.desc.preds = [] → l.st = 0 →
      l.eligible = false →
      ∃ t, exec .launchAccept s = .next t ∧ answeredOn (s.judged bs) t (l.num.zeroExtend 64) none ∧ t.mem = s.mem ∧
        launchNo t l.num = some { l with eligible := true, order := s.dist.nextOrder } ∧ t.dist.nextLaunch = s.dist.nextLaunch + 1) ∧
    (∀ bs st, headed (.launch q bs) → judge s q.job bs = .refused st →
      ∃ t, exec .launchAccept s = .next t ∧ answered t (BitVec.ofNat 64 (st * 2 ^ 56)) none ∧ t.dist.launches = s.dist.launches ∧
        t.mem = s.mem) ∧
    (∀ bs f, headed (.launch q bs) → judge s q.job bs = .fault f →
      ∃ t, exec .launchAccept s = .next t ∧ answeredOn (s.judged bs) t 0 (some f) ∧ t.dist.launches = s.dist.launches ∧ t.mem = s.mem) ∧
    (∀ l, headed (.completion q) → launchNo s q.launch = some l → l.ended = false → l.cancelling = false → s.dist.preempts = [] →
      (l.done + 1 ≠ l.desc.units →
        ∃ t, exec .unitCompletion s = .next t ∧ launchNo t q.launch = some (Launch.forced { l with done := l.done + 1, placed := l.placed - 1 }) ∧
          t.mem = s.mem ∧ t.cores = s.cores ∧ t.dist.queue = u.dist.queue) ∧
      (l.done + 1 = l.desc.units →
        ∃ t m, exec .unitCompletion s = .next t ∧ launchNo t q.launch = some m ∧ m.st = 3 ∧ m.done = l.desc.units ∧ m.placed = 0 ∧
          m.endedAt = s.cycle ∧ t.dist.queue = u.dist.queue ∧ (l.desc.notify = 0 → t.cores = s.cores ∧ t.mem = s.mem))) ∧
    (∀ (n : BitVec 32) l m, launchNo s n = some l → dueAt s l = some m → resolvesNow s l m = true →
      (∀ p ∈ l.desc.preds, ∃ x, launchNo s p = some x ∧ x.st = 3) →
      ∃ t, exec (.predecessorResolution n.toNat) s = .next t ∧
        launchNo t n = some { l with eligible := true, order := s.dist.nextOrder } ∧ t.mem = s.mem ∧ t.cores = s.cores ∧
        t.dist.nextOrder = s.dist.nextOrder + 1) ∧
    (∀ (n : BitVec 32) l, launchNo s n = some l → l.waits = true → (l.aged + 1) * 10000 ≤ l.waited →
      ∃ t, exec (.priorityAging n.toNat) s = .next t ∧ launchNo t n = some { l with aged := l.aged + 1 } ∧ t.mem = s.mem ∧
        t.cores = s.cores) ∧
    (∀ level n, headed (.cancel q level n) →
      (cancelNames s level q.job n = true → (level = 3 → n = q.job.zeroExtend 32) →
        exec .cancelPerform s = .next (u.cancel ⟨level, q.job, n, .unit q, false⟩)) ∧
      (cancelNames s level q.job n = false ∨ level = 3 ∧ n ≠ q.job.zeroExtend 32 →
        ∃ t, exec .cancelPerform s = .next t ∧ answered t 0 (some ⟨causeLAUNCH, 1, n.zeroExtend 64⟩) ∧
          t.dist.launches = s.dist.launches ∧ t.mem = s.mem)) ∧
    (∀ n, headed (.lstat q n) →
      (∀ l, findLaunch s q.job n = some l → ∃ t, exec .lstatPerform s = .next t ∧ answered t l.stat none ∧ t.mem = s.mem) ∧
      (findLaunch s q.job n = none →
        ∃ t, exec .lstatPerform s = .next t ∧ answered t 0 (some ⟨causeLAUNCH, 1, n.zeroExtend 64⟩) ∧ t.mem = s.mem)) ∧
    (∀ bs, headed (.treg q bs) →
      (tregStatus s q.job bs = 0 → (∀ l, launchNo s (tensorOf q.job 0 bs).first = some l → l.next = 0) →
        ∃ t, exec .tregPerform s = .next t ∧ answered t 0 none ∧ t.mem = s.mem ∧
          t.dist.tensors = s.dist.tensors ++ [tensorOf q.job (s.reqId q) bs]) ∧
      (tregStatus s q.job bs ≠ 0 →
        ∃ t, exec .tregPerform s = .next t ∧ answered t (BitVec.ofNat 64 (tregStatus s q.job bs)) none ∧ t.mem = s.mem ∧
          t.dist.tensors = s.dist.tensors)) ∧
    (∀ (qty region : Nat), qty < 16 → region < 2 ^ 16 → headed (.purse q (BitVec.ofNat 64 (region * 2 ^ 16 + qty))) →
      (regionOk qty region = true → ∃ t, exec .pursePerform s = .next t ∧ answered t (sample s q.job qty region) none ∧ t.mem = s.mem) ∧
      (regionOk qty region = false → ∃ t, exec .pursePerform s = .next t ∧ answered t (BitVec.allOnes 64) none ∧ t.mem = s.mem)) ∧
    (∀ bs i k, headed (.subs q bs) → subsValid bs = true → freeSub s q.job = some i →
      globKey s q.job (BitVec.ofNat 64 (imgNat bs 0x10 8)) true = .ok k → s.bad.contains (k / 64 * 64) = false →
      let qty := imgNat bs 0 1
      let x := sample s q.job qty (imgNat bs 2 2)
      ∃ t, exec .subsPerform s = .next t ∧ answered t (BitVec.ofNat 64 i) none ∧
        t.mem = s.mem.writeBytes k (bytesOf 8 (notifyWord qty 0 x).toNat) ∧ t.dist.subs.length = s.dist.subs.length + 1) ∧
    (∀ n, headed (.unsubs q n) → (∀ x ∈ s.dist.notices, x.job = q.job → x.sub = some n → x.sent = false ∧ x.answer = none) →
      ∃ t, exec .unsubsPerform s = .next t ∧ answered t 0 none ∧ t.mem = s.mem ∧
        t.dist.subs = s.dist.subs.filter (fun x => !(x.job == q.job && x.num == n))) ∧
    (∀ bs, headed (.crinit q bs) → crinitValid bs = true → findReduction s q.job (BitVec.ofNat 10 (imgNat bs 0 2)) = none →
      let k := imgNat bs 3 1
      let res := BitVec.ofNat 64 (imgNat bs 8 8)
      (∀ i, i < k → globWritable s q.job (res + BitVec.ofNat 64 (64 * i)) = true) →
      ∃ t, exec .crinitPerform s = .next t ∧ answered t 0 none ∧ t.mem = s.mem ∧
        findReduction t q.job (BitVec.ofNat 10 (imgNat bs 0 2)) =
          some ⟨q.job, BitVec.ofNat 10 (imgNat bs 0 2), imgNat bs 2 1, k, res, 0, false, [], [], [], false, false⟩) ∧
    (∀ i n k bs r, headed (.cradd q i n k bs) → findReduction s q.job (BitVec.ofNat 10 n) = some r → r.failed = false →
      i < 2 ^ r.logs → k = r.k → (∀ x ∈ r.slots, x.1 ≠ i) → r.waiting = [] →
      (r.slots.length + 1 ≠ 2 ^ r.logs →
        ∃ t, exec .craddCount s = .next t ∧ answered t 0 none ∧ t.mem = s.mem ∧
          findReduction t q.job (BitVec.ofNat 10 n) = some { r with slots := r.slots ++ [(i, bs)] }) ∧
      (∀ ks : List Nat, r.slots.length + 1 = 2 ^ r.logs → resKeys s r = .ok (ks.map .inl) →
        ∃ t, exec .craddCount s = .next t ∧ answered t 0 none ∧
          findReduction t q.job (BitVec.ofNat 10 n) = some { r with slots := [], round := r.round + 1, due := [], lost := false, sent := false } ∧
          t.mem = ((List.range r.k).zip ks).foldl (fun m x =>
            m.writeBytes x.2 (((roundResult { r with slots := r.slots ++ [(i, bs)] }).drop (64 * x.1)).take 64)) s.mem)) ∧
    (∀ x w ws k, s.dist.notices = [] → s.dist.subs.filter (fun x => !x.pending.isEmpty) = [x] → x.pending = w :: ws →
      globKey s x.job x.notify true = .ok k → s.bad.contains (k / 64 * 64) = false →
      ∃ t, exec .notifyWrite s = .next t ∧ t.mem = s.mem.writeBytes k (bytesOf 8 w.toNat) ∧ t.cores = s.cores ∧
        t.dist.subs = s.dist.subs.map (fun y => if y == x then { y with pending := ws } else y)) ∧
    (∀ (n : BitVec 32) l, launchNo s n = some l → l.next = l.desc.units → l.next ≠ 0 → l.ended = false →
      exec (.tensorFirstUse n.toNat) s = .next (s.mapTensors n) ∧
      ((∀ x ∈ s.dist.tensors, x.first ≠ n) → (unitsOf s n = []) → s.mapTensors n = s)) ∧
    (∀ (n : BitVec 32) l x, launchNo s n = some l → l.ended = true → s.dist.tensors.filter (fun y => y.last == n) = [x] → x.done ≠ 0 →
      (∀ c, ∀ p ∈ (s.core c).pages, inTensor x p = true → p.pin = 0 ∧ p.st = 1 ∧ runOn s p.job p.vpn = false) →
      ∃ t, exec (.tensorLastUse n.toNat) s = .next t ∧ t.dist.tensors = s.dist.tensors.filter (fun y => y != x) ∧ t.mem = s.mem ∧
        ∀ j vpn p, pageEntry s j vpn = some p → inTensor x p = true → pageEntry t j vpn = none)

/-! ### Placing, saving and moving units (12_launch_scheduling.md, 10_kernel_execution.md) -/

/-- R36, R232, R274, R296 to R298, R317, R326 to R329, R429, R487 and Table 10.1: code loads, the placement of a unit with the registers
it starts with, the end of a grant, and a saved unit's way out of its slot and back. R37, R38 and Table 1.5: a context image is 4 096
bytes long, and the slot it is applied to has the registers, the trap registers, the counts and the identity of the slot it was written
from. When coins of a save or a restore are paid and when a record is written is the model's reading (log entry 40); two launches have one
image when its bytes are the same, and what an image brings into the user handler region is open (log entry 38). -/
def Obligations.PlacingAndSaving : Prop :=
  (∀ (s : State) (c : Nat), s.Ordered →
    -- CODE_LOAD
    (∀ m bs, s.work c = some m → m.body = .user bs → m.handler = 9 →
      let addr := imgNat bs 0 2
      let code := (bs.drop 64).take (4 * imgNat bs 2 1)
      let ix := imgNat bs 4 1
      (codeValid bs = true →
        ∃ t, exec (.codeLoad c) s = .next t ∧ (t.core c).teller.act = none ∧ t.net = s.net ∧
          t.mem = (s.mem.writeBytes (storeKey c addr) code).writeBytes (vaultKey c (0xFC8000 + addr)) code ∧
          (imgNat bs 3 1 = 0 → (t.core c).handlers = (s.core c).handlers) ∧
          (imgNat bs 3 1 = 1 → (t.core c).handlers.get ix ⟨0, false, 0⟩ = handlerOf (BitVec.ofNat 64 (imgNat bs 8 8))) ∧
          (imgNat bs 3 1 = 2 → Tab.find (t.core c).handlers ix = none) ∧
          (∀ j, j ≠ ix → Tab.find (t.core c).handlers j = Tab.find (s.core c).handlers j)) ∧
      (codeValid bs = false →
        ∃ t r, exec (.codeLoad c) s = .next t ∧ (t.core c).teller.act = none ∧ t.mem = s.mem ∧
          t.portA.events = s.portA.events ++ [.handlerFault r] ∧
          ∀ a, (s.core c).teller.act = some a → a.handler = 9 → m.src.slot < 4 →
            (⟨m.src.core, 63, m.src, .sendFault ⟨causeILLOP, 0, 0⟩⟩ : Msg) ∈ t.net)) ∧
    -- IMAGE_LOAD
    (∀ n l, (s.core c).imageDue = some n → launchNo s n = some l → l.cancelling = false → l.ended = false →
      (∀ i, (s.slotAt c i).phase ≠ .restore) → (∀ i, (s.slotAt c i).phase = .placing → (s.slotAt c i).launchid = n) →
      ∃ t, exec (.imageLoad c) s = .next t ∧ (t.core c).image = some l.code ∧ (t.core c).imageDue = none ∧
        (∀ q, (t.core c).queues.get q = []) ∧
        ((∀ i, (s.slotAt c i).phase ≠ .placing) → l.code.length ≤ 0x5000 →
          t.mem.readBytes (storeKey c 0) l.code.length = l.code ∧ t.mem.readBytes (vaultKey c 0xFC8000) l.code.length = l.code) ∧
        ∀ i, (t.slotAt c i).ctx = (s.slotAt c i).ctx ∧
          ((s.slotAt c i).phase = .placing → tensorsReady s n = true → (t.slotAt c i).phase = .run) ∧
          ((s.slotAt c i).phase ≠ .placing → (t.slotAt c i).phase = (s.slotAt c i).phase)) ∧
    -- UNIT_PLACE
    (∀ (n : BitVec 32) (i : Fin 4) l, launchNo s n = some l → l.next < l.desc.units → (s.slotAt c i).phase = .empty →
      mayServe s l l.next c = true → (jobOf s l.desc.job).any (fun j => j.recording) = false →
      let base := partBase l.desc.upc (l.next % l.desc.upc)
      ∃ t, exec (.unitPlace n.toNat c i) s = .next t ∧
        (let x := t.slotAt c i
         x.ctx.pc = l.desc.entry ∧ x.ctx.g[30] = BitVec.ofNat 64 base ∧ x.ctx.g[2] = BitVec.ofNat 64 (base + l.desc.lease) ∧
         x.ctx.g[3] = l.desc.param ∧ (∀ r : Fin 32, r ≠ 2 → r ≠ 3 → r ≠ 30 → x.ctx.g.get r = 0) ∧ (∀ r, x.ctx.v.get r = 0) ∧
         (∀ r, x.ctx.m.get r = 0) ∧ (∀ r, x.ctx.k.get r = 0) ∧ (∀ r, x.ctx.fd.get r = 0) ∧ x.trapcause = 0 ∧ x.trappc = 0 ∧ x.trapval = 0 ∧
         (∀ q, x.chans.get q = Chan.reset) ∧ Chan.reset.bound = false ∧ Chan.reset.free = 16 ∧ x.batchUsed = false ∧ x.fault = none ∧
         x.marksG = 0 ∧ x.marksV = 0 ∧ x.ctx.status = 0 ∧ x.ctx.fpmode = 0 ∧ x.trapvec = 0x6000 ∧ x.unitid = BitVec.ofNat 24 l.next ∧ x.launchid = n ∧
         x.jobid = l.desc.job ∧ x.heatcls = l.desc.heat ∧ x.origin = s.coreId c ∧ x.coinspent = 0 ∧ x.instret = 0 ∧
         x.leaseBase = BitVec.ofNat 11 (base / 64) ∧ x.leaseSize = BitVec.ofNat 11 (l.desc.lease / 64) ∧
         ((s.core c).image = some l.code → (s.core c).imageDue = none → tensorsReady s n = true → x.phase = .run ∧
           (l.desc.heat.toNat < 2 → t.mem =
             (s.mem.clear (tillKey c (x.leaseBase.toNat * 64)) x.leaseBytes).writeBytes (tillKey c (x.leaseBase.toNat * 64)) l.init)) ∧
         ((s.core c).image ≠ some l.code → x.phase = .placing ∧ (t.core c).imageDue.isSome = true ∧
           (l.desc.heat.toNat < 2 → t.mem = s.mem))) ∧
        launchNo t n = some { l with
          next := l.next + 1, placed := l.placed + 1, passing := true, st := if l.next + 1 = l.desc.units then 2 else 1 }) ∧
    -- GRANT_END
    (∀ g, (s.core c).grants = [g] → g.lender ≠ c →
      (∀ i, (s.slotAt c i).phase = .empty ∨ (s.slotAt c i).launchid ≠ g.launch) → windowBusy s c g.lender = false →
      ∃ t, exec (.grantEnd c) s = .next t ∧ (t.core c).grants = [] ∧ (t.core g.lender).lentTo = (s.core g.lender).lentTo.filter (fun x => x != c) ∧
        ((∀ x ∈ (s.core g.lender).lentTo, x = c) →
          (∀ i r, (t.slotAt g.lender i).ctx.v.get r = 0) ∧ (∀ a, a < 0x1E000 → t.mem.read (tillKey g.lender a) = 0)) ∧
        ((∃ x ∈ (s.core g.lender).lentTo, x ≠ c) → t.mem = s.mem)) ∧
    -- PREEMPT_SAVE: the first and the last step
    (∀ (i : Fin 4) x why, (s.slotAt c i).leaving = none → launchNo s (s.slotAt c i).launchid = some x → (s.slotAt c i).phase = .run →
      preemptCause s x (c, i) = some why → x.desc.coresident = false →
      ∃ t, exec (.preemptSave c i) s = .next t ∧ (t.slotAt c i).phase = (if inReplay (s.slotAt c i) then .run else .drain) ∧
        (t.slotAt c i).leaving = some ⟨.preempt why, 0, 0, none, 0, none⟩ ∧ (t.slotAt c i).ctx = (s.slotAt c i).ctx ∧ t.mem = s.mem ∧
        ∀ j, j ≠ i → t.slotAt c j = s.slotAt c j) ∧
    (∀ (i : Fin 4) x why v, (s.slotAt c i).leaving = some v → v.why = .preempt why → v.stage = 3 →
      let l := s.slotAt c i
      let blocks := 64 + l.leaseBytes / 64 - v.sent
      let base := l.leaseBase.toNat * 64
      launchNo s l.launchid = some x → s.dist.preempts = [] → (s.core c).saveSet = [] → 44 * blocks ≤ s.purse c →
      v.sent < 64 + l.leaseBytes / 64 →
      ∃ t, exec (.preemptSave c i) s = .next t ∧ t.slotAt c i = Slot.reset ∧ t.purse c = s.purse c - 44 * blocks ∧
        (t.core c).saveSet = [(i, l.launchid, l.unitid)] ∧
        launchNo t l.launchid = some ({ x with
          saved := x.saved ++ [⟨l.unitid, c, some i, partOf l.upc l.unitid, base, l.leaseBytes, besideOf l, none, 0⟩]
          waited := 0
          aged := 0 } : Launch).forced ∧
        ((∀ g ∈ (s.core c).grants, g.lender ≠ c) → ∀ j, j ≠ i → t.slotAt c j = s.slotAt c j)) ∧
    -- UNIT_RESTORE: how it begins, and a step with the record in the own vault or in another core's
    (∀ (n : BitVec 32) (i : Fin 4) l x, launchNo s n = some l → l.saved.find? (fun y => y.unit.toNat == x.unit.toNat) = some x →
      (s.slotAt c i).phase = .empty → l.preempting = none → mayServe s l x.unit.toNat c = true →
      (jobOf s l.desc.job).any (fun j => j.recording) = false → l.desc.heat.toNat < 2 →
      ∃ t, exec (.unitRestore n.toNat x.unit.toNat c i) s = .next t ∧ t.purses = s.purses ∧ t.mem = s.mem ∧
        (t.slotAt c i).phase = .restore ∧ (t.slotAt c i).unitid = x.unit ∧ (t.slotAt c i).launchid = n ∧
        (t.slotAt c i).incoming = some { Incoming.start (.preempt none) x.leaseSize with
          leaseBase := x.leaseBase, beside := x.beside, spent := x.spent, saved := some (x, 0) } ∧
        ((s.core c).image ≠ some l.code → (t.core c).imageDue = some n) ∧
        launchNo t n = some { l with saved := l.saved.filter (fun z => z.unit != x.unit), passing := true }) ∧
    (∀ (n : BitVec 32) (i : Fin 4) l x y k, launchNo s n = some l → (s.slotAt c i).phase = .restore → (s.slotAt c i).launchid = n →
      (s.slotAt c i).unitid = x.unit → (s.slotAt c i).incoming = some y → y.saved = some (x, k) → y.whole = false → y.go = false →
      k < migMessages x.leaseSize →
      let coins := 44 * migFlits x.leaseSize k + (if x.core = c then 0 else 2 * hops x.core c * (1 + migFlits x.leaseSize k))
      coins ≤ s.purse c →
      ∃ t z, exec (.unitRestore n.toNat x.unit.toNat c i) s = .next t ∧ t.purse c = s.purse c - coins ∧ t.mem = s.mem ∧
        (t.slotAt c i).phase = .restore ∧ (t.slotAt c i).incoming = some z ∧ z.saved = some (x, k + 1) ∧ z.spent = y.spent + coins ∧
        (x.core = c → t.net = s.net ∧ z.image = y.image ++ (recordChunk (recordOfUnit s n x) k).1 ∧
          z.lease = y.lease ++ (recordChunk (recordOfUnit s n x) k).2 ∧ z.whole = (k + 1 == migMessages x.leaseSize)) ∧
        (x.core ≠ c → z.image = y.image ∧ z.lease = y.lease ∧
          t.net = s.net ++ [⟨x.core, 10, s.reqOf c i 0, .restoreAsk x k i⟩]))) ∧
  (∀ (l : Slot) (more : Bool) (z : Beside) (upc : Nat),
    let bs := imageOf l none more
    let x := slotFrom bs z upc .run
    x.lastPc = z.lastPc ∧ x.since = z.since ∧ x.trapWork = z.work ∧ bs.length = 4096 ∧ x.ctx.pc = l.ctx.pc &&& ~~~3 ∧
    x.moreFaults = (l.fault.isSome && more) ∧ x.ctx.status = l.ctx.status ∧ x.ctx.fpmode = l.ctx.fpmode ∧ x.ctx.k = l.ctx.k ∧ x.ctx.fd = l.ctx.fd ∧ (∀ i : Fin 32, i ≠ 0 → x.ctx.g.get i = l.ctx.g.get i) ∧ x.ctx.v = l.ctx.v ∧
    (∀ i : Fin 8, i ≠ 0 → x.ctx.m.get i = l.ctx.m.get i) ∧ x.trappc = l.trappc ∧ x.trapcause = l.trapcause ∧ x.trapval = l.trapval ∧
    x.trapvec = l.trapvec &&& ~~~3 ∧ x.instret = l.instret ∧ x.coinspent = l.coinspent ∧ x.unitid = l.unitid ∧ x.launchid = l.launchid ∧
    x.jobid = l.jobid ∧ x.origin = l.origin ∧ x.leaseBase = l.leaseBase ∧ x.leaseSize = l.leaseSize ∧ x.heatcls = l.heatcls)

/-- R285 to R290 and Table 10.6: the seven steps of a migration, each at the core that performs it: a drained slot settles, asks, and
sends its image and lease; the destination reserves a slot or parks; the source leaves a stub; the unit resumes after its MIG. Coins and
the order of the steps' messages follow log entries 23 and 36. -/
def Obligations.MigrationSteps : Prop :=
  ∀ (s : State) (c : Nat) (i : Fin 4), s.Ordered →
    let l := s.slotAt c i
    (∀ v, l.leaving = some v → (∀ j, v.why ≠ .preempt j) →
      let h := s.hopsFrom c v.dest
      (v.stage = 0 → drained s c i = true →
        ∃ t, exec (.migrationDrain c i) s = .next t ∧ (t.slotAt c i).ctx = l.ctx ∧ (t.slotAt c i).rpt = none ∧ (t.slotAt c i).tile = none ∧
          (∃ w, (t.slotAt c i).leaving = some w ∧ w.stage = 1 ∧ w.dest = v.dest) ∧ (t.core c).owner ≠ some i ∧
          ∀ j, j ≠ i → t.slotAt c j = s.slotAt c j) ∧
      (v.stage = 0 → drained s c i = false → exec (.migrationDrain c i) s = .next s) ∧
      (v.stage = 1 → s.slotCanPay c i (2 * h) = true →
        ∃ t, exec (.migrationDrain c i) s = .next t ∧ (t.slotAt c i).leaving = some { v with stage := 2 } ∧
          t.net = s.net ++ [⟨s.placeOf v.dest, 10, s.reqOf c i 0, .migAsk i.val l.unitid l.launchid l.upc l.leaseSize.toNat l.heatcls⟩] ∧
          t.purse c = s.purse c - 2 * h ∧ t.mem = s.mem ∧ (t.slotAt c i).ctx = l.ctx) ∧
      (v.stage = 3 → v.sent < migMessages l.leaseBytes →
        let n := 2 * h * (1 + migFlits l.leaseBytes v.sent)
        s.slotCanPay c i n = true →
        ∃ t, exec (.migrationDrain c i) s = .next t ∧ (t.slotAt c i).leaving = some { v with sent := v.sent + 1 } ∧
          t.net = s.net ++ [⟨s.placeOf v.dest, 10, s.reqOf c i 0, migMessage (s.chargeSlot c i n) c i v v.sent n⟩] ∧ t.purse c = s.purse c - n ∧ t.mem = s.mem) ∧
      (v.stage = 3 → v.sent = migMessages l.leaseBytes →
        migArrived s (s.dstOf v.dest) (v.answer.getD none) l.launchid l.unitid = true → (s.core c).stubs.length < 64 →
        s.dstOf v.dest ≠ c → s.dstOf v.dest < 2 ^ 20 → (s.core c).owner ≠ some i → (s.core c).held = [] → (s.core c).grants = [] →
        (v.answer.getD none = none → ∀ z, launchNo s l.launchid = some z → z.cancelling = false ∧ preempted s z = false) →
        ∃ t, exec (.migrationStub c i) s = .next t ∧ t.slotAt c i = Slot.reset ∧ t.mem = s.mem ∧ t.net = s.net ∧
          (t.core c).stubs = (s.core c).stubs ++
            [.context l.launchid l.unitid (partOf l.upc l.unitid) l.upc (s.dstOf v.dest) (v.answer.getD none)] ∧
          (∀ d, v.answer = some (some d) → ∃ y, (t.slotAt (s.dstOf v.dest) d).incoming = some y ∧ y.go = true) ∧
          (v.answer.getD none = none → ∃ p ∈ (t.core (s.dstOf v.dest)).parked, p.launch = l.launchid ∧ p.unit = l.unitid ∧ p.inc.go = true)) ∧
      (∀ m rest, v.stage = 3 → v.sent = migMessages l.leaseBytes →
        migArrived s (s.dstOf v.dest) (v.answer.getD none) l.launchid l.unitid = true → (s.core c).stubs.length < 64 →
        takeFirst (isHeldFor l) (s.core c).held = some (m, rest) →
        (∀ dst g bs x bar page, m.body = .block dst g bs x bar page → 2 * s.hopsDst c (s.dstOf v.dest) ≤ s.purse c →
          ∃ t, exec (.migrationStub c i) s = .next t ∧ t.mem = s.mem ∧ (t.core c).held = rest ∧
            t.purse c = s.purse c - 2 * s.hopsDst c (s.dstOf v.dest) ∧
            t.slotAt c i = l ∧ t.net = s.net ++ [⟨s.dstOf v.dest, 63, m.src, .blockFor l.launchid l.unitid dst bs bar page⟩]))) ∧
    (∀ m slot unit launch upc granules heat, s.work c = some m → m.body = .migAsk slot unit launch upc granules heat →
      (jobOf s m.src.job).any (fun j => j.recording) = false →
      (mustPark s (s.core c) launch upc (partOf upc unit) = false →
        ∃ t d, exec (.migrationReserve c) s = .next t ∧ d ∈ emptySlots (s.core c) ∧ (t.slotAt c d).phase = .restore ∧
          (t.slotAt c d).unitid = unit ∧ (t.slotAt c d).launchid = launch ∧ (t.slotAt c d).heatcls = heat ∧
          (t.core c).teller.act = none ∧ t.mem = s.mem ∧
          t.net = s.net ++ [⟨m.src.core, 10, m.src, .migAnswer slot (some d) (s.coreId c)⟩]) ∧
      (mustPark s (s.core c) launch upc (partOf upc unit) = true →
        ∃ t, exec (.migrationReserve c) s = .next t ∧ (t.core c).slots = (s.core c).slots ∧ (t.core c).teller.act = none ∧
          (t.core c).parked.length = (s.core c).parked.length + 1 ∧
          t.net = s.net ++ [⟨m.src.core, 10, m.src, .migAnswer slot none (s.coreId c)⟩])) ∧
    (∀ m grant answerer v, s.work c = some m → m.body = .migAnswer i.val grant answerer → l.leaving = some v →
      let ours := l.unitid = m.src.unit ∧ l.launchid = m.src.launch ∧ answers s answerer v = true
      ∃ t, exec (.migrationReserve c) s = .next t ∧ (ours → (t.slotAt c i).leaving = some { v with stage := 3, answer := some grant }) ∧
        (¬ ours → t.slotAt c i = l) ∧ t.mem = s.mem ∧ (t.slotAt c i).ctx = l.ctx ∧ (t.core c).teller.act = none) ∧
    (∀ m index last why img cells base size upc beside coins x, s.work c = some m →
      m.body = .migImage (some i) index last why img cells base size upc beside coins → l.incoming = some x →
      ∃ t y, exec (.migrationTransfer c) s = .next t ∧ (t.slotAt c i).incoming = some y ∧ y.image = x.image ++ img ∧
        y.lease = x.lease ++ cells ∧ y.leaseBase = base ∧ y.leaseSize = size ∧ y.beside = beside ∧ y.whole = last ∧ y.spent = x.spent + coins ∧
        t.mem = s.mem ∧ (t.core c).teller.act = none) ∧
    (∀ m x k j, s.work c = some m → m.body = .restoreAsk x k j →
      let r := recordChunk (recordOfUnit s m.src.launch (comingUnit s m.src.launch x)) k
      ∃ t, exec (.migrationTransfer c) s = .next t ∧ t.mem = s.mem ∧ (t.core c).teller.act = none ∧
        t.net = s.net ++ [⟨m.src.core, 10, m.src,
          .migImage (some j) k (k + 1 == migMessages x.leaseSize) (.preempt none) r.1 r.2 x.leaseBase x.leaseSize 1 x.beside 0⟩]) ∧
    (∀ x, l.incoming = some x → l.phase = .restore → x.whole = true → x.go = true → hasImage s c l.launchid = true →
      (∀ z, launchNo s (slotFrom x.image x.beside l.upc .run).launchid = some z → z.cancelling = false) → matrixFrom x.image = none →
      let y := slotFrom x.image x.beside l.upc .run
      ∃ t, exec (.migrationResume c i) s = .next t ∧ (t.slotAt c i).phase = .run ∧
        (t.slotAt c i).ctx.pc = y.ctx.pc ∧ (t.slotAt c i).coinspent = y.coinspent + BitVec.ofNat 64 x.spent ∧ (t.slotAt c i).ctx.g = y.ctx.g ∧
        (t.slotAt c i).ctx.v = y.ctx.v ∧ (t.slotAt c i).ctx.m = y.ctx.m ∧ (t.slotAt c i).ctx.status = y.ctx.status ∧
        (t.slotAt c i).instret = y.instret ∧ t.mem = s.mem.putSlice (tillKey c x.leaseBase) x.leaseSize x.lease ∧
        ∀ j, j ≠ i → t.slotAt c j = s.slotAt c j) ∧
    (∀ p, l.phase = .empty → (s.core c).parked.find? (canUnpark s (s.core c)) = some p →
      let x := parkedContext s c p
      let job := BitVec.ofNat 24 (imgNat x.image 0xEF0 8)
      (jobOf s job).any (fun j => j.recording) = false →
      ∃ t, exec (.parkedRestore c i) s = .next t ∧ (t.slotAt c i).phase = .restore ∧ (t.slotAt c i).incoming = some x ∧
        (t.slotAt c i).unitid = p.unit ∧ (t.slotAt c i).launchid = p.launch ∧ (t.slotAt c i).jobid = job ∧
        (t.core c).parked = (s.core c).parked.filter (fun y => !(y.launch == p.launch && y.unit == p.unit)) ∧
        ∀ j, j ≠ i → t.slotAt c j = s.slotAt c j)

/-! ### Span services (14_spans_attention.md) -/

/-- R210, R211, R369 to R378, R385 and Tables 7.8 and 14.1 to 14.4: handler 6 at a pool's entry core, at a sequence home and at a span
home, and the three pool requests: what each sends on, answers, writes and keeps. The division of a pool request among entry core and
members, the coins of handler 6 and the order of some checks are the model's readings (log entries 13 and 33). -/
def Obligations.SpanServices : Prop :=
  ∀ (s : State) (c : Nat) (m : Msg), s.Ordered → s.work c = some m →
    let job := m.src.job
    let idle := fun (t : State) => (t.core c).teller.act = none
    let told := fun (t : State) (r : PoolReq) (word st : Nat) =>
      idle t ∧ ∃ d, (⟨d, 1, ⟨c, 4, 0, r.pool.job, 0, 0⟩, .store (r.reply + BitVec.ofNat 64 (8 * word)) (bytesOf 8 st)⟩ : Msg) ∈ t.net
    -- the entry core
    (∀ op h x desc query p, m.body = .span op h x desc query →
      findPool (s.core c).entryPools job (BitVec.ofNat 16 (handlePool h)) = some p →
      let d := p.member s (seqMember p.nmem (handleSid h))
      let coins := 24 + (if op = .qry then 2 + query.length / 64 else 1) * hops c d
      coins ≤ s.purse c →
      ∃ t, exec (.spanEntryForward c) s = .next t ∧ idle t ∧ t.mem = s.mem ∧ t.purse c = s.purse c - coins ∧
        t.net = s.net ++ [⟨d, 6, m.src, .spanHome op h x desc query⟩]) ∧
    (∀ op h x desc query, m.body = .span op h x desc query →
      findPool (s.core c).entryPools job (BitVec.ofNat 16 (handlePool h)) = none →
      ∃ t, exec (.spanEntryForward c) s = .next t ∧ idle t ∧ t.mem = s.mem ∧
        t.net = s.net ++ [⟨m.src.core, 63, m.src, .deferred 0 (some ⟨causeSPAN, 1, h⟩)⟩]) ∧
    -- the sequence home
    (∀ op h x desc query p, m.body = .spanHome op h x desc query →
      findPool (s.core c).pools job (BitVec.ofNat 16 (handlePool h)) = some p → p.resizing = none → 24 ≤ s.purse c →
      let found := findSeq (s.core c) p.job p.pool (handleSid h)
      let done := fun (r : Word) (q : Seq) =>
        ∃ t, exec (.spanHomePerform c) s = .next t ∧ idle t ∧ t.mem = s.mem ∧ t.purse c = s.purse c - 24 ∧
          t.net = s.net ++ [⟨m.src.core, 63, m.src, .deferred r none⟩] ∧ findSeq (t.core c) p.job p.pool (handleSid h) = some q
      let fails := fun (sub : BitVec 8) =>
        ∃ t, exec (.spanHomePerform c) s = .next t ∧ idle t ∧ t.mem = s.mem ∧ (t.core c).seqs = (s.core c).seqs ∧
          t.net = s.net ++ [⟨m.src.core, 63, m.src, .deferred 0 (some ⟨causeSPAN, sub, h⟩)⟩]
      (op ≠ .tag → found = none → fails 1) ∧
      (∀ q, found = some q →
        (op = .len → done (BitVec.ofNat 64 (q.nextpos + q.cl * 2 ^ 23 + q.tl * 2 ^ 46)) q) ∧
        (op = .com → x.toNat ≤ q.tl → done 0 { q with cl := q.cl + x.toNat, tl := q.tl - x.toNat }) ∧
        (op = .com → q.tl < x.toNat → fails 2) ∧
        (op = .tag → x.getLsbD 30 = false → (tagOf x).2 ≠ 0xFFFF →
          done 0 { q with tag := tagOf x, openSpan := if tagOf x = q.tag then q.openSpan else none }) ∧
        (op = .app → 4096 < q.tl + x.toNat ∨ 2 ^ 22 < q.nextpos + x.toNat → fails 2) ∧
        (op = .rej → q.tl < x.toNat → fails 2)) ∧
      (op = .tag → found = none → x.getLsbD 31 = true → x.getLsbD 30 = false → (tagOf x).2 ≠ 0xFFFF →
        ((s.core c).seqs.filter (fun y => y.job == p.job && y.pool == p.pool && !y.dropped)).length < p.maxseq →
        freeSlots s p (memberOf s p c) ≠ [] →
        ∃ k ∈ freeSlots s p (memberOf s p c), done 0 ⟨p.job, p.pool, handleSid h, 0, 0, 0, tagOf x, none, [], [k], [], false⟩)) ∧
    (∀ g d bytes rest sid u, m.body = .querySend g ((d, bytes) :: rest) sid →
      s.chargeReq m.src ((1 + bytes.length / 64) * hops c d) = some u →
      ∃ t, exec (.spanHomePerform c) s = .next t ∧ t.mem = u.mem ∧ t.purses = u.purses ∧
        t.net = u.net ++ [⟨d, g, m.src, .query bytes c sid m.src⟩] ∧ (rest = [] → idle t) ∧
        (rest ≠ [] → t.work c = some { m with body := .querySend g rest sid })) ∧
    -- counts of tokens: appended, rejected, retired
    (∀ p q n q' r msgs u, doApp s c p q n = .done q' r msgs u →
      r = BitVec.ofNat 64 q.nextpos ∧ q'.nextpos = q.nextpos + n ∧ q'.tl = q.tl + n ∧ q'.cl = q.cl ∧ q'.tl ≤ 4096 ∧ q'.nextpos ≤ 2 ^ 22) ∧
    (∀ p q n q' r msgs u, doRej s c p q n = .done q' r msgs u →
      r = 0 ∧ q'.nextpos = q.nextpos - n ∧ q'.tl = q.tl - n ∧ q'.cl = q.cl ∧ u = s) ∧
    (∀ p q x q' r msgs u, doRet s c p q x false = .done q' r msgs u →
      q'.nextpos = q.nextpos ∧ q'.tl = q.tl ∧ u = s ∧ ∃ k, r = BitVec.ofNat 64 k ∧ q'.cl = q.cl - k) ∧
    (∀ p q x q' r msgs u, doRet s c p q x true = .done q' r msgs u → q'.openSpan = none ∧ q'.tl = q.tl ∧ u = s) ∧
    -- a span home
    (∀ pool slot home p e, findPool (s.core c).pools job pool = some p → 48 ≤ s.purse c →
      let writes := fun (i : Instr) (off : Nat) (bs : List Byte) =>
        let va := p.slotAddr (memberOf s p c) slot + BitVec.ofNat 64 off
        let key := vaultKey c (vaultOff e va)
        findPage (s.core c).vaultMap job (vpnOf va) = some e →
        (e.st = 1 → copyBusy (s.core c) e = false → needRow s c (vaultOff e va) = .ok none → homeBad s key bs.length .write = none →
          ∃ t, exec i s = .next t ∧ idle t ∧ t.mem = s.mem.writeBytes key bs ∧ t.purse c = s.purse c - 48) ∧
        (e.st = 2 ∨ copyBusy (s.core c) e = true →
          ∃ t, exec i s = .next t ∧ idle t ∧ t.mem = s.mem ∧ (t.core c).held = (s.core c).held ++ [{ m with body := .spanStore va bs home }])
      (∀ header, m.body = .spanOpen pool slot header home → writes (.spanOpen c) 0 header) ∧
      (∀ n, m.body = .spanCount pool slot n home → writes (.spanCountUpdate c) 0x10 [BitVec.ofNat 8 n]) ∧
      (m.body = .spanRetire pool slot home → writes (.spanRetire c) 5 [0])) ∧
    -- POOLMAKE: a member's part, and the entry core's; a core that is both gets the message twice
    (∀ r i u v, poolWork s c 1 = some (m, r) → memberNo s c r.pool (min r.pool.nmem 65536) = some i →
      (isEntry s c r = true → (s.core c).poolDue.contains (r.pool.job, r.pool.pool) = false) →
      findPool (s.core c).pools r.pool.job r.pool.pool = none → r.ok = true → r.req = 1 →
      (∀ y, entryPool s r.pool.job r.pool.pool = some y → y = r.pool) → s.spanPay c 24 r.pool.job = some v → v.mapMember r.pool i = some u →
      ∃ t, exec (.poolmake c) s = .next t ∧ told t r (i + 1) 0 ∧ t.mem = u.mem ∧ t.purse c = s.purse c - 24 ∧
        findPool (t.core c).pools r.pool.job r.pool.pool = some r.pool) ∧
    (∀ r, poolWork s c 1 = some (m, r) → isEntry s c r = true → 24 ≤ s.purse c →
      (memberNo s c r.pool (min r.pool.nmem 65536) = none ∨ (s.core c).poolDue.contains (r.pool.job, r.pool.pool) = true) →
      (findPool (s.core c).entryPools r.pool.job r.pool.pool = none → r.ok = true → r.req = 1 →
        ∃ t, exec (.poolmake c) s = .next t ∧ told t r 0 0 ∧ t.mem = s.mem ∧
          findPool (t.core c).entryPools r.pool.job r.pool.pool = some r.pool) ∧
      (∀ y, findPool (s.core c).entryPools r.pool.job r.pool.pool = some y → r.req = 1 →
        ∃ t, exec (.poolmake c) s = .next t ∧ told t r 0 2 ∧ t.mem = s.mem ∧ (t.core c).entryPools = (s.core c).entryPools)) ∧
    -- POOLSIZE: the entry core's first and last step, and a member's part
    (∀ r p u, poolWork s c 2 = some (m, r) → isEntry s c r = true → findPool (s.core c).entryPools r.pool.job r.pool.pool = some p →
      p.owed = [] →
      (p.resizing = none → r.ok = true →
        s.mapMembers p ((List.range r.pool.nmem).filter (fun i => p.nmem ≤ i)) = some u →
        ∃ t, exec (.poolsize c) s = .next t ∧ idle t ∧ (⟨c, m.handler, m.src, m.body⟩ : Msg) ∈ t.net ∧
          findPool (t.core c).entryPools r.pool.job r.pool.pool = some { p with resizing := some (r.pool.nmem, r.reply) }) ∧
      (let n := r.pool.nmem
       p.resizing = some (n, r.reply) → (poolSeqs s p n).any (fun x => !x.2.pend.isEmpty) = false → resizeFits s p n = true →
        seqToMove s p n = none → spansToMove s p n = [] → spansComing s p = false → 24 ≤ s.purse c →
        ∃ t, exec (.poolsize c) s = .next t ∧ told t r 0 0 ∧
          findPool (t.core c).entryPools r.pool.job r.pool.pool = some { p with
            nmem := n, resizing := none, moveTo := none, owed := (List.range (max p.nmem n)).map (fun i => (i, 0, r.reply)) }) ∧
      (∀ q, p.resizing = some q → q ≠ (r.pool.nmem, r.reply) →
        ∃ t, exec (.poolsize c) s = .next t ∧ idle t ∧ t.net = s.net ++ [⟨c, m.handler, m.src, m.body⟩] ∧ t.mem = s.mem ∧
          (t.core c).entryPools = (s.core c).entryPools)) ∧
    (∀ r p i x, poolWork s c 2 = some (m, r) → entryPool s r.pool.job r.pool.pool = some p → memberNo s c r.pool 65536 = some i →
      p.owed.find? (fun x => x.1 == i && x.2.2 == r.reply) = some x → 24 ≤ s.purse c →
      ∃ t, exec (.poolsize c) s = .next t ∧ told t r (i + 1) x.2.1 ∧ t.mem = s.mem) ∧
    -- POOLFREE: a member's part, and the entry core's
    (∀ r p, poolWork s c 3 = some (m, r) → findPool (s.core c).pools r.pool.job r.pool.pool = some p → 24 ≤ s.purse c →
      ∃ t, exec (.poolfree c) s = .next t ∧ told t r (memberOf s p c + 1) 0 ∧ t.mem = s.mem ∧
        findPool (t.core c).pools r.pool.job r.pool.pool = none ∧ ∀ y ∈ (t.core c).seqs, ¬(y.job = p.job ∧ y.pool = p.pool)) ∧
    (∀ r, poolWork s c 3 = some (m, r) → findPool (s.core c).pools r.pool.job r.pool.pool = none → isEntry s c r = true → 24 ≤ s.purse c →
      (∀ p, findPool (s.core c).entryPools r.pool.job r.pool.pool = some p →
        ∃ t, exec (.poolfree c) s = .next t ∧ told t r 0 0 ∧ t.mem = s.mem ∧
          findPool (t.core c).entryPools r.pool.job r.pool.pool = none) ∧
      (findPool (s.core c).entryPools r.pool.job r.pool.pool = none →
        ∃ t, exec (.poolfree c) s = .next t ∧ told t r 0 1 ∧ t.mem = s.mem))

/-! ### Row steps and the matrix unit at work (06_memory_messages.md, 07_matrix_spans_work.md) -/

/-- R165, R166, R203 to R209, R241 to R243 and R294: a row step of a tile instruction is requested, then writes its row and moves its three
registers on, or traps at an uncorrectable beat; a TLDL waits for the matrix commands before it; a bank's held row opens or closes; and the
MTX performs its head command when the octet's round grants it. When the coins of a step are drawn, and that an MST leaves out a row that meets
an uncorrectable line which it does not write whole, are the model's readings (log entries 23 and 71). A trace record of the 4 096th
instruction (R459) is shut out. -/
def Obligations.TileAndMatrixSteps : Prop :=
  ∀ (s : State) (c : Nat) (i : Fin 4), s.Ordered →
    let u : State := { s with curCore := c, curWho := .slot i }
    (∀ tl, (s.slotAt c i).tile = some tl → tl.waits = true → latchTaken (s.core c) = true → exec (.tileRowStep c i) s = .next s) ∧
    (∀ tl key coins, (s.slotAt c i).tile = some tl → tl.waits = false → tl.fail = none → mayRequest u tl = true →
      rowGo u tl = .go key coins none → rowWatched u tl = false → s.slotCanPay c i coins = true →
      ∃ t, exec (.tileRowStep c i) s = .next t ∧ t.curCore = s.curCore ∧ t.curWho = s.curWho ∧ t.mem = s.mem ∧
        t.purse c = s.purse c - coins ∧ (t.slotAt c i).ctx = (s.slotAt c i).ctx ∧
        (t.slotAt c i).tile = some { tl with
          first := false, hot := false
          data := tl.data ++ [⟨nextRow u.slot tl, key, rowData u tl key, coins, tl.kind != 2 && s.bad.contains key⟩] }) ∧
    (∀ tl r rest key, (s.slotAt c i).tile = some tl → tl.data = r :: rest → r.bad = false → (s.slotAt c i).rpt = none →
      (tl.kind = 0 → (u.g tl.d).toNat + 64 ≤ 0x20000 ∧ key = tillKey c (u.g tl.d).toNat) →
      (tl.kind = 1 → key = latchKey c (u.g tl.d).toNat) →
      (tl.kind = 2 → key = r.key) →
      let n := stepsLeft u.slot tl - 1
      (n = 0 → (s.core c).dbgMod.trSlots.getLsbD i.val = false) →
      let x := (((u.setG tl.d (u.g tl.d + 64)).setG tl.a (u.g tl.a + 64)).setG tl.b (BitVec.ofNat 64 n)).ctx
      ∃ t, exec (.tileRowWritten c i) s = .next t ∧ t.mem = s.mem.writeBytes key (rowBytes r.row) ∧ (t.slotAt c i).ctx.g = x.g ∧
        (t.slotAt c i).ctx.v = x.v ∧ t.purses = s.purses ∧
        (n ≠ 0 → (t.slotAt c i).tile = some { tl with data := rest } ∧ (t.slotAt c i).ctx.pc = x.pc) ∧
        (n = 0 → (t.slotAt c i).tile = none ∧ (t.slotAt c i).ctx.pc = x.pc + 4 ∧
          (t.slotAt c i).instret = (s.slotAt c i).instret + 1)) ∧
    (∀ tl r rest, (s.slotAt c i).tile = some tl → tl.data = r :: rest → r.bad = true → (s.slotAt c i).ctx.status.getLsbD 0 = false →
      ∃ t, exec (.tileRowWritten c i) s = .next t ∧ t.mem = s.mem ∧ (t.slotAt c i).trapcause = (0 : BitVec 8) ++ causeUNCORR ∧
        (t.slotAt c i).trapval = r.va ∧ (t.slotAt c i).trappc = (s.slotAt c i).ctx.pc ∧ (t.slotAt c i).ctx.pc = (s.slotAt c i).trapvec ∧
        (t.slotAt c i).ctx.status.getLsbD 0 = true ∧ (t.slotAt c i).ctx.g = (s.slotAt c i).ctx.g ∧
        t.purse c = min (2 ^ 20) (s.purse c + (rest.map (fun y => y.coins)).sum)) ∧
    (∀ (z : Fin 32) row rest, (s.bank c z.val).held = row :: rest → tileHolds s c z.val row = false → refreshing s c z.val = false →
      ∃ t, exec (.bankActPerform c z) s = .next t ∧ (t.bank c z.val).row = row ∧ (t.bank c z.val).held = rest ∧ t.mem = s.mem ∧
        ∀ k, k ≠ z.val → t.bank c k = s.bank c k) ∧
    -- the MTX: the head command, granted
    (∀ cmd p, s.grant c = some (i, cmd, p) →
      let k := s.core c
      let performed := fun (e : Instr) (t : State) =>
        exec e s = .next t ∧ (t.core c).mtxQ = k.mtxQ.drop 1 ∧ ∀ j, (t.slotAt c j).ctx = (s.slotAt c j).ctx
      (∀ a, cmd = .mzero a → ∃ t, performed (.mtxMzeroPerform c) t ∧ t.mem = s.mem ∧
        (t.core c).acc.get a = Vector.replicate 64 k.prog.ident ∧ ∀ b, b ≠ a → (t.core c).acc.get b = k.acc.get b) ∧
      (∀ x, cmd = .mcfg x → ∃ t, performed (.mtxMcfgPerform c) t ∧ t.mem = s.mem ∧ (t.core c).cfg = x ∧ (t.core c).acc = k.acc ∧
        (t.core c).prog = k.prog) ∧
      (∀ x, cmd = .mprog x → ∃ t, performed (.mtxMprogPerform c) t ∧ t.mem = s.mem ∧ (t.core c).prog = x ∧ (t.core c).acc = k.acc ∧
        (t.core c).cfg = k.cfg) ∧
      (∀ a at0 op, cmd = .mst a at0 op →
        let row := fun (j : Nat) => at0 + BitVec.ofNat 64 (j * k.cfg.ostride.toNat)
        (∀ j, j < 8 → (row j).toNat + outRow k.cfg ≤ 0x20000) →
        ∃ t, performed (.mtxMstPerform c) t ∧ (t.core c).acc = k.acc ∧
          t.mem = (List.range 8).foldl (fun q j =>
            if (mstBad s c at0).1.any (fun l => (row j).toNat < 64 * l + 64 && 64 * l < (row j).toNat + outRow k.cfg) then q
            else q.writeBytes (tillKey c (row j).toNat) (mstRow k.cfg (k.acc.get a) j)) s.mem) ∧
      (∀ at0 op, cmd = .mldc at0 op → s.bad = [] → at0.toNat + 1024 ≤ 0x20000 →
        ∃ t, performed (.mtxMldcPerform c) t ∧ t.mem = s.mem ∧
          ∀ (a : Fin 4) (j : Fin 64),
            ((t.core c).acc.get a).get j = BitVec.ofNat 32 (s.mem.readNat (tillKey c (at0.toNat + 256 * a.val + 4 * j.val)) 4)) ∧
      (∀ a at1 at2 sa sb n pass q scaled rec step op, cmd = .mma a at1 at2 sa sb n 0 q pass scaled rec step op → n ≠ 0 → pass = false →
        let la := (eightLines at1 k.cfg.astride.toNat step).map (mtxLine s c)
        let lb := (eightLines at2 k.cfg.bstride.toNat step).map (mtxLine s c)
        let o : KOps := ⟨k.cfg, k.prog, rec, if scaled then some (scaleBytes s c sa step, scaleBytes s c sb step) else none⟩
        ∃ t, exec (.mtxKStep c) s = .next t ∧ t.mem = s.mem ∧ (t.core c).acc.get a = o.step la lb (k.acc.get a) ∧
          (∀ b, b ≠ a → (t.core c).acc.get b = k.acc.get b) ∧ (∀ j, (t.slotAt c j).ctx = (s.slotAt c j).ctx) ∧
          (n ≤ step + 1 → (t.core c).mtxQ = k.mtxQ.drop 1) ∧
          (step + 1 < n → (t.core c).mtxQ = .mma a at1 at2 sa sb n 0 q pass scaled rec (step + 1) op :: k.mtxQ.drop 1))) ∧
    (∀ a at1 at2 sa sb src q pass scaled rec step op rest,
      (s.core c).mtxQ = .mma a at1 at2 sa sb 0 src q pass scaled rec step op :: rest → latchBusy (s.core c) = false →
      ∃ t, exec (.mtxKStep c) s = .next t ∧ (t.core c).mtxQ = rest ∧ (t.core c).acc = (s.core c).acc ∧ t.mem = s.mem)

/-! ### Energy (15_energy.md, 20_observation_replay.md) -/

/-- R388 to R393, R401 to R404, R445, R453 and R454: a tick mints by the cap over the active cores once step 5 of a boot has begun, a purse keeps at most 2^20, a heat window
empties the meters, and the ballast's steps, intervals and stop do their parts; none of them touches a register or memory. Rounding of
shares and the heat hold are the model's readings (log entries 41 and 56), and the measured current comes from outside (log entry 42). -/
def Obligations.EnergySteps : Prop :=
  ∀ (s : State), s.Inv →
    let still := fun (t : State) => t.mem = s.mem ∧ t.net = s.net ∧ ∀ c i, (t.slotAt c i).ctx = (s.slotAt c i).ctx
    let coins := s.capNext * 250000000
    let n := (activeArray s).toList.countP id
    let share := (withholding s (coins - coins * 4 / 100)).1 / max 1 n
    (s.cycle.toNat / 700 ≤ s.tick → exec .mintTick s = .next s) ∧
    (s.tick < s.cycle.toNat / 700 → s.bootStep < 4 → exec .mintTick s = .next { s with tick := s.tick + 1 }) ∧
    (s.tick < s.cycle.toNat / 700 → 4 ≤ s.bootStep →
      ∃ t, exec .mintTick s = .next t ∧ still t ∧ t.cores = s.cores ∧ t.tick = s.tick + 1 ∧ t.cap = s.capNext ∧
        (∀ c, s.isActive c = true → t.purse c ≤ 2 ^ 20) ∧
        (∀ c, c < 262144 → s.isActive c = false → t.purse c = s.purse c) ∧
        (∀ c, s.isActive c = true → s.purse c + share ≤ 2 ^ 19 →
          (∀ d x, neighbour c d = some x → s.isActive x = true → s.purse x + share ≤ 2 ^ 19) → t.purse c = s.purse c + share) ∧
        ∀ n l, launchNo s n = some l → l.waits = true →
          launchNo t n = some { l with waited := l.waited + 1, aged := max l.aged ((l.waited + 1) / 10000) }) ∧
    (s.windows < s.tick / 10 →
      ∃ t, exec .heatMeterWindow s = .next t ∧ still t ∧ t.windows = s.windows + 1 ∧ t.purses = s.purses ∧
        ∀ c, (t.core c).heat = 0 ∧ (t.core c).heatHeld = false ∧ (t.core c).slots = (s.core c).slots ∧
          (t.core c).asleep = ((s.core c).asleep && !(s.core c).heatHeld)) ∧
    (s.tick / 10 ≤ s.windows → exec .heatMeterWindow s = .next s) ∧
    (∀ o, let c := octetCore o 0
      let p := Tab.get s.plates (plateOf c) Plate.reset
      s.mtxBad.contains o = false → cellForced s c = false → nextGrant s o = none → s.ballastOff = false → 0 < p.floor →
      ∃ t, exec (.ballastKStep o) s = .next t ∧ still t ∧ t.purses = s.purses ∧ t.housekeeping = s.housekeeping + 120 ∧
        Tab.get t.plates (plateOf c) Plate.reset = { p with pool := p.pool - 120, ballast := p.ballast + 120 }) ∧
    (∀ (p : Fin 256) current power,
      let x := Tab.get s.plates p.val Plate.reset
      ∃ t, exec (.ballastInterval p current power) s = .next t ∧ still t ∧ t.purses = s.purses ∧ t.power = power ∧
        (Tab.get t.plates p.val Plate.reset).floor = (current : Int) - 16000 ∧
        (p.val ≠ 255 → Tab.get t.plates p.val Plate.reset = { x with floor := (current : Int) - 16000 }) ∧
        ((current : Int) < x.floor → s.ballastOff = false → t.portA.events.length = s.portA.events.length + 1)) ∧
    (200 ≤ s.overspends → s.ballastOff = false →
      ∃ t, exec .ballastStop s = .next t ∧ still t ∧ t.ballastOff = true ∧ t.purses = s.purses ∧
        t.portA.events.length = s.portA.events.length + 1) ∧
    (s.overspends < 200 → exec .ballastStop s = .next s) ∧
    (s.cadDue = true →
      ∃ t, exec .cadencePulse s = .next t ∧ still t ∧ t.cadDue = false ∧ t.cadCount = s.cadCount + 1 ∧ t.cores = s.cores ∧
        (s.portA.cadence = [] → s.portB.cadence = [] → ∃ r, t.portA.cadence = [r] ∧ t.portB.cadence = [r]) ∧
        (s.portA.cadence ≠ [] → t.portA.cadence = s.portA.cadence ∧ t.portB.cadence = s.portB.cadence)) ∧
    (s.cadDue = false → exec .cadencePulse s = .next s)

/-! ### Repair and harvest (18_repair_harvest.md) -/

/-- R244, R425 to R427, R430, R431, R433, R437, R438 and R442: refresh, the sensors' readings, the scrubs, a row's repair and a lane's
steering: what each changes in its bank, its core or the cell's state, and which records it sends to the hubs. The schedule of refresh and
the costs of scrubbing are the model's readings (log entries 46 and 47). -/
def Obligations.RefreshSensorsScrub : Prop :=
  ∀ (s : State) (c : Nat) (z : Fin 32),
    let b := s.bank c z.val
    let k := s.core c
    let pool := (Tab.get s.plates (plateOf c) Plate.reset).pool
    let still := fun (t : State) => t.mem = s.mem ∧ t.net = s.net ∧ ∀ d i, t.slotAt d i = s.slotAt d i
    let told := fun (t : State) => t.portA.events.length = s.portA.events.length + 1 ∧ t.portB.events.length = s.portB.events.length + 1
    (refreshing s c z.val = true → b.row ≠ none → b.refresh = false →
      ∃ t, exec (.refresh c z) s = .next t ∧ still t ∧ t.bank c z.val = { b with refresh := true } ∧
        ∀ j, j ≠ z.val → t.bank c j = s.bank c j) ∧
    (refreshing s c z.val = false ∨ b.row = none ∨ b.refresh = true → exec (.refresh c z) s = .next s) ∧
    (refreshing s c z.val = true ∨ b.refresh = false → exec (.refreshEnd c z) s = .next s) ∧
    (b.refresh = true → refreshing s c z.val = false →
      ∃ t, exec (.refreshEnd c z) s = .next t ∧ still t ∧ t.bank c z.val = { b with refresh := false } ∧
        (b.row ≠ none → t.housekeeping = s.housekeeping + 250) ∧ (b.row = none → t.housekeeping = s.housekeeping)) ∧
    (∀ (layer : Fin 8) (row col : Fin 64) (x : BitVec 16),
      let key := cellKey layer.val row.val col.val
      (s.badSensors.contains key = false →
        ∃ t, exec (.sensorConversion layer row col x) s = .next t ∧ reading t key = x.toInt ∧
          (920 ≤ x.toInt → t.forced.contains (cellKey 0 row.val col.val) = true) ∧
          (bandOf (reading s key) = bandOf x.toInt → s.forced.contains (cellKey 0 row.val col.val) = false →
            (∀ l, l < 8 → l ≠ layer.val → reading s (cellKey l row.val col.val) < 920) → x.toInt < 920 →
            t.cores = s.cores ∧ t.portA = s.portA ∧ t.mem = s.mem)) ∧
      (s.badSensors.contains key = true → exec (.sensorConversion layer row col x) s = .next s ∧ exec (.sensorFail layer row col) s = .next s) ∧
      (s.badSensors.contains key = false →
        ∃ t, exec (.sensorFail layer row col) s = .next t ∧ reading t key = 1000 ∧ t.badSensors.contains key = true ∧
          s.portA.events.length < t.portA.events.length)) ∧
    (k.scrubVault < 8192 → k.scrubVault % 32 = z.val → b.row = none → b.spoke ≠ 2 → refreshing s c z.val = false →
      b.awaiting.contains (rowOfOff (scrubOff k.scrubVault)) = false → s.bad = [] → s.weak = [] → 250 + 32 * 40 ≤ pool →
      ∃ t, exec (.scrubVaultStep c) s = .next t ∧ still t ∧ (t.core c).scrubVault = (k.scrubVault + 1) % 8192 ∧
        (Tab.get t.plates (plateOf c) Plate.reset).pool = pool - (250 + 32 * 40) ∧
        (k.scrubVault = 8191 → (t.core c).cecnt = min 255 k.passCorr ∧ (t.core c).passCorr = 0) ∧
        (k.scrubVault < 8191 → (t.core c).cecnt = k.cecnt)) ∧
    (∀ p ∈ [(Instr.scrubTillLine c, tillKey c (64 * k.scrubTill), k.scrubTill, 2048),
            (.scrubPstoreLine c, storeKey c (64 * k.scrubStore), k.scrubStore, 512)],
      let coins : Int := if (Tab.find s.weak p.2.1).isSome && !s.bad.contains p.2.1 then 8 else 4
      p.2.2.1 < p.2.2.2 →
      (pool < coins → exec p.1 s = .next s) ∧
      (coins ≤ pool → ∃ t, exec p.1 s = .next t ∧ still t ∧ (Tab.get t.plates (plateOf c) Plate.reset).pool = pool - coins ∧
        (s.bad.contains p.2.1 = true → told t ∧ t.weak = s.weak) ∧
        (s.bad.contains p.2.1 = false → (Tab.find s.weak p.2.1).isSome = true →
          Tab.find t.weak p.2.1 = none ∧ (t.core c).passCorr = k.passCorr + 1 ∧ t.portA = s.portA) ∧
        (s.bad.contains p.2.1 = false → (Tab.find s.weak p.2.1).isSome = false → t.weak = s.weak ∧ t.portA = s.portA)) ∧
      (8 ≤ pool → ∃ t, exec (.scrubTillLine c) s = .next t ∧ (t.core c).scrubTill = (k.scrubTill + 1) % 2048) ∧
      (8 ≤ pool → ∃ t, exec (.scrubPstoreLine c) s = .next t ∧ (t.core c).scrubStore = (k.scrubStore + 1) % 512)) ∧
    (∀ row rest, b.awaiting = row :: rest → bankBusy s c z.val = false → b.sparesUsed < 8 →
      ∃ t, exec (.rowRepair c z) s = .next t ∧ still t ∧ told t ∧ (t.bank c z.val).awaiting = rest ∧
        (t.bank c z.val).sparesUsed = b.sparesUsed + 1 ∧ (t.bank c z.val).row = b.row) ∧
    (∀ (g : Fin 9), b.spoke = 0 → b.lanes.length < 2 → 3 ≤ (b.laneHits.filter (fun x => x == g.val)).length →
      ∃ t, exec (.laneSteer c z g) s = .next t ∧ still t ∧ (t.bank c z.val).lanes = b.lanes ++ [g] ∧
        (t.bank c z.val).steerEnd = s.cycle.toNat + 200 ∧ ((t.bank c z.val).spoke = if b.lanes.length = 1 then 1 else 0)) ∧
    (k.corr ≠ 0 → (∀ n, k.corrTick = some n → n + 100000 ≤ s.tick) →
      ∃ t, exec (.corrReport c) s = .next t ∧ still t ∧ told t ∧ (t.core c).corr = 0 ∧ (t.core c).corrTick = some s.tick) ∧
    (k.corr = 0 → exec (.corrReport c) s = .next s)

/-- R422, R429, R432, R434 to R436 and R439 to R441: frames and spokes that go out of service, a program store line written again from its
backup, and the loss of a core. The steps of a withdrawal and what a loss discards are the model's readings (log entries 48 and 50). -/
def Obligations.FramesAndCoresGo : Prop :=
  ∀ (s : State) (c : Nat) (z : Fin 32), s.Ordered →
    let b := s.bank c z.val
    (∀ row rest, b.awaiting = row :: rest → 8 ≤ b.sparesUsed → b.spoke = 0 →
      (z.val = 31 → ∃ t, exec (.frameWithdraw c z) s = .next t ∧ (t.bank c z.val).spoke = 1 ∧ t.mem = s.mem ∧
        t.portA.events.length = s.portA.events.length + 1) ∧
      (let frame := fun (r : BitVec 8) => 8 * z.val + r.toNat / 32
       z.val ≠ 31 → frameUsed s c (frame row) = false →
        ∃ t, exec (.frameWithdraw c z) s = .next t ∧ (t.bank c z.val).awaiting = b.awaiting.filter (fun r => frame r != frame row) ∧
          row ∈ (t.bank c z.val).withdrawn ∧ t.mem = s.mem ∧
          t.portA.events.length = s.portA.events.length +
            (if b.withdrawn.any (fun r => frame r == frame row && !b.awaiting.contains r) then 0 else 1))) ∧
    (∀ p f fs, b.spoke = 1 → nextMove s c (bankFrames z.val) = some p → freeFrames s c p.large = f :: fs →
      ∃ t, exec (.frameEvacuate c z) s = .next t ∧
        t.mem = s.mem.copy (vaultKey c (frameOff p.frame)) (vaultKey c (frameOff f)) (pageSize p.large) ∧
        ∀ x ∈ sharers s c p.large p.frame, clearsHere s x.1 = true → ∃ e, pageEntry t x.1 x.2 = some e ∧ e.frame = f) ∧
    (b.spoke = 1 → (∀ f ∈ bankFrames z.val, frameUsed s c f = false) →
      ∃ t, exec (.spokeRetired c z) s = .next t ∧ (t.bank c z.val).spoke = 2 ∧ t.mem = s.mem ∧
        t.portA.events.length = s.portA.events.length + 1) ∧
    (∀ (line : Fin 512),
      let key := storeKey c (64 * line.val)
      let backup := vaultKey c (0xFC8000 + 64 * line.val)
      (s.bad.contains key = true → (fetchLines s c).contains line.val = true →
        ∃ t, exec (.pstoreLineRewrite c line) s = .next t ∧ s.portA.events.length < t.portA.events.length ∧
          (s.bad.contains backup = false → t.mem = s.mem.copy backup key 64 ∧ t.bad.contains key = false) ∧
          (s.bad.contains backup = true → t.isActive c = false)) ∧
      (s.bad.contains key = false ∨ (fetchLines s c).contains line.val = false → exec (.pstoreLineRewrite c line) s = .next s)) ∧
    (s.isActive c = true →
      (∃ t, exec (.coreLoss c false) s = .next t ∧ t.isActive c = false ∧ s.portA.events.length < t.portA.events.length ∧
        ∀ d, spareOf s c = some d → (t.core d).standIn = some (s.coreNo c)) ∧
      ((s.bank c 31).spoke = 2 → nextMove s c (List.range 252) = none → (∀ f, f < 252 → frameUsed s c f = false) →
        holdsUnit (s.core c) = false → (s.core c).parked = [] → (s.core c).saveSet = [] →
        ∃ t, exec (.coreLoss c true) s = .next t ∧ t.isActive c = false)) ∧
    ((Tab.get s.plates (plateOf c) Plate.reset).pool < (Config.testCoins : Int) → ∀ ok, exec (.inFieldTest c ok) s = .next s) ∧
    ((Config.testCoins : Int) ≤ (Tab.get s.plates (plateOf c) Plate.reset).pool →
      exec (.inFieldTest c true) s = .next (s.housePay c Config.testCoins) ∧
      exec (.inFieldTest c false) s = exec (.coreLoss c false) (s.housePay c Config.testCoins)) ∧
    (∀ x y, ∃ t, exec (.routerFail x y) s = .next t ∧ t.meshStopped = true ∧ t.mem = s.mem ∧ t.cores = s.cores ∧
      t.portA.events.length = s.portA.events.length + 1)

/-! ### Bringing the module up (19_boot.md) -/

/-- R2, R14, R36, R420 to R424, R441 and R443 to R450 and R478: the steps of Table 19.1, the discovery of a plate, and its boot kernel's
run. What a boot's tests find in the vaults and the routers is a constant without a body (log entry 69). An image is good as R465 says; a step that finds one that is not keeps the cause in both ports and ends. Details of the boot's order
are the model's readings (log entry 51), and the release's images are constants without a body (log entry 61); which images a hub's ROM
takes and what one hub's failure does is log entry 73. -/
def Obligations.BootSteps : Prop :=
  (∀ (s : State) (failed mtx : List Nat) (far : List (Nat × Nat)),
    (s.powered = false →
      (∃ t, exec .powerUp s = .next t ∧ t.powered = true ∧ t.bootStep = 0 ∧ t.mem = [] ∧ t.net = [] ∧ t.cap = 8 ∧ t.logical = false ∧
        t.storage = s.storage ∧ t.images = s.images ∧ ∀ c, t.core c = Core.reset) ∧
      exec .powerDown s = .next s) ∧
    (s.powered = true →
      (∃ t, exec .powerDown s = .next t ∧ t.powered = false ∧ t.mem = [] ∧ t.net = [] ∧ t.storage = s.storage) ∧
      (s.bootStep ≠ 1 → exec .powerUp s = .next s)) ∧
    (s.bootStopped = true → ∀ p, exec .bootFirmware s = .next s ∧ exec .bootPlates s = .next s ∧ exec (.bootColumns failed mtx) s = .next s ∧
      exec (.discoveryWave p) s = .next s ∧ exec (.plateBoot p) s = .next s ∧ exec .bootNumbering s = .next s ∧ exec (.bootRim far) s = .next s ∧
      exec .bootRuntime s = .next s) ∧
    (s.powered = true → s.bootStopped = false →
      (s.bootStep = 1 → exec .powerUp s = .next { s with bootStep := 2 }) ∧
      (s.bootStep = 0 →
        let image := fun (kind : Nat) => (Tab.find s.staged kind).getD ((Tab.find s.images kind).getD (Config.factoryImage kind))
        let good := fun (kind : Nat) => imageGood (image kind) && imageGood (image 1) && imageGood (image 0)
        let goes := good 2 || good 3
        ∃ t, exec .bootFirmware s = .next t ∧ t.portA.firmwareOk = good 2 ∧ t.portB.firmwareOk = good 3 ∧
          t.bootStep = (if goes then 1 else 0) ∧ t.bootStopped = !goes ∧ t.boots = (if goes then s.boots + 1 else s.boots) ∧
          t.staged = (if goes then [] else s.staged) ∧ (goes = true → ∀ kind, kind < 4 → t.image kind = image kind) ∧
          t.portA.bootLog = s.portA.bootLog ++ (if good 2 && good 3 then [] else [1]) ∧ t.cores = s.cores ∧ t.mem = s.mem) ∧
      (s.bootStep = 2 → exec .bootPlates s = .next
        { s with bootStep := 3, plates := [], plateHub := if s.portA.firmwareOk then .a else .b }) ∧
      (s.bootStep = 3 →
        ∃ t, exec (.bootColumns failed mtx) s = .next t ∧
          ((∃ c ∈ Config.bootRouters s.boots, c < 262144) →
            t.bootStep = 3 ∧ t.bootStopped = true ∧ t.cores = s.cores ∧ t.mem = s.mem ∧
            s.portA.events.length < t.portA.events.length ∧ t.portA.bootLog = s.portA.bootLog ++ [4]) ∧
          ((∀ c ∈ Config.bootRouters s.boots, 262144 ≤ c) →
            t.bootStep = 4 ∧ t.lost = [] ∧ t.cycle = 0 ∧ t.tick = 0 ∧
            (∀ c, { t.core c with banks := [] } = { Core.reset with banks := [] }) ∧
            (∀ c z, t.bank c z = Bank.reset ∨ ∃ rows lanes, (c, z, rows, lanes) ∈ Config.bootFound s.boots ∧
              t.bank c z = bootBank rows.eraseDups lanes.eraseDups) ∧
            (∀ c, t.isActive c = true → c < 262144 ∧ s.fused.contains c = false ∧ failed.contains c = false ∧ s.lost.contains c = false ∧
              vaultFails (t.core c) = false) ∧
            (∀ c, c < 262144 → s.fused.contains c = false → failed.contains c = false → s.lost.contains c = false →
              (∀ x ∈ Config.bootFound s.boots, x.1 ≠ c) → t.isActive c = true) ∧
            ∀ o ∈ mtx, o < 32768 → o ∈ t.mtxBad)) ∧
      (s.bootStep = 4 →
        ((∀ p, p < 256 → (s.plate p).bootStage = 3) →
          exec .bootNumbering s = .next { s with bootStep := 6, logical := true, ncores := activeCount s }) ∧
        (∀ p, p < 256 → (s.plate p).bootStage ≠ 3 → exec .bootNumbering s = .next s)) ∧
      (s.bootStep = 6 →
        let r := s.rimNext.getD (s.modNo, s.routes, s.linkKey)
        ∃ t, exec (.bootRim far) s = .next t ∧ t.bootStep = 7 ∧ t.modNo = r.1 ∧ t.routes = r.2.1 ∧ t.linkKey = r.2.2 ∧
          t.rimNext = none ∧ t.mem = s.mem ∧ t.cores = s.cores ∧
          (∀ (l : Fin 16) m, far.find? (fun x => x.1 == l.val) = some (l.val, m) → m ≠ r.1.toNat → m < 256 →
            r.2.1.find? (fun x => x.1 == m) = some (m, l.val) →
            (t.links.get l).up = true ∧ (t.links.get l).far = some (BitVec.ofNat 8 m)) ∧
          ∀ l : Fin 16, far.find? (fun x => x.1 == l.val) = none → (t.links.get l).up = false) ∧
      (s.bootStep = 7 →
        let low := decide (activeCount s < Config.orderedCores) || decide (32768 - s.mtxBad.length < Config.orderedMtx)
        ∃ t, exec .bootRuntime s = .next t ∧ t.bootStep = 8 ∧ t.mapGen = (if low then 1 else 0) ∧ t.mem = s.mem ∧ t.cores = s.cores ∧
          (∀ i : Fin 32, t.sems.get i = ⟨0, none, 0⟩) ∧
          t.portA.events.length = s.portA.events.length + (if low then 1 else 0) ∧
          t.portB.events.length = s.portB.events.length + (if low then 1 else 0)))) ∧
  ∀ (s : State) (p : Fin 256), s.powered = true → s.bootStopped = false → s.bootStep = 4 →
    let x := s.plate p.val
    (x.bootStage = 0 → seedOf s p.val = none →
      ∃ t, exec (.discoveryWave p) s = .next t ∧ (t.plate p.val).bootStage = 3 ∧ t.mem = s.mem ∧ t.cores = s.cores) ∧
    (∀ seed, seedOf s p.val = some seed →
      (x.bootStage = 0 → (s.core seed).tree = none →
        ∃ t, exec (.discoveryWave p) s = .next t ∧ (t.core seed).tree = some (0, none, 0) ∧ t.mem = s.mem ∧ t.plates = s.plates ∧
          (x.bootRuns = 0 → ∀ c, plateOf c = p.val → s.isActive c = true → t.purse c = 2 ^ 20) ∧
          (x.bootRuns ≠ 0 → t.purses = s.purses) ∧ ∀ c, c ≠ seed → t.core c = s.core c) ∧
      (x.bootStage = 0 → (s.core seed).tree ≠ none →
        let new := fun (c : Nat) => plateOf c == p.val && s.isActive c && (s.core c).tree.isNone && (parentIn s x.wave c).isSome
        let wrong := fun (c : Nat) => new c && (parentIn s x.wave c).any (fun d => wrongPlace s c d)
        ((∃ c, new c = true) →
          ∃ t, exec (.discoveryWave p) s = .next t ∧ t.mem = s.mem ∧ t.bootStep = 4 ∧
            ((∃ c, wrong c = true) → t.bootStopped = true ∧ t.cores = s.cores ∧
              s.portA.events.length < t.portA.events.length ∧ t.portA.bootLog = s.portA.bootLog ++ [5]) ∧
            ((∀ c, wrong c = false) → (t.plate p.val).wave = x.wave + 1 ∧ (t.plate p.val).bootStage = 0 ∧
              (∀ c d, new c = true → parentIn s x.wave c = some d → (t.core c).tree = some (x.wave + 1, some d, 0)) ∧
              ∀ c, new c = false → t.core c = s.core c)) ∧
        ((∀ c, new c = false) →
          ∃ t, exec (.discoveryWave p) s = .next t ∧ (t.plate p.val).bootStage = 1 ∧
            ∀ c, plateOf c = p.val → t.isActive c = (s.isActive c && (s.core c).tree.isSome))) ∧
      (x.bootStage = 1 →
        ∃ t, exec (.plateBoot p) s = .next t ∧ (t.plate p.val).bootStage = 2 ∧
          t.slotAt seed 0 = { Slot.reset with phase := .run, origin := s.coreId seed, since := s.cycle.toNat } ∧
          t.purses = s.purses ∧ ∀ c, plateOf c = p.val → (s.core c).tree.isSome = true →
            Tab.find (t.core c).handlers 16 = some ⟨0, true, 0x5000⟩ ∧
            Tab.find (t.core c).handlers 17 = some ⟨0, true, 0x5000 + 4 * BitVec.ofNat 15 bootImg.length⟩) ∧
      (x.bootStage = 2 →
        ((s.slotAt seed 0).phase = .empty →
          ∃ t, exec (.bootImageInstall p) s = .next t ∧ (t.plate p.val).bootStage = 3 ∧
            ∀ c, plateOf c = p.val → (s.core c).tree.isSome = true →
              (t.core c).image = some (s.mem.readBytes (tillKey c stageAt) 16384) ∧
              Tab.find (t.core c).handlers 16 = none ∧ Tab.find (t.core c).handlers 17 = none) ∧
        ((s.slotAt seed 0).phase ≠ .empty →
          exec (.bootImageInstall p) s = .next s ∧
          (s.cycle.toNat - (s.slotAt seed 0).since < 35000000 → exec (.bootTimeout p) s = .next s) ∧
          (35000000 ≤ s.cycle.toNat - (s.slotAt seed 0).since →
            ∃ t, exec (.bootTimeout p) s = .next t ∧ (t.plate p.val).bootRuns = x.bootRuns + 1 ∧ t.mem = s.mem ∧
              (∀ c, plateOf c = p.val → t.core c = { Core.reset with banks := (s.core c).banks }) ∧
              (x.bootRuns < 2 → (t.plate p.val).bootStage = 0 ∧ (t.plate p.val).wave = 0 ∧
                ∀ c, plateOf c = p.val → t.isActive c = (s.isActive c && !absent s seed c)) ∧
              (2 ≤ x.bootRuns → (t.plate p.val).bootStage = 3 ∧ ∀ c, plateOf c = p.val → t.isActive c = false)))))

/-! ### Management (21_interfaces.md) -/

/-- R423, R453, R454, R466, R474, R475, R483 and Table 21.3: the messages that read, arm and tell. A reply is the header with version 1
and the message's code, and a body; the body's layout is the model's (log entry 9), and so are the coolant's outlet, a free value, and the
empty answer to a message that is refused. -/
def Obligations.ManagementReads : Prop :=
  ∀ (s : State) (h : Hub),
    let replies := fun (t : State) (code : Nat) (content : List Byte) =>
      (t.port h).mgmt = (s.port h).mgmt ++
        [bytesOf 2 1 ++ bytesOf 2 code ++ bytesOf 4 (Config.mgmtBody code content).length ++ Config.mgmtBody code content]
    let still := fun (t : State) => t.mem = s.mem ∧ t.cores = s.cores ∧ t.net = s.net ∧ t.dist = s.dist
    (∃ t, exec (.hello h) s = .next t ∧ still t ∧
      replies t 1 (bytesOf 2 1 ++ Config.serial ++ [1, 1] ++ bytesOf 1 s.modNo.toNat ++ bytesOf 1 (s.port h).rootPort.toNat)) ∧
    (∀ off len : Nat,
      (8 ≤ s.bootStep → off + len ≤ 0x400040 →
        ∃ t, exec (.mapread h off len) s = .next t ∧ still t ∧ replies t 2 (0 :: (List.range len).map (fun i => mapByte s (off + i)))) ∧
      (s.bootStep < 8 ∨ 0x400040 < off + len → ∃ t, exec (.mapread h off len) s = .next t ∧ still t ∧ replies t 2 [1])) ∧
    (∃ t, exec (.events h) s = .next t ∧ still t ∧ replies t 3 ((s.port h).events.flatMap hubRecBytes) ∧ (t.port h).events = []) ∧
    (∀ period : Nat,
      (2 ^ 20 < period → ∃ t, exec (.cadence h period) s = .next t ∧ still t ∧ replies t 4 [1] ∧ t.cadPeriod = s.cadPeriod) ∧
      (period ≤ 2 ^ 20 →
        ∃ t, exec (.cadence h period) s = .next t ∧ still t ∧ replies t 4 (s.port h).cadence.flatten ∧ (t.port h).cadence = [] ∧
          t.cadPeriod = (if period = 0 then s.cadPeriod else period) ∧ t.cadOnce = (s.cadOnce || decide (period = 0)))) ∧
    (∀ c off : Nat, ∃ t, exec (.dbgread h c off) s = .next t ∧ still t ∧ replies t 5 (bytesOf 8 (debugRead s c off).toNat)) ∧
    (∀ (nonce : BitVec 256) (job : Nat),
      ∃ t content, exec (.attest h nonce job) s = .next t ∧ still t ∧ replies t 11 content ∧ content.take 32 = bytesOf 32 nonce.toNat) ∧
    (∃ t x, exec (.coolant h) s = .next t ∧ still t ∧ replies t 18 (bytesOf 8 s.coolant.2 ++ bytesOf 8 x ++ bytesOf 8 s.coolant.1)) ∧
    ∀ flow inlet : Nat,
      let ok := decide (48 ≤ flow) && decide (inlet ≤ 45)
      let first := s.coolantLow && !s.coolantBack
      let begins := ({ s with coolant := (flow, inlet), coolantTick := s.tick, coolantBack := true } : State)
      (ok = true → exec (.coolantFault flow inlet) s = .next (if first then begins else { s with coolant := (flow, inlet) })) ∧
      (ok = false →
        ∃ t, exec (.coolantFault flow inlet) s = .next t ∧ still t ∧ t.coolantLow = true ∧ t.coolantBack = false ∧ t.capNext = 8 ∧
          t.cap = s.cap ∧ t.portA.events.length = s.portA.events.length + (if s.coolantLow then 0 else 1)) ∧
      (ok = true → s.coolantLow = true → s.coolantBack = true → s.coolantTick + 1000000 ≤ s.tick →
        exec (.coolantRecover flow inlet) s =
          .next { s with coolant := (flow, inlet), coolantLow := false, coolantBack := false, capNext := s.capSet }) ∧
      (ok = true → first = true → exec (.coolantRecover flow inlet) s = .next begins) ∧
      (ok = true → s.coolantLow = true → s.coolantBack = true → s.tick < s.coolantTick + 1000000 →
        exec (.coolantRecover flow inlet) s = .next { s with coolant := (flow, inlet) }) ∧
      (ok = false ∨ s.coolantLow = false → exec (.coolantRecover flow inlet) s = .next s)

/-- R460, R461, R463 to R465, R467, R475, R478 and R482: recording, the log's drain, checkpoint and restart, key slots, configuration,
firmware and reset. The bytes of a reply's body and its contents are the model's (log entries 9 and 55). -/
def Obligations.ManagementChanges : Prop :=
  ∀ (s : State) (h : Hub),
    let replies := fun (t : State) (code : Nat) (content : List Byte) =>
      (t.port h).mgmt = (s.port h).mgmt ++
        [bytesOf 2 1 ++ bytesOf 2 code ++ bytesOf 4 (Config.mgmtBody code content).length ++ Config.mgmtBody code content]
    let refused := fun (i : Instr) (code : Nat) =>
      ∃ t, exec i s = .next t ∧ replies t code [1] ∧ t.mem = s.mem ∧ t.cores = s.cores ∧ t.dist = s.dist ∧ t.storage = s.storage
    (∀ (job : Nat) (on stall : Bool),
      (jobOf s (BitVec.ofNat 24 job) = none → refused (.record h job on stall) 7) ∧
      (∀ j, jobOf s (BitVec.ofNat 24 job) = some j →
        ∃ t, exec (.record h job on stall) s = .next t ∧ replies t 7 [0] ∧ (on = false → t.mem = s.mem ∧ t.cores = s.cores) ∧
          jobOf t (BitVec.ofNat 24 job) = some { j with recording := on, stall := stall } ∧
          ∀ n, n ≠ BitVec.ofNat 24 job → jobOf t n = jobOf s n)) ∧
    (∀ c r : Nat,
      ((s.core c).logPage.bind (ownPage s c) = none → refused (.logdrain h c r) 8) ∧
      (r < 0x40 ∨ 0x10000 ≤ r → refused (.logdrain h c r) 8) ∧
      (∀ key, (s.core c).logPage.bind (ownPage s c) = some key → 0x40 ≤ r → r < 0x10000 →
        (∃ t, exec (.logdrain h c r) s = .next t ∧ replies t 8 (s.mem.readBytes key 65536)) ∧
        ((s.core c).logPend = [] → (s.core c).logMarked = false →
          ∃ t, exec (.logdrain h c r) s = .next t ∧ t.mem.readNat (key + 8) 8 = r ∧
            ∀ k, k < key + 8 ∨ key + 16 ≤ k → t.mem.read k = s.mem.read k))) ∧
    (∀ job : Nat,
      (jobOf s (BitVec.ofNat 24 job) = none → refused (.checkpoint h job) 9) ∧
      (∀ j, jobOf s (BitVec.ofNat 24 job) = some j →
        let ps := jobPages s j.num
        (jobLive s j = true → refused (.checkpoint h job) 9) ∧
        (∀ p ∈ ps, keyUsable s p.key j.num = false → refused (.checkpoint h job) 9) ∧
        (jobLive s j = false → s.bad = [] → s.weak = [] →
          (∀ p ∈ ps, keyUsable s p.key j.num = true ∧ (entryHome s p).isSome = true ∧ busy (some p) = false ∧
            (s.keys.get p.key.toFin).ctr.toNat + ps.length < 2 ^ 80 - 1) →
          ∃ t n m, exec (.checkpoint h job) s = .next t ∧ replies t 9 (0 :: bytesOf 4 n) ∧ t.mem = s.mem ∧ t.cores = s.cores ∧
            Tab.find s.storage n = none ∧ Tab.find t.storage n = some m ∧ m.floor = j.floor ∧ m.mathrev = 1 ∧
            m.pages.map (fun x => (x.vpn, x.cls, x.rd, x.w, x.key)) = ps.map (fun p => (p.vpn, p.cls, p.rd, p.w, p.key)) ∧
            ∀ x, x ≠ n → Tab.find t.storage x = Tab.find s.storage x))) ∧
    (∀ n : Nat,
      (Tab.find s.storage n = none → refused (.restart h n) 10) ∧
      (∀ m, Tab.find s.storage n = some m →
        (m.mathrev ≠ 1 → refused (.restart h n) 10) ∧
        (4096 ≤ openJobs s → refused (.restart h n) 10) ∧
        (m.mathrev = 1 → openJobs s < 4096 → s.dist.nextJob < 2 ^ 24 →
          (∀ p ∈ m.pools, p.nmem ≤ s.ncores) → m.pages = [] → m.seqs = [] →
          ∃ t, exec (.restart h n) s = .next t ∧ replies t 10 (0 :: bytesOf 4 s.dist.nextJob) ∧ t.mem = s.mem ∧
            t.dist.nextJob = s.dist.nextJob + 1 ∧
            t.dist.jobs = s.dist.jobs ++ [⟨BitVec.ofNat 24 s.dist.nextJob, m.floor, 1, 0, 0, 0, 0, false, false, false⟩] ∧
            ∀ p ∈ m.pools, let q := p.fitted s (BitVec.ofNat 24 s.dist.nextJob)
              q.nmem = p.nmem ∧ q.first.toNat + q.nmem ≤ s.ncores ∧ (p.first.toNat + p.nmem ≤ s.ncores → q.first = p.first)))) ∧
    (∀ (k : Fin 64) (key : BitVec 256) (job : Nat),
      let x := s.keys.get k
      let sets := fun (i : Instr) (code : Nat) (y : KeySlot) =>
        ∃ t, exec i s = .next t ∧ replies t code [0] ∧ t.keys.get k = y ∧ (∀ j, j ≠ k → t.keys.get j = s.keys.get j) ∧
          t.mem = s.mem ∧ t.cores = s.cores
      sets (.keyload h k key) 12 { x with ctr := 0, gen := x.gen + 1, st := 1, key := key } ∧
      sets (.keygrant h k job) 13 { x with grant := BitVec.ofNat 24 job } ∧
      sets (.keyclear h k) 14 { x with st := 0, key := 0 }) ∧
    (∀ modno routes linkKey,
      ∃ t, exec (.rimconf h modno routes linkKey) s = .next t ∧ replies t 15 [0] ∧ t.rimNext = some (modno, routes, linkKey) ∧
        t.modNo = s.modNo ∧ t.routes = s.routes ∧ t.links = s.links ∧ t.mem = s.mem ∧ t.cores = s.cores) ∧
    (∀ image, ∃ t, exec (.fwupdate h image) s = .next t ∧ replies t 16 [0] ∧ t.staged = Tab.put s.staged (kindFor h image) image ∧ t.images = s.images ∧
      t.mem = s.mem ∧ t.cores = s.cores) ∧
    ∃ t, exec (.reset h) s = .next t ∧ t.bootStep = 0 ∧ t.powered = true ∧ t.net = [] ∧ t.storage = s.storage ∧ t.staged = s.staged ∧
      (∀ c, t.core c = Core.reset) ∧ (∀ k, 2 ^ 50 ≤ k → t.mem.read k = s.mem.read k) ∧ ∀ k, k < 2 ^ 50 → t.mem.read k = 0

/-! ### Debug modules (20_observation_replay.md) -/

/-- R455, R456 and Tables 20.3 and 20.4: what the hubs do to a debug module. A halt stops a slot at a boundary; a slot that is stopped
keeps its image writes until it resumes. What clears a stop reason is the model's reading (log entry 54). -/
def Obligations.DebugModule : Prop :=
  ∀ (s : State) (c : Nat) (i : Fin 4),
    let d := (s.core c).dbgMod
    let bit := fun (x : BitVec 4) => x.getLsbD i.val
    let same := fun (t : State) => t.mem = s.mem ∧ t.net = s.net ∧ t.purses = s.purses ∧ ∀ e, e ≠ c → t.core e = s.core e
    (∃ t, exec (.dbgHalt c i true) s = .next t ∧ same t ∧ bit (t.core c).dbgMod.halt = true ∧ (∀ j, t.slotAt c j = s.slotAt c j) ∧
      (∀ j : Fin 4, j ≠ i → (t.core c).dbgMod.halt.getLsbD j.val = d.halt.getLsbD j.val ∧
        (t.core c).dbgMod.reason.get j = d.reason.get j) ∧
      (atBoundary (s.slotAt c i) = true → bit d.sstep = false → d.reason.get i = 0 → (t.core c).dbgMod.reason.get i = 1) ∧
      (atBoundary (s.slotAt c i) = false → (t.core c).dbgMod.reason.get i = d.reason.get i)) ∧
    (∃ t, exec (.dbgHalt c i false) s = .next t ∧ same t ∧ bit (t.core c).dbgMod.halt = false ∧
      (∀ j : Fin 4, j ≠ i → (t.core c).dbgMod.halt.getLsbD j.val = d.halt.getLsbD j.val ∧ t.slotAt c j = s.slotAt c j) ∧
      (bit d.halt = true → d.reason.get i ≠ 6 → (t.core c).dbgMod.reason.get i = 0) ∧
      (d.reason.get i = 6 → (t.core c).dbgMod.reason.get i = 6) ∧
      (bit d.halt = true → d.reason.get i ≠ 0 → d.reason.get i ≠ 6 →
        (∀ w ∈ (t.core c).dbgMod.imageWrites, w.1 ≠ i) ∧
        (t.slotAt c i).resumed = ((s.slotAt c i).resumed || d.reason.get i == 4 || d.reason.get i == 5) ∧
        (t.slotAt c i).watchMet = ((s.slotAt c i).watchMet || d.reason.get i == 5))) ∧
    (∃ t, exec (.dbgSstep c i) s = .next t ∧ same t ∧ bit (t.core c).dbgMod.sstep = true ∧ (t.core c).dbgMod.halt = d.halt ∧
      (d.reason.get i ≠ 6 → (t.core c).dbgMod.reason.get i = 0) ∧ (d.reason.get i = 6 → (t.core c).dbgMod.reason.get i = 6)) ∧
    (∀ on, ∃ t, exec (.dbgTstop c on) s = .next t ∧ same t ∧ (t.core c).dbgMod = { d with tstop := on } ∧
      (∀ j, t.slotAt c j = s.slotAt c j) ∧
      (on = false → (t.core c).teller.stopped = false) ∧
      (on = true → (s.core c).teller.act = none → (t.core c).teller.stopped = true) ∧
      (on = true → (s.core c).teller.act ≠ none → (t.core c).teller.stopped = (s.core c).teller.stopped)) ∧
    (∀ v : Word,
      let left := fun (j : Fin 4) => d.reason.get j &&& ~~~(v.extractLsb' (16 + 4 * j.val) 4)
      ∃ t, exec (.dbgstatClear c v) s = .next t ∧ same t ∧
        (left i ≠ 0 → (t.core c).dbgMod.reason.get i = left i ∧ t.slotAt c i = s.slotAt c i) ∧
        (left i = 0 → d.halt = 0 → d.sstep = 0 → (t.core c).dbgMod.reason.get i = 0)) ∧
    (∀ (off : Nat) (v : Word),
      (d.reason.get (selSlot d) ≠ 0 → off % 8 = 0 → 0x1000 ≤ off → off < 0x2000 →
        exec (.dbgImageWrite c off v) s = .next (s.updCore c (fun k => { k with
          dbgMod := { k.dbgMod with imageWrites := d.imageWrites ++ [(selSlot d, off - 0x1000, v)] } }))) ∧
      (d.reason.get (selSlot d) = 0 ∨ off % 8 ≠ 0 ∨ off < 0x1000 ∨ 0x2000 ≤ off → exec (.dbgImageWrite c off v) s = .next s)) ∧
    ∀ (h : Hub) (v : Word),
      (∀ off : Nat, ∃ t, exec (.dbgwrite h c off v) s = .next t ∧ t.mem = s.mem ∧ (t.port h).mgmt.length = (s.port h).mgmt.length + 1 ∧
        ∀ e, e ≠ c → t.core e = s.core e) ∧
      (∀ k : Fin 4, ∃ t, exec (.dbgwrite h c (0x10 + 8 * k.val) v) s = .next t ∧
        (t.core c).dbgMod = { d with bp := d.bp.set k.val (v &&& 0x80000000000F7FFC) k.isLt }) ∧
      (∀ k : Fin 2, ∃ t, exec (.dbgwrite h c (0x30 + 8 * k.val) v) s = .next t ∧
        (t.core c).dbgMod = { d with wp := d.wp.set k.val (v &&& 0xC000FFFFFFFFFFC0) k.isLt }) ∧
      ∃ t, exec (.dbgwrite h c 0x40 v) s = .next t ∧
        (t.core c).dbgMod = { d with trPage := v.extractLsb' 16 32, trSlots := v.extractLsb' 0 4 }

/-! ### Rim links (21_interfaces.md) -/

/-- R442, R476, R477, R480 and Table 21.4: a frame that arrives, a link that goes down, and one that trains again. An idle frame carries
an acknowledgement and no number (log entry 8). -/
def Obligations.RimLinks : Prop :=
  ∀ (s : State) (l : Fin 16),
    let x := s.links.get l
    let num := fun (f : List Byte) => BitVec.ofNat 16 (natOfBytes ((f.drop 4).take 2))
    let ack := fun (f : List Byte) => BitVec.ofNat 16 (natOfBytes ((f.drop 6).take 2))
    let others := fun (t : State) => ∀ j : Fin 16, j ≠ l → t.links.get j = s.links.get j
    (∀ f : List Byte, x.up = false → exec (.rimFrame l f) s = .next s) ∧
    (∀ f : List Byte, x.up = true →
      let bad := f.length ≠ 80 ∨ natOfBytes (f.drop 0x48) ≠ (crc64 (f.take 0x48)).toNat
      let kind := (f.getD 0 0).toNat
      let answer := fun (y : Link) => y.idle (x.far.getD 0) s.modNo
      let y := x.acked (ack f)
      (bad → ∃ t, exec (.rimFrame l f) s = .next t ∧ others t ∧ t.links.get l = answer { x with discarding := true } ∧ t.net = s.net ∧
        t.mem = s.mem) ∧
      (¬bad → 4 < kind → exec (.rimFrame l f) s = .next s) ∧
      (¬bad → kind = 0 → ∃ t, exec (.rimFrame l f) s = .next t ∧ others t ∧ t.net = s.net ∧
        (x.unacked = [] ∨ y.unacked ≠ x.unacked → t.links.get l = y) ∧ (x.unacked ≠ [] → y.unacked = x.unacked → t.links.get l = y.resend)) ∧
      (¬bad → kind = 4 → ∃ t, exec (.rimFrame l f) s = .next t ∧ others t ∧ t.links.get l = { y with training := true } ∧ t.net = s.net) ∧
      (¬bad → 1 ≤ kind → kind ≤ 3 → num f ≠ x.rxSeq →
        ∃ t, exec (.rimFrame l f) s = .next t ∧ others t ∧ t.links.get l = answer { y with discarding := true } ∧ t.net = s.net) ∧
      (¬bad → 1 ≤ kind → kind ≤ 3 → num f = x.rxSeq →
        ∃ t, exec (.rimFrame l f) s = .next t ∧ others t ∧
          t.links.get l = answer { y with rxSeq := x.rxSeq + 1, discarding := false, rx := if frameEnds f then [] else x.rx ++ [f] } ∧
          (frameEnds f = false → t.net = s.net ∧ t.mem = s.mem ∧ t.cores = s.cores))) ∧
    (∀ f : List Byte, frameGood (x.fresh f) = true ∨ f.length < 72) ∧
    x.resend.out = x.out ++ x.unacked.map x.fresh ∧ x.resend.unacked = x.unacked ∧
    (∀ (fs rest : List (List Byte)) (f : List Byte), x.unacked = fs ++ f :: rest → (∀ g ∈ fs, num g ≠ num f) →
      (x.acked (num f)).unacked = rest) ∧
    (x.up = false → exec (.rimLinkDown l) s = .next s ∧ exec (.rimLinkRetrain l) s = .next s) ∧
    (x.up = true →
      (let out := x.sent.map (fun y => y.2) ++ s.net.filter (routedBy s l)
       ∃ t, exec (.rimLinkDown l) s = .next t ∧ others t ∧ t.links.get l = { Link.reset with far := x.far } ∧
        (let r := HubRec.event s.cycle (State.xyOf (State.linkCore l.val)) 0x0F 0 0 (BitVec.ofNat 64 l.val)
         t.portA.events.getLast? = some r ∧ t.portB.events.getLast? = some r) ∧
        (∀ m ∈ s.net, routedBy s l m = false → m ∈ t.net) ∧
        (∀ m ∈ out, ∀ va n, m.body = .load va n →
          ∃ b, m.body.faultReply ⟨causeREMOTEREF, 2, va⟩ = some b ∧ (⟨m.src.core, b.handler, m.src, b⟩ : Msg) ∈ t.net) ∧
        (∀ m ∈ out, ∀ va bs, m.body = .store va bs →
          ∃ b, m.body.faultReply ⟨causeREMOTEREF, 2, va⟩ = some b ∧ (⟨m.src.core, b.handler, m.src, b⟩ : Msg) ∈ t.net) ∧
        ((∀ c i v, (s.slotAt c i).leaving = some v → v.stage < 2) → (∀ m ∈ out, ∀ a g d, m.body ≠ .migAnswer a g d) →
          t.mem = s.mem ∧ t.cores = s.cores)) ∧
      ∃ t, exec (.rimLinkRetrain l) s = .next t ∧ others t ∧ t.links.get l = ({ x with training := false } : Link).resend ∧ t.net = s.net)

/-! ### The arithmetic of one operation (02_numbers.md, 07_matrix_spans_work.md) -/

/-- R45 to R53, R65 and Tables 2.1 to 2.4 and 2.8: the arithmetic that the instructions name. An encoding has the value of R46; a sum, a
product, a quotient, a root, a fused multiply-add and a conversion give the exact result rounded once under the mode, with its flags and
its zero's sign; then the NaN and infinity cases, minimum and maximum, the comparisons, and rounding to an integer. That a sum of two
zeros of one sign keeps that sign is the model's reading (log entry 71). -/
def Obligations.RoundedOnce : Prop :=
  (∀ f : FFmt, (f.width, f.man, f.bias, f.emin, f.nanBits) =
    match f with
    | .bf16 => (16, 7, 127, -126, 0x7FC0)
    | .fp16 => (16, 10, 15, -14, 0x7E00)
    | .fp32 => (32, 23, 127, -126, 0x7FC00000)
    | .fp64 => (64, 52, 1023, -1022, 0x7FF8000000000000)) ∧
  (∀ (f : FFmt) (n : Bool) (b : Nat),
    let x := f.signBit n + b
    let top := (2 ^ (f.width - 1 - f.man) - 1) * 2 ^ f.man
    f.infBits = top ∧ f.signBit n = (if n then 2 ^ (f.width - 1) else 0) ∧
    (b < top → ∃ m e, unpack f x = .fin n m e ∧ (m : Rat) * pow2 e = gridMag f.man f.emin b) ∧
    (b = top → unpack f x = .inf n) ∧
    (top < b → b < 2 ^ (f.width - 1) → unpack f x = .nan (b % 2 ^ f.man < 2 ^ (f.man - 1)))) ∧
  ∀ (f h : FFmt) (rm : Rm) (x y z : Nat),
    let a := unpack f x
    let b := unpack f y
    let c := unpack f z
    let nan := fun (signals : Bool) => (⟨f.nanBits, if signals then 0b10000 else 0⟩ : FOut)
    let loud := a.isSnan || b.isSnan
    let num := a.isNan = false ∧ b.isNan = false
    (a.isNan = true ∨ b.isNan = true →
      fAdd f rm x y = nan loud ∧ fSub f rm x y = nan loud ∧ fMul f rm x y = nan loud ∧ fDiv f rm x y = nan loud) ∧
    (num → f.Adds rm a b (fAdd f rm x y) ∧ f.Adds rm a b.flip (fSub f rm x y) ∧ f.Multiplies rm a b (fMul f rm x y) ∧
      f.Divides rm a b (fDiv f rm x y)) ∧
    -- the fused multiply-add
    (let clash := (a.isInf = true ∧ b.isZero = true) ∨ (a.isZero = true ∧ b.isInf = true)
     let anyNan := a.isNan = true ∨ b.isNan = true ∨ c.isNan = true
     let n := a.neg != b.neg
     let r := fFma f rm x y z
     (clash → r = nan true) ∧
     (¬clash → anyNan → r = nan (loud || c.isSnan)) ∧
     (¬clash → ¬anyNan →
       (a.isInf = true ∨ b.isInf = true →
         r = if c = .inf (!n) then nan true else ⟨f.signBit n + f.infBits, 0⟩) ∧
       (a.isInf = false → b.isInf = false →
         (∀ k, c = .inf k → r = ⟨f.signBit k + f.infBits, 0⟩) ∧
         (c.isInf = false →
           let v := a.rat * b.rat + c.rat
           (v ≠ 0 → f.OnceRounded rm (v < 0) (Cut.of v) r) ∧
           (v = 0 → r = ⟨f.signBit (if n = c.neg then n else rm = .rdn), 0⟩))))) ∧
    -- the root and the conversions
    (match a with
     | .nan s => fSqrt f rm x = nan s ∧ fCvt h f rm x = ⟨h.nanBits, if s then 0b10000 else 0⟩
     | .inf n => fSqrt f rm x = (if n then nan true else ⟨f.infBits, 0⟩) ∧ fCvt h f rm x = ⟨h.signBit n + h.infBits, 0⟩
     | .fin n m _ =>
       (m = 0 → fSqrt f rm x = ⟨f.signBit n, 0⟩ ∧ fCvt h f rm x = ⟨h.signBit n, 0⟩) ∧
       (m ≠ 0 → (if n then fSqrt f rm x = nan true else f.OnceRounded rm false (Cut.sqrt a.rat) (fSqrt f rm x)) ∧
         h.OnceRounded rm n (Cut.of a.rat) (fCvt h f rm x))) ∧
    (∀ k : Int, iToF f rm 0 = ⟨0, 0⟩ ∧ (k ≠ 0 → f.OnceRounded rm (k < 0) (Cut.of k) (iToF f rm k))) ∧
    (∀ (w : Nat) (signed : Bool),
      match a with
      | .nan _ => valToInt w signed rm a = (0, 0b10000)
      | .inf n => valToInt w signed rm a =
          (if n then (if signed then -2 ^ (w - 1) else 0) else (if signed then 2 ^ (w - 1) - 1 else 2 ^ w - 1), 0b10000)
      | .fin n _ _ => IntRounded w signed rm n (Cut.of a.rat) (valToInt w signed rm a)) ∧
    -- minimum and maximum, and the comparisons
    (let lo := fMinMax false f x y
     let hi := fMinMax true f x y
     let fl : FpFlags := if loud then 0b10000 else 0
     lo.fl = fl ∧ hi.fl = fl ∧
     (a.isNan = true → b.isNan = true → lo.bits = f.nanBits ∧ hi.bits = f.nanBits) ∧
     (a.isNan = true → b.isNan = false → lo.bits = y ∧ hi.bits = y) ∧
     (a.isNan = false → b.isNan = true → lo.bits = x ∧ hi.bits = x) ∧
     (a.below b ∨ (num ∧ a.isZero = true ∧ b.isZero = true ∧ a.neg = true ∧ b.neg = false) → lo.bits = x ∧ hi.bits = y) ∧
     (b.below a ∨ (num ∧ a.isZero = true ∧ b.isZero = true ∧ b.neg = true ∧ a.neg = false) → lo.bits = y ∧ hi.bits = x)) ∧
    (let un := a.isNan = true ∨ b.isNan = true
     let quiet : FpFlags := if loud then 0b10000 else 0
     let signals : FpFlags := if a.isNan || b.isNan then 0b10000 else 0
     let same := num ∧ ¬a.below b ∧ ¬b.below a
     ((fCmp f 0 x y).1 = true ↔ same) ∧ (fCmp f 0 x y).2 = quiet ∧
     ((fCmp f 1 x y).1 = true ↔ a.below b) ∧ (fCmp f 1 x y).2 = signals ∧
     ((fCmp f 2 x y).1 = true ↔ a.below b ∨ same) ∧ (fCmp f 2 x y).2 = signals ∧
     ((fCmp f 3 x y).1 = true ↔ un) ∧ (fCmp f 3 x y).2 = quiet ∧
     ((fCmp f 4 x y).1 = true ↔ ¬same) ∧ (fCmp f 4 x y).2 = quiet)

/-- R56 to R64 and Tables 2.5 and 2.6: narrow formats. A valid descriptor's encodings have the values of R59 and R60; `roundNarrow` rounds
an exact value once into the format as R61 says; and a block scale is chosen as R64 says. Shut out are ties under RNE in a format without
mantissa bits, where Table 2.2 names no neighbour (log entry 71); the greatest magnitude of a signed fixed-point format is the model's
reading (log entry 45). -/
def Obligations.NarrowRounding : Prop :=
  ∀ (x : BitVec 32), fdValid x = true →
    let d := NarrowFmt.ofBits x
    let sign := fun (n : Bool) => if n && d.s then 2 ^ (d.w - 1) else 0
    (d.s = x.getLsbD 4 ∧ d.sub = x.getLsbD 18 ∧ d.sat = x.getLsbD 19 ∧ d.w = x.toNat % 16 ∧ d.e = x.toNat / 2 ^ 5 % 8 ∧
      d.emin = 1 - (x.toNat / 2 ^ 8 % 256 : Nat) ∧ d.pol = x.toNat / 2 ^ 16 % 4 ∧ d.m + d.e + (if d.s then 1 else 0) = d.w) ∧
    (d.maxEnc < 2 ^ (d.e + d.m) ∧ (d.e = 0 ∨ d.pol = 0 → d.nanBits = none) ∧ (d.pol = 1 → d.nanBits = some ((2 ^ d.e - 1) * 2 ^ d.m + 2 ^ (d.m - 1))) ∧
      (d.pol = 2 → d.nanBits = some (2 ^ (d.e + d.m) - 1))) ∧
    (d.e = 0 → ∀ b, b < 2 ^ d.w →
      narrowVal d b = intVal (if d.s = true ∧ 2 ^ (d.w - 1) ≤ b then (b : Int) - 2 ^ d.w else b)) ∧
    (d.e ≠ 0 → ∀ n b, b < 2 ^ (d.e + d.m) → (n = true → d.s = true) →
      let v := narrowVal d (sign n + b)
      (d.maxEnc < b → v.isNan = true ∨ v.isInf = true) ∧
      (d.pol = 1 → b = (2 ^ d.e - 1) * 2 ^ d.m → v = .inf n) ∧ (d.pol = 1 → (2 ^ d.e - 1) * 2 ^ d.m < b → v = .nan false) ∧
      (d.pol = 2 → b + 1 = 2 ^ (d.e + d.m) → v = .nan false) ∧
      (b ≤ d.maxEnc → ∃ m e, v = .fin n m e ∧
        (m : Rat) * pow2 e = if d.sub = false ∧ b < 2 ^ d.m then 0 else gridMag d.m d.emin b)) ∧
    (∀ rm v, (1 ≤ d.m ∨ d.e = 0 ∨ rm ≠ .rne) → d.RoundsTo rm v (roundNarrow d rm v)) ∧
    (∀ c v, c < 255 → (v.isNan = false → v.isInf = false → (scaleBlock c v).rat = v.rat * pow2 ((c : Int) - 127)) ∧
      (scaleBlock 255 v).isNan = true) ∧
    ∀ xs : List FVal,
      ((∃ v ∈ xs, v.isNan = true ∨ v.isInf = true) → chooseScale d xs = 255) ∧
      ((∀ v ∈ xs, v.isZero = true) → chooseScale d xs = 127) ∧
      ∀ (top big : Int), (∀ v ∈ xs, v.isNan = false ∧ v.isInf = false ∧ Cut.of v.rat (pow2 (top + 1)) = .lt) →
        (∃ v ∈ xs, Cut.of v.rat (pow2 top) ≠ .lt) →
        (let most : Rat := if d.e = 0 then pow2 ((d.w : Int) - 1) else gridMag d.m d.emin d.maxEnc
         pow2 big ≤ most ∧ most < pow2 (big + 1)) →
        chooseScale d xs = (max 0 (min 254 (top - big + 127))).toNat

/-- R66 to R71, R226, R488 and Table 2.9: the arithmetic of the matrix unit and of a reduction. A K-step adds the exact sum of the products to
an accumulator element and rounds once; an integer one adds modulo 2^32; in recurrence mode it combines, reduces and accumulates in
ascending order. MST writes each element times the tensor scale, rounded once; the sign of a zero from an int32 accumulator is the model's
reading (log entry 71). A round of a reduction gives the root of the canonical slot tree for each element. -/
def Obligations.MatrixArithmetic : Prop :=
  -- one K-step on one element
  (∀ (ps : List (FVal × FVal)) (nanScale : Bool) (e : Int) (x : Nat), x < 2 ^ 32 →
    let a := unpack .fp32 x
    let product := fun (n : Bool) => a = .inf n ∨ ∃ p ∈ ps, (p.1.isInf || p.2.isInf) = true ∧ (p.1.neg != p.2.neg) = n
    let clash := fun (p : FVal × FVal) => (p.1.isInf = true ∧ p.2.isZero = true) ∨ (p.1.isZero = true ∧ p.2.isInf = true)
    let bad := nanScale = true ∨ a.isNan = true ∨ (∃ p ∈ ps, p.1.isNan = true ∨ p.2.isNan = true ∨ clash p) ∨ (product true ∧ product false)
    let z : Rat := a.rat + (ps.map (fun p => p.1.rat * p.2.rat * pow2 e)).sum
    let r := macStep ps nanScale e x
    (bad → r = 0x7FC00000) ∧
    (¬bad → product false → r = 0x7F800000) ∧
    (¬bad → product true → r = 0xFF800000) ∧
    (¬bad → ¬product false → ¬product true →
      (z ≠ 0 → ∃ fl, FFmt.OnceRounded .fp32 .rne (z < 0) (Cut.of z) ⟨r, fl⟩) ∧
      (z = 0 → r = if x = 2 ^ 31 ∧ ∀ p ∈ ps, (p.1.isZero || p.2.isZero) = true ∧ (p.1.neg != p.2.neg) = true then 2 ^ 31 else 0))) ∧
  (∀ (ps : List (Int × Int)) (x : Nat), (macStepInt ps x : Int) = ((x : Int) + (ps.map (fun p => p.1 * p.2)).sum) % 2 ^ 32) ∧
  -- the elements of a row
  (∀ (fmt : BitVec 8) (desc : BitVec 32) (row k : Nat), descOk fmt desc = true →
    let d := NarrowFmt.ofBits desc
    let code := fun (w : Nat) => row / 2 ^ (w * k) % 2 ^ w
    let element := fun (n : Nat) (v : FVal) => (rowVals fmt desc (some row)).length = n ∧ (k < n → (rowVals fmt desc (some row))[k]? = some v)
    (fmt = 0 → element 64 (intVal (signedOf 8 (code 8)))) ∧ (fmt = 1 → element 64 (intVal (code 8))) ∧
    (fmt = 2 → element (if d.w = 4 then 128 else 64) (narrowVal d (if d.w = 4 then code 4 else code 8))) ∧
    (fmt = 3 → element 32 (unpack .bf16 (code 16))) ∧ (fmt = 4 → element 32 (unpack .fp16 (code 16))) ∧
    (fmt = 5 → element 16 (unpack .fp32 (code 32))) ∧
    (∀ r : OpRow, mtxInt fmt desc = true → rowVals fmt desc r = (rowInts fmt desc r).map intVal) ∧
    ∀ v ∈ rowVals fmt desc none, v = if mtxInt fmt desc then intVal 0 else .nan false) ∧
  -- a K-step over the accumulator
  (∀ (o : KOps) (a b : List OpRow) (acc : Vector (BitVec 32) 64) (n : Fin 64),
    let x := (acc.get n).toNat
    let r := (o.step a b acc).get n
    let i := n.val / 8
    let j := n.val % 8
    let c := o.cfg
    let va := rowVals c.afmt c.adesc (a.getD i none)
    let vb := rowVals c.bfmt c.bdesc (b.getD j none)
    let code := fun (s : List Nat × List Nat) => (s.1.getD i 127, s.2.getD j 127)
    (o.recur = false → mtxInt c.afmt c.adesc = true →
      r = BitVec.ofNat 32 (macStepInt ((rowInts c.afmt c.adesc (a.getD i none)).zip (rowInts c.bfmt c.bdesc (b.getD j none))) x)) ∧
    (o.recur = false → mtxInt c.afmt c.adesc = false →
      (o.scales = none → r = BitVec.ofNat 32 (macStep (va.zip vb) false 0 x)) ∧
      ∀ s, o.scales = some s → r = BitVec.ofNat 32 (macStep (va.zip vb) (decide ((code s).1 = 255 ∨ (code s).2 = 255))
        (((code s).1 : Int) - 127 + (((code s).2 : Int) - 127)) x)) ∧
    (o.recur = true → 0 < min va.length vb.length →
      let int := o.prog.domain == 1
      let op := fun (k : BitVec 8) (y z : Nat) => if int then recInt (recOpOf k) y z else recFp (recOpOf k) y z
      let term := fun (k : Nat) => op o.prog.combine (toDomain int (va.getD k (.nan false))) (toDomain int (vb.getD k (.nan false)))
      ∃ q : Nat → Nat, q 0 = term 0 ∧ (∀ k, k + 1 < min va.length vb.length → q (k + 1) = op o.prog.reduce (q k) (term (k + 1))) ∧
        r = BitVec.ofNat 32 (op o.prog.accum x (q (min va.length vb.length - 1))))) ∧
  -- the operations of Table 2.9 and the domains of R70
  (∀ x y : BitVec 32,
    let int := fun (k : BitVec 8) => recInt (recOpOf k) x.toNat y.toNat
    let fp := fun (k : BitVec 8) => recFp (recOpOf k) x.toNat y.toNat
    let limited := fun (z : Int) => (BitVec.ofInt 32 (max (-2 ^ 31) (min (2 ^ 31 - 1) z))).toNat
    let nan := (unpack .fp32 x.toNat).isNan = true ∨ (unpack .fp32 y.toNat).isNan = true
    int 0 = (x + y).toNat ∧ int 1 = (x * y).toNat ∧ int 2 = (if y.toInt < x.toInt then y else x).toNat ∧
    int 3 = (if x.toInt < y.toInt then y else x).toNat ∧ int 7 = limited (x.toInt + y.toInt) ∧ int 8 = limited (x.toInt * y.toInt) ∧
    fp 0 = (fAdd .fp32 .rne x.toNat y.toNat).bits ∧ fp 7 = fp 0 ∧ fp 1 = (fMul .fp32 .rne x.toNat y.toNat).bits ∧ fp 8 = fp 1 ∧
    (nan → fp 2 = 0x7FC00000 ∧ fp 3 = 0x7FC00000) ∧
    (¬nan → fp 2 = (fMinMax false .fp32 x.toNat y.toNat).bits ∧ fp 3 = (fMinMax true .fp32 x.toNat y.toNat).bits) ∧
    int 4 = (x &&& y).toNat ∧ fp 4 = int 4 ∧ int 5 = (x ||| y).toNat ∧ fp 5 = int 5 ∧ int 6 = (x ^^^ y).toNat ∧ fp 6 = int 6) ∧
  (∀ v : FVal,
    match v with
    | .nan _ => toDomain false v = 0x7FC00000 ∧ toDomain true v = 0
    | .inf n => toDomain false v = (if n then 0xFF800000 else 0x7F800000) ∧ toDomain true v = (if n then 2 ^ 31 else 2 ^ 31 - 1)
    | .fin n m _ =>
      (m = 0 → toDomain false v = if n then 2 ^ 31 else 0) ∧
      (m ≠ 0 → ∃ fl, FFmt.OnceRounded .fp32 .rne n (Cut.of v.rat) ⟨toDomain false v, fl⟩) ∧
      ∃ z fl, IntRounded 32 true .rne n (Cut.of v.rat) (z, fl) ∧ (toDomain true v : Int) = z % 2 ^ 32) ∧
  -- MST
  (∀ (c : MCfg) (x : BitVec 32), mcfgValid c = true →
    let ts := unpack .fp32 c.tscale.toNat
    let a := if mtxInt c.afmt c.adesc then intVal x.toInt else unpack .fp32 x.toNat
    let r := mstElem c x
    let n := a.neg != ts.neg
    let bad := a.isNan = true ∨ ts.isNan = true ∨ (a.isInf = true ∧ ts.isZero = true) ∨ (a.isZero = true ∧ ts.isInf = true)
    let float := fun (f : FFmt) =>
      (bad → r = f.nanBits) ∧ (¬bad → ∃ fl, f.Multiplies .rne a ts ⟨r, fl⟩)
    let int := fun (w : Nat) (signed : Bool) =>
      (bad → r = 0) ∧
      (¬bad → (a.isInf = true ∨ ts.isInf = true) →
        (r : Int) = (if n then (if signed then -2 ^ (w - 1) else 0) else (if signed then 2 ^ (w - 1) - 1 else 2 ^ w - 1)) % 2 ^ w) ∧
      (¬bad → a.isInf = false → ts.isInf = false →
        ∃ z fl, IntRounded w signed .rne n (Cut.of (a.rat * ts.rat)) (z, fl) ∧ (r : Int) = z % 2 ^ w)
    (c.ofmt = 0 → int 8 true) ∧ (c.ofmt = 1 → int 8 false) ∧ (c.ofmt = 3 → float .bf16) ∧ (c.ofmt = 4 → float .fp16) ∧
    (c.ofmt = 5 → float .fp32) ∧ (c.ofmt = 6 → int 32 true) ∧
    (c.ofmt = 2 →
      let d := NarrowFmt.ofBits c.odesc
      ∃ p : FVal, r = (roundNarrow d .rne p).bits ∧ (bad → p.isNan = true) ∧
        (¬bad → (a.isInf = true ∨ ts.isInf = true) → p = .inf n) ∧
        (¬bad → a.isInf = false → ts.isInf = false → ∃ m e, p = .fin n m e ∧ p.rat = a.rat * ts.rat))) ∧
  (∀ (c : MCfg) (acc : Vector (BitVec 32) 64) (i j : Fin 8), mcfgValid c = true →
    let w := match c.ofmt.toNat with
      | 0 => 8
      | 1 => 8
      | 2 => if (NarrowFmt.ofBits c.odesc).w = 4 then 4 else 8
      | 3 => 16
      | 4 => 16
      | _ => 32
    (mstRow c acc i.val).length = w ∧
    natOfBytes (mstRow c acc i.val) / 2 ^ (w * j.val) % 2 ^ w = mstElem c (acc.get ⟨8 * i.val + j.val, by omega⟩)) ∧
  -- a round of a reduction
  ∀ (r : Reduction) (e root : Nat), e < 16 * r.k →
    treeNode (fun x y => (fAdd .fp32 .rne x y).bits)
      (fun i => (r.slots.find? (fun x => x.1 == i)).map (fun x => imgNat x.2 (4 * e) 4)) r.logs 0 = some root →
    (∀ i, i < 2 ^ r.logs → ∃ bs, (i, bs) ∈ r.slots) →
    (roundResult r).length = 64 * r.k ∧ ((roundResult r).drop (4 * e)).take 4 = bytesOf 4 root

/-! ### Instruction words (03_encoding.md) -/

/-- Tables 3.1 to 3.12 and R85: the encoder and the decoder agree. Every well-formed instruction decodes from its word, with every operand
at every value; and a word that decodes is the word of the well-formed instruction that it decodes to, so no two words are one instruction
and no reserved bit is dropped. -/
def Obligations.WordsAndInstructionsAgree : Prop :=
  (∀ (i : Instr) (rest : List Byte), i.isWord = true → i.wf = true →
    decodeWord (encode i) = .ok i ∧ decode (encodeBytes i ++ rest) = .ok (i, rest)) ∧
  ∀ (w : InstrWord) (i : Instr), decodeWord w = .ok i → i.isWord = true ∧ i.wf = true ∧ encode i = w

/-- Table 3.6, R85 and R87: words written out from the encoding tables decode to the instructions that they stand for; a word whose major
opcode is not assigned is no instruction, and so are the words of zeros and of ones. -/
def Obligations.WrittenWordsDecode : Prop :=
  decodeWord 0x04A6389C = .ok (.shadd 5 6 7 2) ∧
  decodeWord 0x380A6012 = .ok (.amoOr 0 10 12 0 1) ∧
  decodeWord 0x50000140 = .ok (.trap 5) ∧
  decodeWord 0x50050806 = .ok (.crw 5 0x020) ∧
  decodeWord 0x5C231063 = .ok (.vfma 1 3 2 0 1 2) ∧
  decodeWord 0x62800826 = .ok (.vqblk 20 0 1 2) ∧
  decodeWord 0x740D0000 = .ok (.ldv 0 13 0 0) ∧
  decodeWord 0x80863802 = .ok (.tld 4 6 7) ∧
  decodeWord 0x91EE5880 = .ok (.send 15 14 11 16) ∧
  decodeWord 0x98000400 = .ok (.fence 2 0) ∧
  decodeWord 0xA4063800 = .ok (.sptag 6 7) ∧
  ∀ w : InstrWord, (w.toNat / 2 ^ 26 = 0 ∨ w.toNat / 2 ^ 26 = 0x1F ∨ 0x2D ≤ w.toNat / 2 ^ 26) → decodeWord w = .error .illegalMajor

/-! ### The named operations -/

/-- R11, R25, R26 and R48: the registers. g0 reads as zero and m0 as all ones, a write to either is discarded, and a write to another
register changes that one alone. R11 and R236: the memory's operations. What is written is read again, least significant byte first, no
other byte changes, every operation keeps the canonical form, and two memories in that form that read alike are one. The canonical form of
memory is the model's own (log entry 2). -/
def Obligations.NamedOperations : Prop :=
  (∀ (s : State),
    s.g 0 = 0 ∧ s.m 0 = BitVec.allOnes 64 ∧
    (∀ (d r : BitVec 5) (x : Word), (s.setG d x).g r = if r = 0 then 0 else if r = d then x else s.g r) ∧
    (∀ (d r : BitVec 5) (x : Row), (s.setV d x).v r = if r = d then x else s.v r) ∧
    (∀ (d r : BitVec 3) (x : Word), (s.setM d x).m r = if r = 0 then BitVec.allOnes 64 else if r = d then x else s.m r) ∧
    (∀ (d r : BitVec 5) (x : Row) (k : BitVec 3), (s.setV d x).g r = s.g r ∧ (s.setV d x).m k = s.m k ∧ (s.setV d x).mem = s.mem) ∧
    ∀ (d : BitVec 5) (x : Word), s.setG 0 x = s.setG 0 0 ∧ (s.setG d x).mem = s.mem) ∧
  (∀ (m : Memory) (a n x : Nat) (bs : List Byte), m.wf = true →
    (m.writeBytes a bs).readBytes a bs.length = bs ∧
    (m.writeNat a n x).readNat a n = x % 2 ^ (8 * n) ∧
    (∀ i, i < n → (m.writeNat a n x).read (a + i) = BitVec.ofNat 8 (x / 2 ^ (8 * i))) ∧
    (∀ k, k < a ∨ a + bs.length ≤ k → (m.writeBytes a bs).read k = m.read k) ∧
    (∀ k, (m.clear a n).read k = if a ≤ k ∧ k < a + n then 0 else m.read k) ∧
    (∀ (dst k : Nat), (m.copy a dst n).read k = if dst ≤ k ∧ k < dst + n then m.read (a + (k - dst)) else m.read k) ∧
    (m.writeBytes a bs).wf = true ∧ (m.writeNat a n x).wf = true ∧ (m.clear a n).wf = true ∧ (∀ dst, (m.copy a dst n).wf = true) ∧
    ∀ m' : Memory, m'.wf = true → (∀ k, m'.read k = m.read k) → m' = m)

/-! ### The step (01_instant_state.md) -/

/-- R23, R39 to R41, R84 and R85: a step runs the decoded instruction. A context whose turn it is, and that nothing holds, issues the
instruction that the bytes at its PC decode to: the step is `exec` of it, after which the traced and logged events are taken up, the ring
moves to the next position and the cycle ends; a byte of the fetched line that was corrected counts (R426). The heat meter is tested ahead
of the search (R393), and messages that landed in a cycle may start once the core moves on (R268); a slot in the resident trap code or in a
replay goes by rules of its own (log entries 67 and 68). A machine step that the agenda names is `exec` of it; after one in which a tick has
run, sleeping cores may wake (R392). Whose turn it is is the model's choice (log entry 1). -/
def Obligations.StepRunsTheDecodedInstruction : Prop :=
  (∀ (x : State) (c : Nat) (who : Who) (p : Fin 6) (i : Instr) (key : Nat) (v : State),
    x.powered = true → 4 ≤ x.bootStep → x.isActive c = true → (x.core c).asleep = false → (x.core c).ring = p → ringWho p = who →
    let u := (x.heatMarks c).atTurn c who
    let at0 := fun (p : BitVec 15) (i : Instr) =>
      p.toNat < 0x6000 ∧ (decode (x.mem.readBytes (storeKey c p.toNat) 4) = .ok (i, []) ∨
        ∃ e w, decode (x.mem.readBytes (storeKey c p.toNat) 4) = .error e ∧ w.toNat = x.mem.readNat (storeKey c p.toNat) 4 ∧
          i = .illegalWord w)
    let slotIssues := ∃ t, who = .slot t ∧ inTrapCode u = false ∧ u.slot.replaying = none ∧ u.slot.yielded = false ∧
      slotHeld u t = false ∧ u.slot.restoreOwn = none ∧
      (u.slot.stepDue && u.unitMode) = false ∧ touchesFault u i = none ∧ marked u i = false ∧ (acquirePending u = false ∨ isPlain i = true) ∧
      ((u.slot.rpt = none ∧ (u.slot.resumed = true ∨ breakpointAt u t = false) ∧ fetchOk u = true ∧ badFetch u = false ∧ at0 u.pc i ∧
         key = lineKey u u.pc) ∨
       (∃ r j w q, u.slot.rpt = some r ∧ q = framePc u.pc ((u.g r.c).extractLsb' 40 4).toNat ∧ w = u.storeWord c q ∧ key = lineKey u q ∧
         u.bad.contains key = false ∧ frameWordOk w = true ∧ decodeWord w = .ok j ∧
         decodeWord (staggerWord j r ((u.g r.c).extractLsb' 32 5).toNat) = .ok i))
    let tellerIssues := ∃ a, who = .teller ∧ (x.core c).teller.act = some a ∧ 16 ≤ a.handler.toNat ∧ a.count < 256 ∧ fetchOk u = true ∧
      badFetch u = false ∧ tellerHas i = true ∧ at0 u.pc i ∧ key = lineKey u u.pc
    slotIssues ∨ tellerIssues → exec i (u.correctedIn key 64) = .next v → v.waited = false →
    let after := (((v.afterIssue u).updCore c (fun k => { k with ring := p + 1 })).issuedAs c who x.cycle).nextCycle
    (∀ s rest, s.agenda = .core c :: rest → c < 262144 → x = ({ s with agenda := rest } : State).startLate c → step s = .next after) ∧
    (∀ s, s.agenda = [] → s.focus = c → x = { s with focus := nextCore s c } → s.cycle.toNat / 700 ≤ s.tick → s.tick / 10 ≤ s.windows →
      s.cadDue = false → s.cycle.toNat % 2 = 0 → step s = .next after)) ∧
  (∀ (s t : State) (i : Instr) (rest : List Choice), s.agenda = .event i :: rest → i.isWord = false → i.wf = true →
    (∀ w, i ≠ .illegalWord w) →
    let u : State := { s with agenda := rest }
    let now := match i with
      | .handlerActivation c => u.startLate c
      | .cadencePulse => { u with readySlots := readyTable u }
      | _ => u
    exec i now = .next t → step s = .next { t.takeNotes.afterTick u with waited := false }) ∧
  ∀ (s : State) (h : Hub) (a : HubAct) (rest : List Choice), s.agenda = .hub h a :: rest →
    step s = .next (({ s with agenda := rest } : State).hubAct h a)

/-- R30, R40 and R86: nothing stops the machine. Every instruction answers a next state from every state, be it by its effect, by a trap
or by waiting; and a step ends in a fault only where the agenda names a core or a part that no module has (log entry 1). -/
def Obligations.NothingStopsTheMachine : Prop :=
  (∀ (i : Instr) (s : State), ∃ t, exec i s = .next t) ∧
  ∀ s : State, (∃ t, step s = .next t) ∨
    (step s = .fault .noSuchPart ∧
      ((∃ c rest, s.agenda = .core c :: rest ∧ 262144 ≤ c) ∨ ∃ i rest, s.agenda = .event i :: rest ∧ eventOk i = false))

/-- The state keeps its form: every step keeps the byte memory canonical, and the tables of cores and purses in order. The form is the
model's own: the canonical byte memory, and tables that list each core once, in rising order (log entries 2 and 18). -/
def Obligations.EveryStepKeepsInv : Prop :=
  ∀ (s t : State), s.Inv → step s = .next t → t.Inv

/-- R13, R14, R15, R18, R420 to R422, R451 and Tables 19.1 and 19.4: the module at reset keeps the form of `State.Inv`; its registers and
tables are empty, its cap is 8 kW, its boot's step 4 has ended, the eleven columns of Table 19.4 are fused, and every other core is active
and at rest. Which columns of the other plates are fused the specification does not say (log entry 4); what it gives no reset value for is
zero by the model's choice (log entry 3). -/
def Obligations.ResetState : Prop :=
  State.reset.Inv ∧ State.reset.cap = 8 ∧ State.reset.bootStep = 4 ∧ State.reset.cycle = 0 ∧ State.reset.tick = 0 ∧
  State.reset.logical = false ∧ State.reset.net = [] ∧ State.reset.agenda = [] ∧ (∀ k, State.reset.mem.read k = 0) ∧
  State.reset.fused = [5, 108, 155, 288, 336, 415, 553, 630, 803, 914, 1021] ∧
  ∀ c, c < 262144 → State.reset.isActive c = !State.reset.fused.contains c ∧ State.reset.purse c = 0 ∧
    (∀ t, (State.reset.slotAt c t).phase = .empty ∧ (State.reset.slotAt c t).ctx.status.getLsbD 0 = false) ∧
    (State.reset.core c).teller.act = none ∧ ∀ z, (State.reset.bank c z).row = none
end

