-- ==== Sys2Proof/Laws/Tab.lean ====
section
/-!
SUPPORT. Tables and the byte memory: reading after writing, and the canonical form that every memory operation keeps.
-/
namespace Sys2Proof.Machine

namespace Tab

variable {α : Type}

theorem find_put_self (t : Tab α) (k : Nat) (v : α) : find (put t k v) k = some v := by
  induction t with
  | nil => simp [put, find]
  | cons c r ih =>
    obtain ⟨j, w⟩ := c
    simp only [put]
    split
    · simp [find]
    · split
      · simp [find]
      · simp [find, *]

theorem find_put_ne (t : Tab α) {k j : Nat} (v : α) (h : j ≠ k) : find (put t k v) j = find t j := by
  induction t with
  | nil => simp [put, find, h.symm]
  | cons c r ih =>
    obtain ⟨i, w⟩ := c
    simp only [put]
    split
    · next e => subst e; simp [find, h.symm]
    · split
      · simp [find, h.symm]
      · simp [find, ih]

@[simp] theorem get_put_self (t : Tab α) (k : Nat) (v d : α) : get (put t k v) k d = v := by
  simp [get, find_put_self]

theorem get_put_ne (t : Tab α) {k j : Nat} (v d : α) (h : j ≠ k) : get (put t k v) j d = get t j d := by
  simp [get, find_put_ne t v h]

@[simp] theorem put_put (t : Tab α) (k : Nat) (v w : α) : put (put t k v) k w = put t k w := by
  induction t with
  | nil => simp [put]
  | cons c r ih =>
    obtain ⟨j, x⟩ := c
    by_cases h : j = k
    · simp [put, h]
    · by_cases h' : k < j
      · simp [put, h, h']
      · simp [put, h, h', ih]

theorem find_erase_self (t : Tab α) (k : Nat) : find (erase t k) k = none := by
  induction t with
  | nil => rfl
  | cons c r ih =>
    obtain ⟨j, w⟩ := c
    by_cases h : j = k
    · simpa [erase, h] using ih
    · simpa [erase, h, find] using ih

theorem find_erase_ne (t : Tab α) {k j : Nat} (h : j ≠ k) : find (erase t k) j = find t j := by
  induction t with
  | nil => rfl
  | cons c r ih =>
    obtain ⟨i, w⟩ := c
    by_cases e : i = k
    · subst e
      rw [show find ((i, w) :: r) j = find r j by simp [find, h.symm], ← ih]
      simp [erase]
    · by_cases e' : i = j
      · subst e'; simp [erase, find, h]
      · rw [show find ((i, w) :: r) j = find r j by simp [find, e'], ← ih]
        simp [erase, e, find, e']

end Tab

namespace Memory

/-! ### Reading after writing -/

@[simp] theorem read_write_self (m : Memory) (a : Nat) (b : Byte) : (m.write a b).read a = b := by
  unfold write read
  split
  · next h => simp [Tab.get, Tab.find_erase_self, h]
  · simp

theorem read_write_ne (m : Memory) {a j : Nat} (b : Byte) (h : j ≠ a) : (m.write a b).read j = m.read j := by
  unfold write read
  split
  · simp [Tab.get, Tab.find_erase_ne m h]
  · exact Tab.get_put_ne m b blank h

theorem read_writeBytes_out (bs : List Byte) (m : Memory) (a : Nat) {j : Nat} (h : j < a ∨ a + bs.length ≤ j) :
    (m.writeBytes a bs).read j = m.read j := by
  induction bs generalizing m a with
  | nil => rfl
  | cons b bs ih =>
    simp only [List.length_cons] at h
    rw [writeBytes, ih _ _ (by omega), read_write_ne _ _ (by omega)]

theorem read_writeBytes_in (bs : List Byte) (m : Memory) (a : Nat) {i : Nat} (h : i < bs.length) :
    (m.writeBytes a bs).read (a + i) = bs[i] := by
  induction bs generalizing m a i with
  | nil => simp at h
  | cons b bs ih =>
    cases i with
    | zero => rw [writeBytes, read_writeBytes_out _ _ _ (by omega)]; simp
    | succ i =>
      have := ih (m.write a b) (a + 1) (i := i) (by simpa using h)
      rw [writeBytes, show a + (i + 1) = a + 1 + i by omega, this]; simp

@[simp] theorem length_readBytes (m : Memory) (a n : Nat) : (m.readBytes a n).length = n := by
  induction n generalizing a with
  | zero => rfl
  | succ n ih => simp [readBytes, ih]

theorem readBytes_writeBytes (bs : List Byte) (m : Memory) (a : Nat) : (m.writeBytes a bs).readBytes a bs.length = bs := by
  induction bs generalizing m a with
  | nil => rfl
  | cons b bs ih =>
    simp only [List.length_cons, readBytes, writeBytes]
    rw [ih, read_writeBytes_out _ _ _ (by omega), read_write_self]

theorem readBytes_congr {m m' : Memory} {a n : Nat} (h : ∀ j, a ≤ j → j < a + n → m.read j = m'.read j) :
    m.readBytes a n = m'.readBytes a n := by
  induction n generalizing a with
  | zero => rfl
  | succ n ih =>
    simp only [readBytes]
    rw [h a (by omega) (by omega), ih (fun j _ _ => h j (by omega) (by omega))]

theorem readBytes_writeBytes_out (bs : List Byte) (m : Memory) (a b n : Nat) (h : b + n ≤ a ∨ a + bs.length ≤ b) :
    (m.writeBytes a bs).readBytes b n = m.readBytes b n :=
  readBytes_congr (fun j _ _ => read_writeBytes_out bs m a (by omega))

/-! ### The canonical form -/

/-- `wf` as a pairwise order together with a test of each entry. -/
theorem wf_iff (m : Memory) : m.wf = true ↔ m.Pairwise (fun c d => c.1 < d.1) ∧ ∀ c ∈ m, c.2 ≠ blank := by
  induction m with
  | nil => simp [wf]
  | cons c r ih =>
    cases r with
    | nil => simp [wf]
    | cons d r =>
      simp only [wf, Bool.and_eq_true, bne_iff_ne, ne_eq, decide_eq_true_eq, ih]
      constructor
      · rintro ⟨⟨h1, h2⟩, h3, h4⟩
        refine ⟨List.pairwise_cons.2 ⟨?_, h3⟩, ?_⟩
        · intro x hx
          rcases List.mem_cons.1 hx with rfl | hx
          · exact h2
          · exact Nat.lt_trans h2 ((List.pairwise_cons.1 h3).1 x hx)
        · intro x hx
          rcases List.mem_cons.1 hx with rfl | hx
          · exact h1
          · exact h4 x hx
      · rintro ⟨h1, h2⟩
        exact ⟨⟨h2 c (by simp), (List.pairwise_cons.1 h1).1 d (by simp)⟩, (List.pairwise_cons.1 h1).2,
          fun x hx => h2 x (by simp [hx])⟩

theorem wf_filter {m : Memory} (p : Host.Cell → Bool) (h : m.wf = true) : wf (m.filter p) = true := by
  rw [wf_iff] at *
  exact ⟨h.1.filter p, fun c hc => h.2 c ((List.mem_filter.1 hc).1)⟩

theorem wf_nil : wf [] = true := rfl

theorem wf_erase {m : Memory} (a : Nat) (h : m.wf = true) : wf (Tab.erase m a) = true := wf_filter _ h

theorem mem_put {α : Type} {t : Tab α} {k : Nat} {v : α} {c : Nat × α} (h : c ∈ Tab.put t k v) : c = (k, v) ∨ c ∈ t := by
  induction t with
  | nil => simpa [Tab.put] using h
  | cons d r ih =>
    obtain ⟨j, w⟩ := d
    simp only [Tab.put] at h
    split at h
    · rcases List.mem_cons.1 h with h | h
      · exact .inl h
      · exact .inr (by simp [h])
    · split at h
      · rcases List.mem_cons.1 h with h | h
        · exact .inl h
        · exact .inr h
      · rcases List.mem_cons.1 h with h | h
        · exact .inr (by simp [h])
        · rcases ih h with h | h
          · exact .inl h
          · exact .inr (by simp [h])

theorem pairwise_put {α : Type} {t : Tab α} (k : Nat) (v : α) (h : t.Pairwise (fun c d => c.1 < d.1)) :
    (Tab.put t k v).Pairwise (fun c d => c.1 < d.1) := by
  induction t with
  | nil => simp [Tab.put]
  | cons d r ih =>
    obtain ⟨j, w⟩ := d
    have h' := List.pairwise_cons.1 h
    simp only [Tab.put]
    split
    · next e => subst e; exact List.pairwise_cons.2 ⟨fun x hx => h'.1 x hx, h'.2⟩
    · split
      · next e =>
        refine List.pairwise_cons.2 ⟨?_, h⟩
        intro x hx
        rcases List.mem_cons.1 hx with rfl | hx
        · exact e
        · exact Nat.lt_trans e (h'.1 x hx)
      · next e e' =>
        refine List.pairwise_cons.2 ⟨?_, ih h'.2⟩
        intro x hx
        rcases mem_put hx with rfl | hx
        · show j < k; omega
        · exact h'.1 x hx

theorem wf_write {m : Memory} (a : Nat) (b : Byte) (h : m.wf = true) : wf (m.write a b) = true := by
  unfold write
  split
  · exact wf_erase a h
  · next hb =>
    rw [wf_iff] at *
    refine ⟨pairwise_put a b h.1, ?_⟩
    intro c hc
    rcases mem_put hc with rfl | hc
    · exact hb
    · exact h.2 c hc

theorem wf_writeBytes (bs : List Byte) {m : Memory} (a : Nat) (h : m.wf = true) : wf (m.writeBytes a bs) = true := by
  induction bs generalizing m a with
  | nil => exact h
  | cons b bs ih => exact ih (a + 1) (wf_write a b h)

theorem wf_writeNat {m : Memory} (a n x : Nat) (h : m.wf = true) : wf (m.writeNat a n x) = true := wf_writeBytes _ a h

theorem wf_clear {m : Memory} (a n : Nat) (h : m.wf = true) : wf (m.clear a n) = true := wf_filter _ h

theorem wf_putSlice {m : Memory} (a n : Nat) (s : List Host.Cell) (h : m.wf = true) : wf (m.putSlice a n s) = true := by
  have step : ∀ (l : List Host.Cell) (t : Memory), t.wf = true → wf (l.foldl (fun t c => write t (a + c.1) c.2) t) = true := by
    intro l
    induction l with
    | nil => exact fun t ht => ht
    | cons c l ih => exact fun t ht => ih _ (wf_write _ _ ht)
  exact step _ _ (wf_clear a n h)

theorem wf_copy {m : Memory} (src dst n : Nat) (h : m.wf = true) : wf (m.copy src dst n) = true := wf_putSlice _ _ _ h

end Memory

end Sys2Proof.Machine
end

