-- ==== Sys2Proof/Laws/State.lean ====
section
/-!
SUPPORT. What each named update of the state leaves as it is, one lemma per field, and what reading after it gives.
-/
namespace Sys2Proof.Machine.State

/-! ### setCore changes the core table only -/

@[simp] theorem setCore_curCore (s : State) (c : Nat) (k : Core) : (s.setCore c k).curCore = s.curCore := rfl
@[simp] theorem setCore_curWho (s : State) (c : Nat) (k : Core) : (s.setCore c k).curWho = s.curWho := rfl
@[simp] theorem setCore_agenda (s : State) (c : Nat) (k : Core) : (s.setCore c k).agenda = s.agenda := rfl
@[simp] theorem setCore_focus (s : State) (c : Nat) (k : Core) : (s.setCore c k).focus = s.focus := rfl
@[simp] theorem setCore_waited (s : State) (c : Nat) (k : Core) : (s.setCore c k).waited = s.waited := rfl
@[simp] theorem setCore_notes (s : State) (c : Nat) (k : Core) : (s.setCore c k).notes = s.notes := rfl
@[simp] theorem setCore_cycle (s : State) (c : Nat) (k : Core) : (s.setCore c k).cycle = s.cycle := rfl
@[simp] theorem setCore_free (s : State) (c : Nat) (k : Core) : (s.setCore c k).free = s.free := rfl
@[simp] theorem setCore_mem (s : State) (c : Nat) (k : Core) : (s.setCore c k).mem = s.mem := rfl
@[simp] theorem setCore_purses (s : State) (c : Nat) (k : Core) : (s.setCore c k).purses = s.purses := rfl
@[simp] theorem setCore_fused (s : State) (c : Nat) (k : Core) : (s.setCore c k).fused = s.fused := rfl
@[simp] theorem setCore_harvested (s : State) (c : Nat) (k : Core) : (s.setCore c k).harvested = s.harvested := rfl
@[simp] theorem setCore_lost (s : State) (c : Nat) (k : Core) : (s.setCore c k).lost = s.lost := rfl
@[simp] theorem setCore_mtxBad (s : State) (c : Nat) (k : Core) : (s.setCore c k).mtxBad = s.mtxBad := rfl
@[simp] theorem setCore_octets (s : State) (c : Nat) (k : Core) : (s.setCore c k).octets = s.octets := rfl
@[simp] theorem setCore_bad (s : State) (c : Nat) (k : Core) : (s.setCore c k).bad = s.bad := rfl
@[simp] theorem setCore_weak (s : State) (c : Nat) (k : Core) : (s.setCore c k).weak = s.weak := rfl
@[simp] theorem setCore_net (s : State) (c : Nat) (k : Core) : (s.setCore c k).net = s.net := rfl
@[simp] theorem setCore_dist (s : State) (c : Nat) (k : Core) : (s.setCore c k).dist = s.dist := rfl
@[simp] theorem setCore_portA (s : State) (c : Nat) (k : Core) : (s.setCore c k).portA = s.portA := rfl
@[simp] theorem setCore_portB (s : State) (c : Nat) (k : Core) : (s.setCore c k).portB = s.portB := rfl
@[simp] theorem setCore_sems (s : State) (c : Nat) (k : Core) : (s.setCore c k).sems = s.sems := rfl
@[simp] theorem setCore_plates (s : State) (c : Nat) (k : Core) : (s.setCore c k).plates = s.plates := rfl
@[simp] theorem setCore_bootStep (s : State) (c : Nat) (k : Core) : (s.setCore c k).bootStep = s.bootStep := rfl
@[simp] theorem setCore_bootStopped (s : State) (c : Nat) (k : Core) : (s.setCore c k).bootStopped = s.bootStopped := rfl
@[simp] theorem setCore_plateHub (s : State) (c : Nat) (k : Core) : (s.setCore c k).plateHub = s.plateHub := rfl
@[simp] theorem setCore_powered (s : State) (c : Nat) (k : Core) : (s.setCore c k).powered = s.powered := rfl
@[simp] theorem setCore_meshStopped (s : State) (c : Nat) (k : Core) : (s.setCore c k).meshStopped = s.meshStopped := rfl
@[simp] theorem setCore_logical (s : State) (c : Nat) (k : Core) : (s.setCore c k).logical = s.logical := rfl
@[simp] theorem setCore_ncores (s : State) (c : Nat) (k : Core) : (s.setCore c k).ncores = s.ncores := rfl
@[simp] theorem setCore_modNo (s : State) (c : Nat) (k : Core) : (s.setCore c k).modNo = s.modNo := rfl
@[simp] theorem setCore_joined (s : State) (c : Nat) (k : Core) : (s.setCore c k).joined = s.joined := rfl
@[simp] theorem setCore_routes (s : State) (c : Nat) (k : Core) : (s.setCore c k).routes = s.routes := rfl
@[simp] theorem setCore_abroad (s : State) (c : Nat) (k : Core) : (s.setCore c k).abroad = s.abroad := rfl
@[simp] theorem setCore_linkKey (s : State) (c : Nat) (k : Core) : (s.setCore c k).linkKey = s.linkKey := rfl
@[simp] theorem setCore_rimNext (s : State) (c : Nat) (k : Core) : (s.setCore c k).rimNext = s.rimNext := rfl
@[simp] theorem setCore_links (s : State) (c : Nat) (k : Core) : (s.setCore c k).links = s.links := rfl
@[simp] theorem setCore_keys (s : State) (c : Nat) (k : Core) : (s.setCore c k).keys = s.keys := rfl
@[simp] theorem setCore_tick (s : State) (c : Nat) (k : Core) : (s.setCore c k).tick = s.tick := rfl
@[simp] theorem setCore_cap (s : State) (c : Nat) (k : Core) : (s.setCore c k).cap = s.cap := rfl
@[simp] theorem setCore_capNext (s : State) (c : Nat) (k : Core) : (s.setCore c k).capNext = s.capNext := rfl
@[simp] theorem setCore_capSet (s : State) (c : Nat) (k : Core) : (s.setCore c k).capSet = s.capSet := rfl
@[simp] theorem setCore_coolantLow (s : State) (c : Nat) (k : Core) : (s.setCore c k).coolantLow = s.coolantLow := rfl
@[simp] theorem setCore_coolant (s : State) (c : Nat) (k : Core) : (s.setCore c k).coolant = s.coolant := rfl
@[simp] theorem setCore_coolantTick (s : State) (c : Nat) (k : Core) : (s.setCore c k).coolantTick = s.coolantTick := rfl
@[simp] theorem setCore_coolantBack (s : State) (c : Nat) (k : Core) : (s.setCore c k).coolantBack = s.coolantBack := rfl
@[simp] theorem setCore_housekeeping (s : State) (c : Nat) (k : Core) : (s.setCore c k).housekeeping = s.housekeeping := rfl
@[simp] theorem setCore_withhold (s : State) (c : Nat) (k : Core) : (s.setCore c k).withhold = s.withhold := rfl
@[simp] theorem setCore_withheldCarry (s : State) (c : Nat) (k : Core) : (s.setCore c k).withheldCarry = s.withheldCarry := rfl
@[simp] theorem setCore_overspends (s : State) (c : Nat) (k : Core) : (s.setCore c k).overspends = s.overspends := rfl
@[simp] theorem setCore_ballastOff (s : State) (c : Nat) (k : Core) : (s.setCore c k).ballastOff = s.ballastOff := rfl
@[simp] theorem setCore_power (s : State) (c : Nat) (k : Core) : (s.setCore c k).power = s.power := rfl
@[simp] theorem setCore_temps (s : State) (c : Nat) (k : Core) : (s.setCore c k).temps = s.temps := rfl
@[simp] theorem setCore_badSensors (s : State) (c : Nat) (k : Core) : (s.setCore c k).badSensors = s.badSensors := rfl
@[simp] theorem setCore_refreshRule (s : State) (c : Nat) (k : Core) : (s.setCore c k).refreshRule = s.refreshRule := rfl
@[simp] theorem setCore_forced (s : State) (c : Nat) (k : Core) : (s.setCore c k).forced = s.forced := rfl
@[simp] theorem setCore_issued (s : State) (c : Nat) (k : Core) : (s.setCore c k).issued = s.issued := rfl
@[simp] theorem setCore_readySlots (s : State) (c : Nat) (k : Core) : (s.setCore c k).readySlots = s.readySlots := rfl
@[simp] theorem setCore_cadPeriod (s : State) (c : Nat) (k : Core) : (s.setCore c k).cadPeriod = s.cadPeriod := rfl
@[simp] theorem setCore_cadOnce (s : State) (c : Nat) (k : Core) : (s.setCore c k).cadOnce = s.cadOnce := rfl
@[simp] theorem setCore_cadCount (s : State) (c : Nat) (k : Core) : (s.setCore c k).cadCount = s.cadCount := rfl
@[simp] theorem setCore_cadDue (s : State) (c : Nat) (k : Core) : (s.setCore c k).cadDue = s.cadDue := rfl
@[simp] theorem setCore_windows (s : State) (c : Nat) (k : Core) : (s.setCore c k).windows = s.windows := rfl
@[simp] theorem setCore_mapGen (s : State) (c : Nat) (k : Core) : (s.setCore c k).mapGen = s.mapGen := rfl
@[simp] theorem setCore_staged (s : State) (c : Nat) (k : Core) : (s.setCore c k).staged = s.staged := rfl
@[simp] theorem setCore_images (s : State) (c : Nat) (k : Core) : (s.setCore c k).images = s.images := rfl
@[simp] theorem setCore_boots (s : State) (c : Nat) (k : Core) : (s.setCore c k).boots = s.boots := rfl
@[simp] theorem setCore_storage (s : State) (c : Nat) (k : Core) : (s.setCore c k).storage = s.storage := rfl

/-! ### updCore changes the core table only -/

@[simp] theorem updCore_curCore (s : State) (c : Nat) (f : Core → Core) : (s.updCore c f).curCore = s.curCore := rfl
@[simp] theorem updCore_curWho (s : State) (c : Nat) (f : Core → Core) : (s.updCore c f).curWho = s.curWho := rfl
@[simp] theorem updCore_agenda (s : State) (c : Nat) (f : Core → Core) : (s.updCore c f).agenda = s.agenda := rfl
@[simp] theorem updCore_focus (s : State) (c : Nat) (f : Core → Core) : (s.updCore c f).focus = s.focus := rfl
@[simp] theorem updCore_waited (s : State) (c : Nat) (f : Core → Core) : (s.updCore c f).waited = s.waited := rfl
@[simp] theorem updCore_notes (s : State) (c : Nat) (f : Core → Core) : (s.updCore c f).notes = s.notes := rfl
@[simp] theorem updCore_cycle (s : State) (c : Nat) (f : Core → Core) : (s.updCore c f).cycle = s.cycle := rfl
@[simp] theorem updCore_free (s : State) (c : Nat) (f : Core → Core) : (s.updCore c f).free = s.free := rfl
@[simp] theorem updCore_mem (s : State) (c : Nat) (f : Core → Core) : (s.updCore c f).mem = s.mem := rfl
@[simp] theorem updCore_purses (s : State) (c : Nat) (f : Core → Core) : (s.updCore c f).purses = s.purses := rfl
@[simp] theorem updCore_fused (s : State) (c : Nat) (f : Core → Core) : (s.updCore c f).fused = s.fused := rfl
@[simp] theorem updCore_harvested (s : State) (c : Nat) (f : Core → Core) : (s.updCore c f).harvested = s.harvested := rfl
@[simp] theorem updCore_lost (s : State) (c : Nat) (f : Core → Core) : (s.updCore c f).lost = s.lost := rfl
@[simp] theorem updCore_mtxBad (s : State) (c : Nat) (f : Core → Core) : (s.updCore c f).mtxBad = s.mtxBad := rfl
@[simp] theorem updCore_octets (s : State) (c : Nat) (f : Core → Core) : (s.updCore c f).octets = s.octets := rfl
@[simp] theorem updCore_bad (s : State) (c : Nat) (f : Core → Core) : (s.updCore c f).bad = s.bad := rfl
@[simp] theorem updCore_weak (s : State) (c : Nat) (f : Core → Core) : (s.updCore c f).weak = s.weak := rfl
@[simp] theorem updCore_net (s : State) (c : Nat) (f : Core → Core) : (s.updCore c f).net = s.net := rfl
@[simp] theorem updCore_dist (s : State) (c : Nat) (f : Core → Core) : (s.updCore c f).dist = s.dist := rfl
@[simp] theorem updCore_portA (s : State) (c : Nat) (f : Core → Core) : (s.updCore c f).portA = s.portA := rfl
@[simp] theorem updCore_portB (s : State) (c : Nat) (f : Core → Core) : (s.updCore c f).portB = s.portB := rfl
@[simp] theorem updCore_sems (s : State) (c : Nat) (f : Core → Core) : (s.updCore c f).sems = s.sems := rfl
@[simp] theorem updCore_plates (s : State) (c : Nat) (f : Core → Core) : (s.updCore c f).plates = s.plates := rfl
@[simp] theorem updCore_bootStep (s : State) (c : Nat) (f : Core → Core) : (s.updCore c f).bootStep = s.bootStep := rfl
@[simp] theorem updCore_bootStopped (s : State) (c : Nat) (f : Core → Core) : (s.updCore c f).bootStopped = s.bootStopped := rfl
@[simp] theorem updCore_plateHub (s : State) (c : Nat) (f : Core → Core) : (s.updCore c f).plateHub = s.plateHub := rfl
@[simp] theorem updCore_powered (s : State) (c : Nat) (f : Core → Core) : (s.updCore c f).powered = s.powered := rfl
@[simp] theorem updCore_meshStopped (s : State) (c : Nat) (f : Core → Core) : (s.updCore c f).meshStopped = s.meshStopped := rfl
@[simp] theorem updCore_logical (s : State) (c : Nat) (f : Core → Core) : (s.updCore c f).logical = s.logical := rfl
@[simp] theorem updCore_ncores (s : State) (c : Nat) (f : Core → Core) : (s.updCore c f).ncores = s.ncores := rfl
@[simp] theorem updCore_modNo (s : State) (c : Nat) (f : Core → Core) : (s.updCore c f).modNo = s.modNo := rfl
@[simp] theorem updCore_joined (s : State) (c : Nat) (f : Core → Core) : (s.updCore c f).joined = s.joined := rfl
@[simp] theorem updCore_routes (s : State) (c : Nat) (f : Core → Core) : (s.updCore c f).routes = s.routes := rfl
@[simp] theorem updCore_abroad (s : State) (c : Nat) (f : Core → Core) : (s.updCore c f).abroad = s.abroad := rfl
@[simp] theorem updCore_linkKey (s : State) (c : Nat) (f : Core → Core) : (s.updCore c f).linkKey = s.linkKey := rfl
@[simp] theorem updCore_rimNext (s : State) (c : Nat) (f : Core → Core) : (s.updCore c f).rimNext = s.rimNext := rfl
@[simp] theorem updCore_links (s : State) (c : Nat) (f : Core → Core) : (s.updCore c f).links = s.links := rfl
@[simp] theorem updCore_keys (s : State) (c : Nat) (f : Core → Core) : (s.updCore c f).keys = s.keys := rfl
@[simp] theorem updCore_tick (s : State) (c : Nat) (f : Core → Core) : (s.updCore c f).tick = s.tick := rfl
@[simp] theorem updCore_cap (s : State) (c : Nat) (f : Core → Core) : (s.updCore c f).cap = s.cap := rfl
@[simp] theorem updCore_capNext (s : State) (c : Nat) (f : Core → Core) : (s.updCore c f).capNext = s.capNext := rfl
@[simp] theorem updCore_capSet (s : State) (c : Nat) (f : Core → Core) : (s.updCore c f).capSet = s.capSet := rfl
@[simp] theorem updCore_coolantLow (s : State) (c : Nat) (f : Core → Core) : (s.updCore c f).coolantLow = s.coolantLow := rfl
@[simp] theorem updCore_coolant (s : State) (c : Nat) (f : Core → Core) : (s.updCore c f).coolant = s.coolant := rfl
@[simp] theorem updCore_coolantTick (s : State) (c : Nat) (f : Core → Core) : (s.updCore c f).coolantTick = s.coolantTick := rfl
@[simp] theorem updCore_coolantBack (s : State) (c : Nat) (f : Core → Core) : (s.updCore c f).coolantBack = s.coolantBack := rfl
@[simp] theorem updCore_housekeeping (s : State) (c : Nat) (f : Core → Core) : (s.updCore c f).housekeeping = s.housekeeping := rfl
@[simp] theorem updCore_withhold (s : State) (c : Nat) (f : Core → Core) : (s.updCore c f).withhold = s.withhold := rfl
@[simp] theorem updCore_withheldCarry (s : State) (c : Nat) (f : Core → Core) : (s.updCore c f).withheldCarry = s.withheldCarry := rfl
@[simp] theorem updCore_overspends (s : State) (c : Nat) (f : Core → Core) : (s.updCore c f).overspends = s.overspends := rfl
@[simp] theorem updCore_ballastOff (s : State) (c : Nat) (f : Core → Core) : (s.updCore c f).ballastOff = s.ballastOff := rfl
@[simp] theorem updCore_power (s : State) (c : Nat) (f : Core → Core) : (s.updCore c f).power = s.power := rfl
@[simp] theorem updCore_temps (s : State) (c : Nat) (f : Core → Core) : (s.updCore c f).temps = s.temps := rfl
@[simp] theorem updCore_badSensors (s : State) (c : Nat) (f : Core → Core) : (s.updCore c f).badSensors = s.badSensors := rfl
@[simp] theorem updCore_refreshRule (s : State) (c : Nat) (f : Core → Core) : (s.updCore c f).refreshRule = s.refreshRule := rfl
@[simp] theorem updCore_forced (s : State) (c : Nat) (f : Core → Core) : (s.updCore c f).forced = s.forced := rfl
@[simp] theorem updCore_issued (s : State) (c : Nat) (f : Core → Core) : (s.updCore c f).issued = s.issued := rfl
@[simp] theorem updCore_readySlots (s : State) (c : Nat) (f : Core → Core) : (s.updCore c f).readySlots = s.readySlots := rfl
@[simp] theorem updCore_cadPeriod (s : State) (c : Nat) (f : Core → Core) : (s.updCore c f).cadPeriod = s.cadPeriod := rfl
@[simp] theorem updCore_cadOnce (s : State) (c : Nat) (f : Core → Core) : (s.updCore c f).cadOnce = s.cadOnce := rfl
@[simp] theorem updCore_cadCount (s : State) (c : Nat) (f : Core → Core) : (s.updCore c f).cadCount = s.cadCount := rfl
@[simp] theorem updCore_cadDue (s : State) (c : Nat) (f : Core → Core) : (s.updCore c f).cadDue = s.cadDue := rfl
@[simp] theorem updCore_windows (s : State) (c : Nat) (f : Core → Core) : (s.updCore c f).windows = s.windows := rfl
@[simp] theorem updCore_mapGen (s : State) (c : Nat) (f : Core → Core) : (s.updCore c f).mapGen = s.mapGen := rfl
@[simp] theorem updCore_staged (s : State) (c : Nat) (f : Core → Core) : (s.updCore c f).staged = s.staged := rfl
@[simp] theorem updCore_images (s : State) (c : Nat) (f : Core → Core) : (s.updCore c f).images = s.images := rfl
@[simp] theorem updCore_boots (s : State) (c : Nat) (f : Core → Core) : (s.updCore c f).boots = s.boots := rfl
@[simp] theorem updCore_storage (s : State) (c : Nat) (f : Core → Core) : (s.updCore c f).storage = s.storage := rfl

/-! ### updHere changes the core table only -/

@[simp] theorem updHere_curCore (s : State) (f : Core → Core) : (s.updHere f).curCore = s.curCore := rfl
@[simp] theorem updHere_curWho (s : State) (f : Core → Core) : (s.updHere f).curWho = s.curWho := rfl
@[simp] theorem updHere_agenda (s : State) (f : Core → Core) : (s.updHere f).agenda = s.agenda := rfl
@[simp] theorem updHere_focus (s : State) (f : Core → Core) : (s.updHere f).focus = s.focus := rfl
@[simp] theorem updHere_waited (s : State) (f : Core → Core) : (s.updHere f).waited = s.waited := rfl
@[simp] theorem updHere_notes (s : State) (f : Core → Core) : (s.updHere f).notes = s.notes := rfl
@[simp] theorem updHere_cycle (s : State) (f : Core → Core) : (s.updHere f).cycle = s.cycle := rfl
@[simp] theorem updHere_free (s : State) (f : Core → Core) : (s.updHere f).free = s.free := rfl
@[simp] theorem updHere_mem (s : State) (f : Core → Core) : (s.updHere f).mem = s.mem := rfl
@[simp] theorem updHere_purses (s : State) (f : Core → Core) : (s.updHere f).purses = s.purses := rfl
@[simp] theorem updHere_fused (s : State) (f : Core → Core) : (s.updHere f).fused = s.fused := rfl
@[simp] theorem updHere_harvested (s : State) (f : Core → Core) : (s.updHere f).harvested = s.harvested := rfl
@[simp] theorem updHere_lost (s : State) (f : Core → Core) : (s.updHere f).lost = s.lost := rfl
@[simp] theorem updHere_mtxBad (s : State) (f : Core → Core) : (s.updHere f).mtxBad = s.mtxBad := rfl
@[simp] theorem updHere_octets (s : State) (f : Core → Core) : (s.updHere f).octets = s.octets := rfl
@[simp] theorem updHere_bad (s : State) (f : Core → Core) : (s.updHere f).bad = s.bad := rfl
@[simp] theorem updHere_weak (s : State) (f : Core → Core) : (s.updHere f).weak = s.weak := rfl
@[simp] theorem updHere_net (s : State) (f : Core → Core) : (s.updHere f).net = s.net := rfl
@[simp] theorem updHere_dist (s : State) (f : Core → Core) : (s.updHere f).dist = s.dist := rfl
@[simp] theorem updHere_portA (s : State) (f : Core → Core) : (s.updHere f).portA = s.portA := rfl
@[simp] theorem updHere_portB (s : State) (f : Core → Core) : (s.updHere f).portB = s.portB := rfl
@[simp] theorem updHere_sems (s : State) (f : Core → Core) : (s.updHere f).sems = s.sems := rfl
@[simp] theorem updHere_plates (s : State) (f : Core → Core) : (s.updHere f).plates = s.plates := rfl
@[simp] theorem updHere_bootStep (s : State) (f : Core → Core) : (s.updHere f).bootStep = s.bootStep := rfl
@[simp] theorem updHere_bootStopped (s : State) (f : Core → Core) : (s.updHere f).bootStopped = s.bootStopped := rfl
@[simp] theorem updHere_plateHub (s : State) (f : Core → Core) : (s.updHere f).plateHub = s.plateHub := rfl
@[simp] theorem updHere_powered (s : State) (f : Core → Core) : (s.updHere f).powered = s.powered := rfl
@[simp] theorem updHere_meshStopped (s : State) (f : Core → Core) : (s.updHere f).meshStopped = s.meshStopped := rfl
@[simp] theorem updHere_logical (s : State) (f : Core → Core) : (s.updHere f).logical = s.logical := rfl
@[simp] theorem updHere_ncores (s : State) (f : Core → Core) : (s.updHere f).ncores = s.ncores := rfl
@[simp] theorem updHere_modNo (s : State) (f : Core → Core) : (s.updHere f).modNo = s.modNo := rfl
@[simp] theorem updHere_joined (s : State) (f : Core → Core) : (s.updHere f).joined = s.joined := rfl
@[simp] theorem updHere_routes (s : State) (f : Core → Core) : (s.updHere f).routes = s.routes := rfl
@[simp] theorem updHere_abroad (s : State) (f : Core → Core) : (s.updHere f).abroad = s.abroad := rfl
@[simp] theorem updHere_linkKey (s : State) (f : Core → Core) : (s.updHere f).linkKey = s.linkKey := rfl
@[simp] theorem updHere_rimNext (s : State) (f : Core → Core) : (s.updHere f).rimNext = s.rimNext := rfl
@[simp] theorem updHere_links (s : State) (f : Core → Core) : (s.updHere f).links = s.links := rfl
@[simp] theorem updHere_keys (s : State) (f : Core → Core) : (s.updHere f).keys = s.keys := rfl
@[simp] theorem updHere_tick (s : State) (f : Core → Core) : (s.updHere f).tick = s.tick := rfl
@[simp] theorem updHere_cap (s : State) (f : Core → Core) : (s.updHere f).cap = s.cap := rfl
@[simp] theorem updHere_capNext (s : State) (f : Core → Core) : (s.updHere f).capNext = s.capNext := rfl
@[simp] theorem updHere_capSet (s : State) (f : Core → Core) : (s.updHere f).capSet = s.capSet := rfl
@[simp] theorem updHere_coolantLow (s : State) (f : Core → Core) : (s.updHere f).coolantLow = s.coolantLow := rfl
@[simp] theorem updHere_coolant (s : State) (f : Core → Core) : (s.updHere f).coolant = s.coolant := rfl
@[simp] theorem updHere_coolantTick (s : State) (f : Core → Core) : (s.updHere f).coolantTick = s.coolantTick := rfl
@[simp] theorem updHere_coolantBack (s : State) (f : Core → Core) : (s.updHere f).coolantBack = s.coolantBack := rfl
@[simp] theorem updHere_housekeeping (s : State) (f : Core → Core) : (s.updHere f).housekeeping = s.housekeeping := rfl
@[simp] theorem updHere_withhold (s : State) (f : Core → Core) : (s.updHere f).withhold = s.withhold := rfl
@[simp] theorem updHere_withheldCarry (s : State) (f : Core → Core) : (s.updHere f).withheldCarry = s.withheldCarry := rfl
@[simp] theorem updHere_overspends (s : State) (f : Core → Core) : (s.updHere f).overspends = s.overspends := rfl
@[simp] theorem updHere_ballastOff (s : State) (f : Core → Core) : (s.updHere f).ballastOff = s.ballastOff := rfl
@[simp] theorem updHere_power (s : State) (f : Core → Core) : (s.updHere f).power = s.power := rfl
@[simp] theorem updHere_temps (s : State) (f : Core → Core) : (s.updHere f).temps = s.temps := rfl
@[simp] theorem updHere_badSensors (s : State) (f : Core → Core) : (s.updHere f).badSensors = s.badSensors := rfl
@[simp] theorem updHere_refreshRule (s : State) (f : Core → Core) : (s.updHere f).refreshRule = s.refreshRule := rfl
@[simp] theorem updHere_forced (s : State) (f : Core → Core) : (s.updHere f).forced = s.forced := rfl
@[simp] theorem updHere_issued (s : State) (f : Core → Core) : (s.updHere f).issued = s.issued := rfl
@[simp] theorem updHere_readySlots (s : State) (f : Core → Core) : (s.updHere f).readySlots = s.readySlots := rfl
@[simp] theorem updHere_cadPeriod (s : State) (f : Core → Core) : (s.updHere f).cadPeriod = s.cadPeriod := rfl
@[simp] theorem updHere_cadOnce (s : State) (f : Core → Core) : (s.updHere f).cadOnce = s.cadOnce := rfl
@[simp] theorem updHere_cadCount (s : State) (f : Core → Core) : (s.updHere f).cadCount = s.cadCount := rfl
@[simp] theorem updHere_cadDue (s : State) (f : Core → Core) : (s.updHere f).cadDue = s.cadDue := rfl
@[simp] theorem updHere_windows (s : State) (f : Core → Core) : (s.updHere f).windows = s.windows := rfl
@[simp] theorem updHere_mapGen (s : State) (f : Core → Core) : (s.updHere f).mapGen = s.mapGen := rfl
@[simp] theorem updHere_staged (s : State) (f : Core → Core) : (s.updHere f).staged = s.staged := rfl
@[simp] theorem updHere_images (s : State) (f : Core → Core) : (s.updHere f).images = s.images := rfl
@[simp] theorem updHere_boots (s : State) (f : Core → Core) : (s.updHere f).boots = s.boots := rfl
@[simp] theorem updHere_storage (s : State) (f : Core → Core) : (s.updHere f).storage = s.storage := rfl

/-! ### setSlotAt changes the core table only -/

@[simp] theorem setSlotAt_curCore (s : State) (c : Nat) (t : Fin 4) (x : Slot) : (s.setSlotAt c t x).curCore = s.curCore := rfl
@[simp] theorem setSlotAt_curWho (s : State) (c : Nat) (t : Fin 4) (x : Slot) : (s.setSlotAt c t x).curWho = s.curWho := rfl
@[simp] theorem setSlotAt_agenda (s : State) (c : Nat) (t : Fin 4) (x : Slot) : (s.setSlotAt c t x).agenda = s.agenda := rfl
@[simp] theorem setSlotAt_focus (s : State) (c : Nat) (t : Fin 4) (x : Slot) : (s.setSlotAt c t x).focus = s.focus := rfl
@[simp] theorem setSlotAt_waited (s : State) (c : Nat) (t : Fin 4) (x : Slot) : (s.setSlotAt c t x).waited = s.waited := rfl
@[simp] theorem setSlotAt_notes (s : State) (c : Nat) (t : Fin 4) (x : Slot) : (s.setSlotAt c t x).notes = s.notes := rfl
@[simp] theorem setSlotAt_cycle (s : State) (c : Nat) (t : Fin 4) (x : Slot) : (s.setSlotAt c t x).cycle = s.cycle := rfl
@[simp] theorem setSlotAt_free (s : State) (c : Nat) (t : Fin 4) (x : Slot) : (s.setSlotAt c t x).free = s.free := rfl
@[simp] theorem setSlotAt_mem (s : State) (c : Nat) (t : Fin 4) (x : Slot) : (s.setSlotAt c t x).mem = s.mem := rfl
@[simp] theorem setSlotAt_purses (s : State) (c : Nat) (t : Fin 4) (x : Slot) : (s.setSlotAt c t x).purses = s.purses := rfl
@[simp] theorem setSlotAt_fused (s : State) (c : Nat) (t : Fin 4) (x : Slot) : (s.setSlotAt c t x).fused = s.fused := rfl
@[simp] theorem setSlotAt_harvested (s : State) (c : Nat) (t : Fin 4) (x : Slot) : (s.setSlotAt c t x).harvested = s.harvested := rfl
@[simp] theorem setSlotAt_lost (s : State) (c : Nat) (t : Fin 4) (x : Slot) : (s.setSlotAt c t x).lost = s.lost := rfl
@[simp] theorem setSlotAt_mtxBad (s : State) (c : Nat) (t : Fin 4) (x : Slot) : (s.setSlotAt c t x).mtxBad = s.mtxBad := rfl
@[simp] theorem setSlotAt_octets (s : State) (c : Nat) (t : Fin 4) (x : Slot) : (s.setSlotAt c t x).octets = s.octets := rfl
@[simp] theorem setSlotAt_bad (s : State) (c : Nat) (t : Fin 4) (x : Slot) : (s.setSlotAt c t x).bad = s.bad := rfl
@[simp] theorem setSlotAt_weak (s : State) (c : Nat) (t : Fin 4) (x : Slot) : (s.setSlotAt c t x).weak = s.weak := rfl
@[simp] theorem setSlotAt_net (s : State) (c : Nat) (t : Fin 4) (x : Slot) : (s.setSlotAt c t x).net = s.net := rfl
@[simp] theorem setSlotAt_dist (s : State) (c : Nat) (t : Fin 4) (x : Slot) : (s.setSlotAt c t x).dist = s.dist := rfl
@[simp] theorem setSlotAt_portA (s : State) (c : Nat) (t : Fin 4) (x : Slot) : (s.setSlotAt c t x).portA = s.portA := rfl
@[simp] theorem setSlotAt_portB (s : State) (c : Nat) (t : Fin 4) (x : Slot) : (s.setSlotAt c t x).portB = s.portB := rfl
@[simp] theorem setSlotAt_sems (s : State) (c : Nat) (t : Fin 4) (x : Slot) : (s.setSlotAt c t x).sems = s.sems := rfl
@[simp] theorem setSlotAt_plates (s : State) (c : Nat) (t : Fin 4) (x : Slot) : (s.setSlotAt c t x).plates = s.plates := rfl
@[simp] theorem setSlotAt_bootStep (s : State) (c : Nat) (t : Fin 4) (x : Slot) : (s.setSlotAt c t x).bootStep = s.bootStep := rfl
@[simp] theorem setSlotAt_bootStopped (s : State) (c : Nat) (t : Fin 4) (x : Slot) : (s.setSlotAt c t x).bootStopped = s.bootStopped := rfl
@[simp] theorem setSlotAt_plateHub (s : State) (c : Nat) (t : Fin 4) (x : Slot) : (s.setSlotAt c t x).plateHub = s.plateHub := rfl
@[simp] theorem setSlotAt_powered (s : State) (c : Nat) (t : Fin 4) (x : Slot) : (s.setSlotAt c t x).powered = s.powered := rfl
@[simp] theorem setSlotAt_meshStopped (s : State) (c : Nat) (t : Fin 4) (x : Slot) : (s.setSlotAt c t x).meshStopped = s.meshStopped := rfl
@[simp] theorem setSlotAt_logical (s : State) (c : Nat) (t : Fin 4) (x : Slot) : (s.setSlotAt c t x).logical = s.logical := rfl
@[simp] theorem setSlotAt_ncores (s : State) (c : Nat) (t : Fin 4) (x : Slot) : (s.setSlotAt c t x).ncores = s.ncores := rfl
@[simp] theorem setSlotAt_modNo (s : State) (c : Nat) (t : Fin 4) (x : Slot) : (s.setSlotAt c t x).modNo = s.modNo := rfl
@[simp] theorem setSlotAt_joined (s : State) (c : Nat) (t : Fin 4) (x : Slot) : (s.setSlotAt c t x).joined = s.joined := rfl
@[simp] theorem setSlotAt_routes (s : State) (c : Nat) (t : Fin 4) (x : Slot) : (s.setSlotAt c t x).routes = s.routes := rfl
@[simp] theorem setSlotAt_abroad (s : State) (c : Nat) (t : Fin 4) (x : Slot) : (s.setSlotAt c t x).abroad = s.abroad := rfl
@[simp] theorem setSlotAt_linkKey (s : State) (c : Nat) (t : Fin 4) (x : Slot) : (s.setSlotAt c t x).linkKey = s.linkKey := rfl
@[simp] theorem setSlotAt_rimNext (s : State) (c : Nat) (t : Fin 4) (x : Slot) : (s.setSlotAt c t x).rimNext = s.rimNext := rfl
@[simp] theorem setSlotAt_links (s : State) (c : Nat) (t : Fin 4) (x : Slot) : (s.setSlotAt c t x).links = s.links := rfl
@[simp] theorem setSlotAt_keys (s : State) (c : Nat) (t : Fin 4) (x : Slot) : (s.setSlotAt c t x).keys = s.keys := rfl
@[simp] theorem setSlotAt_tick (s : State) (c : Nat) (t : Fin 4) (x : Slot) : (s.setSlotAt c t x).tick = s.tick := rfl
@[simp] theorem setSlotAt_cap (s : State) (c : Nat) (t : Fin 4) (x : Slot) : (s.setSlotAt c t x).cap = s.cap := rfl
@[simp] theorem setSlotAt_capNext (s : State) (c : Nat) (t : Fin 4) (x : Slot) : (s.setSlotAt c t x).capNext = s.capNext := rfl
@[simp] theorem setSlotAt_capSet (s : State) (c : Nat) (t : Fin 4) (x : Slot) : (s.setSlotAt c t x).capSet = s.capSet := rfl
@[simp] theorem setSlotAt_coolantLow (s : State) (c : Nat) (t : Fin 4) (x : Slot) : (s.setSlotAt c t x).coolantLow = s.coolantLow := rfl
@[simp] theorem setSlotAt_coolant (s : State) (c : Nat) (t : Fin 4) (x : Slot) : (s.setSlotAt c t x).coolant = s.coolant := rfl
@[simp] theorem setSlotAt_coolantTick (s : State) (c : Nat) (t : Fin 4) (x : Slot) : (s.setSlotAt c t x).coolantTick = s.coolantTick := rfl
@[simp] theorem setSlotAt_coolantBack (s : State) (c : Nat) (t : Fin 4) (x : Slot) : (s.setSlotAt c t x).coolantBack = s.coolantBack := rfl
@[simp] theorem setSlotAt_housekeeping (s : State) (c : Nat) (t : Fin 4) (x : Slot) : (s.setSlotAt c t x).housekeeping = s.housekeeping := rfl
@[simp] theorem setSlotAt_withhold (s : State) (c : Nat) (t : Fin 4) (x : Slot) : (s.setSlotAt c t x).withhold = s.withhold := rfl
@[simp] theorem setSlotAt_withheldCarry (s : State) (c : Nat) (t : Fin 4) (x : Slot) : (s.setSlotAt c t x).withheldCarry = s.withheldCarry := rfl
@[simp] theorem setSlotAt_overspends (s : State) (c : Nat) (t : Fin 4) (x : Slot) : (s.setSlotAt c t x).overspends = s.overspends := rfl
@[simp] theorem setSlotAt_ballastOff (s : State) (c : Nat) (t : Fin 4) (x : Slot) : (s.setSlotAt c t x).ballastOff = s.ballastOff := rfl
@[simp] theorem setSlotAt_power (s : State) (c : Nat) (t : Fin 4) (x : Slot) : (s.setSlotAt c t x).power = s.power := rfl
@[simp] theorem setSlotAt_temps (s : State) (c : Nat) (t : Fin 4) (x : Slot) : (s.setSlotAt c t x).temps = s.temps := rfl
@[simp] theorem setSlotAt_badSensors (s : State) (c : Nat) (t : Fin 4) (x : Slot) : (s.setSlotAt c t x).badSensors = s.badSensors := rfl
@[simp] theorem setSlotAt_refreshRule (s : State) (c : Nat) (t : Fin 4) (x : Slot) : (s.setSlotAt c t x).refreshRule = s.refreshRule := rfl
@[simp] theorem setSlotAt_forced (s : State) (c : Nat) (t : Fin 4) (x : Slot) : (s.setSlotAt c t x).forced = s.forced := rfl
@[simp] theorem setSlotAt_issued (s : State) (c : Nat) (t : Fin 4) (x : Slot) : (s.setSlotAt c t x).issued = s.issued := rfl
@[simp] theorem setSlotAt_readySlots (s : State) (c : Nat) (t : Fin 4) (x : Slot) : (s.setSlotAt c t x).readySlots = s.readySlots := rfl
@[simp] theorem setSlotAt_cadPeriod (s : State) (c : Nat) (t : Fin 4) (x : Slot) : (s.setSlotAt c t x).cadPeriod = s.cadPeriod := rfl
@[simp] theorem setSlotAt_cadOnce (s : State) (c : Nat) (t : Fin 4) (x : Slot) : (s.setSlotAt c t x).cadOnce = s.cadOnce := rfl
@[simp] theorem setSlotAt_cadCount (s : State) (c : Nat) (t : Fin 4) (x : Slot) : (s.setSlotAt c t x).cadCount = s.cadCount := rfl
@[simp] theorem setSlotAt_cadDue (s : State) (c : Nat) (t : Fin 4) (x : Slot) : (s.setSlotAt c t x).cadDue = s.cadDue := rfl
@[simp] theorem setSlotAt_windows (s : State) (c : Nat) (t : Fin 4) (x : Slot) : (s.setSlotAt c t x).windows = s.windows := rfl
@[simp] theorem setSlotAt_mapGen (s : State) (c : Nat) (t : Fin 4) (x : Slot) : (s.setSlotAt c t x).mapGen = s.mapGen := rfl
@[simp] theorem setSlotAt_staged (s : State) (c : Nat) (t : Fin 4) (x : Slot) : (s.setSlotAt c t x).staged = s.staged := rfl
@[simp] theorem setSlotAt_images (s : State) (c : Nat) (t : Fin 4) (x : Slot) : (s.setSlotAt c t x).images = s.images := rfl
@[simp] theorem setSlotAt_boots (s : State) (c : Nat) (t : Fin 4) (x : Slot) : (s.setSlotAt c t x).boots = s.boots := rfl
@[simp] theorem setSlotAt_storage (s : State) (c : Nat) (t : Fin 4) (x : Slot) : (s.setSlotAt c t x).storage = s.storage := rfl

/-! ### updSlotAt changes the core table only -/

@[simp] theorem updSlotAt_curCore (s : State) (c : Nat) (t : Fin 4) (f : Slot → Slot) : (s.updSlotAt c t f).curCore = s.curCore := rfl
@[simp] theorem updSlotAt_curWho (s : State) (c : Nat) (t : Fin 4) (f : Slot → Slot) : (s.updSlotAt c t f).curWho = s.curWho := rfl
@[simp] theorem updSlotAt_agenda (s : State) (c : Nat) (t : Fin 4) (f : Slot → Slot) : (s.updSlotAt c t f).agenda = s.agenda := rfl
@[simp] theorem updSlotAt_focus (s : State) (c : Nat) (t : Fin 4) (f : Slot → Slot) : (s.updSlotAt c t f).focus = s.focus := rfl
@[simp] theorem updSlotAt_waited (s : State) (c : Nat) (t : Fin 4) (f : Slot → Slot) : (s.updSlotAt c t f).waited = s.waited := rfl
@[simp] theorem updSlotAt_notes (s : State) (c : Nat) (t : Fin 4) (f : Slot → Slot) : (s.updSlotAt c t f).notes = s.notes := rfl
@[simp] theorem updSlotAt_cycle (s : State) (c : Nat) (t : Fin 4) (f : Slot → Slot) : (s.updSlotAt c t f).cycle = s.cycle := rfl
@[simp] theorem updSlotAt_free (s : State) (c : Nat) (t : Fin 4) (f : Slot → Slot) : (s.updSlotAt c t f).free = s.free := rfl
@[simp] theorem updSlotAt_mem (s : State) (c : Nat) (t : Fin 4) (f : Slot → Slot) : (s.updSlotAt c t f).mem = s.mem := rfl
@[simp] theorem updSlotAt_purses (s : State) (c : Nat) (t : Fin 4) (f : Slot → Slot) : (s.updSlotAt c t f).purses = s.purses := rfl
@[simp] theorem updSlotAt_fused (s : State) (c : Nat) (t : Fin 4) (f : Slot → Slot) : (s.updSlotAt c t f).fused = s.fused := rfl
@[simp] theorem updSlotAt_harvested (s : State) (c : Nat) (t : Fin 4) (f : Slot → Slot) : (s.updSlotAt c t f).harvested = s.harvested := rfl
@[simp] theorem updSlotAt_lost (s : State) (c : Nat) (t : Fin 4) (f : Slot → Slot) : (s.updSlotAt c t f).lost = s.lost := rfl
@[simp] theorem updSlotAt_mtxBad (s : State) (c : Nat) (t : Fin 4) (f : Slot → Slot) : (s.updSlotAt c t f).mtxBad = s.mtxBad := rfl
@[simp] theorem updSlotAt_octets (s : State) (c : Nat) (t : Fin 4) (f : Slot → Slot) : (s.updSlotAt c t f).octets = s.octets := rfl
@[simp] theorem updSlotAt_bad (s : State) (c : Nat) (t : Fin 4) (f : Slot → Slot) : (s.updSlotAt c t f).bad = s.bad := rfl
@[simp] theorem updSlotAt_weak (s : State) (c : Nat) (t : Fin 4) (f : Slot → Slot) : (s.updSlotAt c t f).weak = s.weak := rfl
@[simp] theorem updSlotAt_net (s : State) (c : Nat) (t : Fin 4) (f : Slot → Slot) : (s.updSlotAt c t f).net = s.net := rfl
@[simp] theorem updSlotAt_dist (s : State) (c : Nat) (t : Fin 4) (f : Slot → Slot) : (s.updSlotAt c t f).dist = s.dist := rfl
@[simp] theorem updSlotAt_portA (s : State) (c : Nat) (t : Fin 4) (f : Slot → Slot) : (s.updSlotAt c t f).portA = s.portA := rfl
@[simp] theorem updSlotAt_portB (s : State) (c : Nat) (t : Fin 4) (f : Slot → Slot) : (s.updSlotAt c t f).portB = s.portB := rfl
@[simp] theorem updSlotAt_sems (s : State) (c : Nat) (t : Fin 4) (f : Slot → Slot) : (s.updSlotAt c t f).sems = s.sems := rfl
@[simp] theorem updSlotAt_plates (s : State) (c : Nat) (t : Fin 4) (f : Slot → Slot) : (s.updSlotAt c t f).plates = s.plates := rfl
@[simp] theorem updSlotAt_bootStep (s : State) (c : Nat) (t : Fin 4) (f : Slot → Slot) : (s.updSlotAt c t f).bootStep = s.bootStep := rfl
@[simp] theorem updSlotAt_bootStopped (s : State) (c : Nat) (t : Fin 4) (f : Slot → Slot) : (s.updSlotAt c t f).bootStopped = s.bootStopped := rfl
@[simp] theorem updSlotAt_plateHub (s : State) (c : Nat) (t : Fin 4) (f : Slot → Slot) : (s.updSlotAt c t f).plateHub = s.plateHub := rfl
@[simp] theorem updSlotAt_powered (s : State) (c : Nat) (t : Fin 4) (f : Slot → Slot) : (s.updSlotAt c t f).powered = s.powered := rfl
@[simp] theorem updSlotAt_meshStopped (s : State) (c : Nat) (t : Fin 4) (f : Slot → Slot) : (s.updSlotAt c t f).meshStopped = s.meshStopped := rfl
@[simp] theorem updSlotAt_logical (s : State) (c : Nat) (t : Fin 4) (f : Slot → Slot) : (s.updSlotAt c t f).logical = s.logical := rfl
@[simp] theorem updSlotAt_ncores (s : State) (c : Nat) (t : Fin 4) (f : Slot → Slot) : (s.updSlotAt c t f).ncores = s.ncores := rfl
@[simp] theorem updSlotAt_modNo (s : State) (c : Nat) (t : Fin 4) (f : Slot → Slot) : (s.updSlotAt c t f).modNo = s.modNo := rfl
@[simp] theorem updSlotAt_joined (s : State) (c : Nat) (t : Fin 4) (f : Slot → Slot) : (s.updSlotAt c t f).joined = s.joined := rfl
@[simp] theorem updSlotAt_routes (s : State) (c : Nat) (t : Fin 4) (f : Slot → Slot) : (s.updSlotAt c t f).routes = s.routes := rfl
@[simp] theorem updSlotAt_abroad (s : State) (c : Nat) (t : Fin 4) (f : Slot → Slot) : (s.updSlotAt c t f).abroad = s.abroad := rfl
@[simp] theorem updSlotAt_linkKey (s : State) (c : Nat) (t : Fin 4) (f : Slot → Slot) : (s.updSlotAt c t f).linkKey = s.linkKey := rfl
@[simp] theorem updSlotAt_rimNext (s : State) (c : Nat) (t : Fin 4) (f : Slot → Slot) : (s.updSlotAt c t f).rimNext = s.rimNext := rfl
@[simp] theorem updSlotAt_links (s : State) (c : Nat) (t : Fin 4) (f : Slot → Slot) : (s.updSlotAt c t f).links = s.links := rfl
@[simp] theorem updSlotAt_keys (s : State) (c : Nat) (t : Fin 4) (f : Slot → Slot) : (s.updSlotAt c t f).keys = s.keys := rfl
@[simp] theorem updSlotAt_tick (s : State) (c : Nat) (t : Fin 4) (f : Slot → Slot) : (s.updSlotAt c t f).tick = s.tick := rfl
@[simp] theorem updSlotAt_cap (s : State) (c : Nat) (t : Fin 4) (f : Slot → Slot) : (s.updSlotAt c t f).cap = s.cap := rfl
@[simp] theorem updSlotAt_capNext (s : State) (c : Nat) (t : Fin 4) (f : Slot → Slot) : (s.updSlotAt c t f).capNext = s.capNext := rfl
@[simp] theorem updSlotAt_capSet (s : State) (c : Nat) (t : Fin 4) (f : Slot → Slot) : (s.updSlotAt c t f).capSet = s.capSet := rfl
@[simp] theorem updSlotAt_coolantLow (s : State) (c : Nat) (t : Fin 4) (f : Slot → Slot) : (s.updSlotAt c t f).coolantLow = s.coolantLow := rfl
@[simp] theorem updSlotAt_coolant (s : State) (c : Nat) (t : Fin 4) (f : Slot → Slot) : (s.updSlotAt c t f).coolant = s.coolant := rfl
@[simp] theorem updSlotAt_coolantTick (s : State) (c : Nat) (t : Fin 4) (f : Slot → Slot) : (s.updSlotAt c t f).coolantTick = s.coolantTick := rfl
@[simp] theorem updSlotAt_coolantBack (s : State) (c : Nat) (t : Fin 4) (f : Slot → Slot) : (s.updSlotAt c t f).coolantBack = s.coolantBack := rfl
@[simp] theorem updSlotAt_housekeeping (s : State) (c : Nat) (t : Fin 4) (f : Slot → Slot) : (s.updSlotAt c t f).housekeeping = s.housekeeping := rfl
@[simp] theorem updSlotAt_withhold (s : State) (c : Nat) (t : Fin 4) (f : Slot → Slot) : (s.updSlotAt c t f).withhold = s.withhold := rfl
@[simp] theorem updSlotAt_withheldCarry (s : State) (c : Nat) (t : Fin 4) (f : Slot → Slot) : (s.updSlotAt c t f).withheldCarry = s.withheldCarry := rfl
@[simp] theorem updSlotAt_overspends (s : State) (c : Nat) (t : Fin 4) (f : Slot → Slot) : (s.updSlotAt c t f).overspends = s.overspends := rfl
@[simp] theorem updSlotAt_ballastOff (s : State) (c : Nat) (t : Fin 4) (f : Slot → Slot) : (s.updSlotAt c t f).ballastOff = s.ballastOff := rfl
@[simp] theorem updSlotAt_power (s : State) (c : Nat) (t : Fin 4) (f : Slot → Slot) : (s.updSlotAt c t f).power = s.power := rfl
@[simp] theorem updSlotAt_temps (s : State) (c : Nat) (t : Fin 4) (f : Slot → Slot) : (s.updSlotAt c t f).temps = s.temps := rfl
@[simp] theorem updSlotAt_badSensors (s : State) (c : Nat) (t : Fin 4) (f : Slot → Slot) : (s.updSlotAt c t f).badSensors = s.badSensors := rfl
@[simp] theorem updSlotAt_refreshRule (s : State) (c : Nat) (t : Fin 4) (f : Slot → Slot) : (s.updSlotAt c t f).refreshRule = s.refreshRule := rfl
@[simp] theorem updSlotAt_forced (s : State) (c : Nat) (t : Fin 4) (f : Slot → Slot) : (s.updSlotAt c t f).forced = s.forced := rfl
@[simp] theorem updSlotAt_issued (s : State) (c : Nat) (t : Fin 4) (f : Slot → Slot) : (s.updSlotAt c t f).issued = s.issued := rfl
@[simp] theorem updSlotAt_readySlots (s : State) (c : Nat) (t : Fin 4) (f : Slot → Slot) : (s.updSlotAt c t f).readySlots = s.readySlots := rfl
@[simp] theorem updSlotAt_cadPeriod (s : State) (c : Nat) (t : Fin 4) (f : Slot → Slot) : (s.updSlotAt c t f).cadPeriod = s.cadPeriod := rfl
@[simp] theorem updSlotAt_cadOnce (s : State) (c : Nat) (t : Fin 4) (f : Slot → Slot) : (s.updSlotAt c t f).cadOnce = s.cadOnce := rfl
@[simp] theorem updSlotAt_cadCount (s : State) (c : Nat) (t : Fin 4) (f : Slot → Slot) : (s.updSlotAt c t f).cadCount = s.cadCount := rfl
@[simp] theorem updSlotAt_cadDue (s : State) (c : Nat) (t : Fin 4) (f : Slot → Slot) : (s.updSlotAt c t f).cadDue = s.cadDue := rfl
@[simp] theorem updSlotAt_windows (s : State) (c : Nat) (t : Fin 4) (f : Slot → Slot) : (s.updSlotAt c t f).windows = s.windows := rfl
@[simp] theorem updSlotAt_mapGen (s : State) (c : Nat) (t : Fin 4) (f : Slot → Slot) : (s.updSlotAt c t f).mapGen = s.mapGen := rfl
@[simp] theorem updSlotAt_staged (s : State) (c : Nat) (t : Fin 4) (f : Slot → Slot) : (s.updSlotAt c t f).staged = s.staged := rfl
@[simp] theorem updSlotAt_images (s : State) (c : Nat) (t : Fin 4) (f : Slot → Slot) : (s.updSlotAt c t f).images = s.images := rfl
@[simp] theorem updSlotAt_boots (s : State) (c : Nat) (t : Fin 4) (f : Slot → Slot) : (s.updSlotAt c t f).boots = s.boots := rfl
@[simp] theorem updSlotAt_storage (s : State) (c : Nat) (t : Fin 4) (f : Slot → Slot) : (s.updSlotAt c t f).storage = s.storage := rfl

/-! ### updSlot changes the core table only -/

@[simp] theorem updSlot_curCore (s : State) (f : Slot → Slot) : (s.updSlot f).curCore = s.curCore := rfl
@[simp] theorem updSlot_curWho (s : State) (f : Slot → Slot) : (s.updSlot f).curWho = s.curWho := rfl
@[simp] theorem updSlot_agenda (s : State) (f : Slot → Slot) : (s.updSlot f).agenda = s.agenda := rfl
@[simp] theorem updSlot_focus (s : State) (f : Slot → Slot) : (s.updSlot f).focus = s.focus := rfl
@[simp] theorem updSlot_waited (s : State) (f : Slot → Slot) : (s.updSlot f).waited = s.waited := rfl
@[simp] theorem updSlot_notes (s : State) (f : Slot → Slot) : (s.updSlot f).notes = s.notes := rfl
@[simp] theorem updSlot_cycle (s : State) (f : Slot → Slot) : (s.updSlot f).cycle = s.cycle := rfl
@[simp] theorem updSlot_free (s : State) (f : Slot → Slot) : (s.updSlot f).free = s.free := rfl
@[simp] theorem updSlot_mem (s : State) (f : Slot → Slot) : (s.updSlot f).mem = s.mem := rfl
@[simp] theorem updSlot_purses (s : State) (f : Slot → Slot) : (s.updSlot f).purses = s.purses := rfl
@[simp] theorem updSlot_fused (s : State) (f : Slot → Slot) : (s.updSlot f).fused = s.fused := rfl
@[simp] theorem updSlot_harvested (s : State) (f : Slot → Slot) : (s.updSlot f).harvested = s.harvested := rfl
@[simp] theorem updSlot_lost (s : State) (f : Slot → Slot) : (s.updSlot f).lost = s.lost := rfl
@[simp] theorem updSlot_mtxBad (s : State) (f : Slot → Slot) : (s.updSlot f).mtxBad = s.mtxBad := rfl
@[simp] theorem updSlot_octets (s : State) (f : Slot → Slot) : (s.updSlot f).octets = s.octets := rfl
@[simp] theorem updSlot_bad (s : State) (f : Slot → Slot) : (s.updSlot f).bad = s.bad := rfl
@[simp] theorem updSlot_weak (s : State) (f : Slot → Slot) : (s.updSlot f).weak = s.weak := rfl
@[simp] theorem updSlot_net (s : State) (f : Slot → Slot) : (s.updSlot f).net = s.net := rfl
@[simp] theorem updSlot_dist (s : State) (f : Slot → Slot) : (s.updSlot f).dist = s.dist := rfl
@[simp] theorem updSlot_portA (s : State) (f : Slot → Slot) : (s.updSlot f).portA = s.portA := rfl
@[simp] theorem updSlot_portB (s : State) (f : Slot → Slot) : (s.updSlot f).portB = s.portB := rfl
@[simp] theorem updSlot_sems (s : State) (f : Slot → Slot) : (s.updSlot f).sems = s.sems := rfl
@[simp] theorem updSlot_plates (s : State) (f : Slot → Slot) : (s.updSlot f).plates = s.plates := rfl
@[simp] theorem updSlot_bootStep (s : State) (f : Slot → Slot) : (s.updSlot f).bootStep = s.bootStep := rfl
@[simp] theorem updSlot_bootStopped (s : State) (f : Slot → Slot) : (s.updSlot f).bootStopped = s.bootStopped := rfl
@[simp] theorem updSlot_plateHub (s : State) (f : Slot → Slot) : (s.updSlot f).plateHub = s.plateHub := rfl
@[simp] theorem updSlot_powered (s : State) (f : Slot → Slot) : (s.updSlot f).powered = s.powered := rfl
@[simp] theorem updSlot_meshStopped (s : State) (f : Slot → Slot) : (s.updSlot f).meshStopped = s.meshStopped := rfl
@[simp] theorem updSlot_logical (s : State) (f : Slot → Slot) : (s.updSlot f).logical = s.logical := rfl
@[simp] theorem updSlot_ncores (s : State) (f : Slot → Slot) : (s.updSlot f).ncores = s.ncores := rfl
@[simp] theorem updSlot_modNo (s : State) (f : Slot → Slot) : (s.updSlot f).modNo = s.modNo := rfl
@[simp] theorem updSlot_joined (s : State) (f : Slot → Slot) : (s.updSlot f).joined = s.joined := rfl
@[simp] theorem updSlot_routes (s : State) (f : Slot → Slot) : (s.updSlot f).routes = s.routes := rfl
@[simp] theorem updSlot_abroad (s : State) (f : Slot → Slot) : (s.updSlot f).abroad = s.abroad := rfl
@[simp] theorem updSlot_linkKey (s : State) (f : Slot → Slot) : (s.updSlot f).linkKey = s.linkKey := rfl
@[simp] theorem updSlot_rimNext (s : State) (f : Slot → Slot) : (s.updSlot f).rimNext = s.rimNext := rfl
@[simp] theorem updSlot_links (s : State) (f : Slot → Slot) : (s.updSlot f).links = s.links := rfl
@[simp] theorem updSlot_keys (s : State) (f : Slot → Slot) : (s.updSlot f).keys = s.keys := rfl
@[simp] theorem updSlot_tick (s : State) (f : Slot → Slot) : (s.updSlot f).tick = s.tick := rfl
@[simp] theorem updSlot_cap (s : State) (f : Slot → Slot) : (s.updSlot f).cap = s.cap := rfl
@[simp] theorem updSlot_capNext (s : State) (f : Slot → Slot) : (s.updSlot f).capNext = s.capNext := rfl
@[simp] theorem updSlot_capSet (s : State) (f : Slot → Slot) : (s.updSlot f).capSet = s.capSet := rfl
@[simp] theorem updSlot_coolantLow (s : State) (f : Slot → Slot) : (s.updSlot f).coolantLow = s.coolantLow := rfl
@[simp] theorem updSlot_coolant (s : State) (f : Slot → Slot) : (s.updSlot f).coolant = s.coolant := rfl
@[simp] theorem updSlot_coolantTick (s : State) (f : Slot → Slot) : (s.updSlot f).coolantTick = s.coolantTick := rfl
@[simp] theorem updSlot_coolantBack (s : State) (f : Slot → Slot) : (s.updSlot f).coolantBack = s.coolantBack := rfl
@[simp] theorem updSlot_housekeeping (s : State) (f : Slot → Slot) : (s.updSlot f).housekeeping = s.housekeeping := rfl
@[simp] theorem updSlot_withhold (s : State) (f : Slot → Slot) : (s.updSlot f).withhold = s.withhold := rfl
@[simp] theorem updSlot_withheldCarry (s : State) (f : Slot → Slot) : (s.updSlot f).withheldCarry = s.withheldCarry := rfl
@[simp] theorem updSlot_overspends (s : State) (f : Slot → Slot) : (s.updSlot f).overspends = s.overspends := rfl
@[simp] theorem updSlot_ballastOff (s : State) (f : Slot → Slot) : (s.updSlot f).ballastOff = s.ballastOff := rfl
@[simp] theorem updSlot_power (s : State) (f : Slot → Slot) : (s.updSlot f).power = s.power := rfl
@[simp] theorem updSlot_temps (s : State) (f : Slot → Slot) : (s.updSlot f).temps = s.temps := rfl
@[simp] theorem updSlot_badSensors (s : State) (f : Slot → Slot) : (s.updSlot f).badSensors = s.badSensors := rfl
@[simp] theorem updSlot_refreshRule (s : State) (f : Slot → Slot) : (s.updSlot f).refreshRule = s.refreshRule := rfl
@[simp] theorem updSlot_forced (s : State) (f : Slot → Slot) : (s.updSlot f).forced = s.forced := rfl
@[simp] theorem updSlot_issued (s : State) (f : Slot → Slot) : (s.updSlot f).issued = s.issued := rfl
@[simp] theorem updSlot_readySlots (s : State) (f : Slot → Slot) : (s.updSlot f).readySlots = s.readySlots := rfl
@[simp] theorem updSlot_cadPeriod (s : State) (f : Slot → Slot) : (s.updSlot f).cadPeriod = s.cadPeriod := rfl
@[simp] theorem updSlot_cadOnce (s : State) (f : Slot → Slot) : (s.updSlot f).cadOnce = s.cadOnce := rfl
@[simp] theorem updSlot_cadCount (s : State) (f : Slot → Slot) : (s.updSlot f).cadCount = s.cadCount := rfl
@[simp] theorem updSlot_cadDue (s : State) (f : Slot → Slot) : (s.updSlot f).cadDue = s.cadDue := rfl
@[simp] theorem updSlot_windows (s : State) (f : Slot → Slot) : (s.updSlot f).windows = s.windows := rfl
@[simp] theorem updSlot_mapGen (s : State) (f : Slot → Slot) : (s.updSlot f).mapGen = s.mapGen := rfl
@[simp] theorem updSlot_staged (s : State) (f : Slot → Slot) : (s.updSlot f).staged = s.staged := rfl
@[simp] theorem updSlot_images (s : State) (f : Slot → Slot) : (s.updSlot f).images = s.images := rfl
@[simp] theorem updSlot_boots (s : State) (f : Slot → Slot) : (s.updSlot f).boots = s.boots := rfl
@[simp] theorem updSlot_storage (s : State) (f : Slot → Slot) : (s.updSlot f).storage = s.storage := rfl

/-! ### setPurse changes the purses only -/

@[simp] theorem setPurse_curCore (s : State) (c n : Nat) : (s.setPurse c n).curCore = s.curCore := rfl
@[simp] theorem setPurse_curWho (s : State) (c n : Nat) : (s.setPurse c n).curWho = s.curWho := rfl
@[simp] theorem setPurse_agenda (s : State) (c n : Nat) : (s.setPurse c n).agenda = s.agenda := rfl
@[simp] theorem setPurse_focus (s : State) (c n : Nat) : (s.setPurse c n).focus = s.focus := rfl
@[simp] theorem setPurse_waited (s : State) (c n : Nat) : (s.setPurse c n).waited = s.waited := rfl
@[simp] theorem setPurse_notes (s : State) (c n : Nat) : (s.setPurse c n).notes = s.notes := rfl
@[simp] theorem setPurse_cycle (s : State) (c n : Nat) : (s.setPurse c n).cycle = s.cycle := rfl
@[simp] theorem setPurse_free (s : State) (c n : Nat) : (s.setPurse c n).free = s.free := rfl
@[simp] theorem setPurse_mem (s : State) (c n : Nat) : (s.setPurse c n).mem = s.mem := rfl
@[simp] theorem setPurse_cores (s : State) (c n : Nat) : (s.setPurse c n).cores = s.cores := rfl
@[simp] theorem setPurse_fused (s : State) (c n : Nat) : (s.setPurse c n).fused = s.fused := rfl
@[simp] theorem setPurse_harvested (s : State) (c n : Nat) : (s.setPurse c n).harvested = s.harvested := rfl
@[simp] theorem setPurse_lost (s : State) (c n : Nat) : (s.setPurse c n).lost = s.lost := rfl
@[simp] theorem setPurse_mtxBad (s : State) (c n : Nat) : (s.setPurse c n).mtxBad = s.mtxBad := rfl
@[simp] theorem setPurse_octets (s : State) (c n : Nat) : (s.setPurse c n).octets = s.octets := rfl
@[simp] theorem setPurse_bad (s : State) (c n : Nat) : (s.setPurse c n).bad = s.bad := rfl
@[simp] theorem setPurse_weak (s : State) (c n : Nat) : (s.setPurse c n).weak = s.weak := rfl
@[simp] theorem setPurse_net (s : State) (c n : Nat) : (s.setPurse c n).net = s.net := rfl
@[simp] theorem setPurse_dist (s : State) (c n : Nat) : (s.setPurse c n).dist = s.dist := rfl
@[simp] theorem setPurse_portA (s : State) (c n : Nat) : (s.setPurse c n).portA = s.portA := rfl
@[simp] theorem setPurse_portB (s : State) (c n : Nat) : (s.setPurse c n).portB = s.portB := rfl
@[simp] theorem setPurse_sems (s : State) (c n : Nat) : (s.setPurse c n).sems = s.sems := rfl
@[simp] theorem setPurse_plates (s : State) (c n : Nat) : (s.setPurse c n).plates = s.plates := rfl
@[simp] theorem setPurse_bootStep (s : State) (c n : Nat) : (s.setPurse c n).bootStep = s.bootStep := rfl
@[simp] theorem setPurse_bootStopped (s : State) (c n : Nat) : (s.setPurse c n).bootStopped = s.bootStopped := rfl
@[simp] theorem setPurse_plateHub (s : State) (c n : Nat) : (s.setPurse c n).plateHub = s.plateHub := rfl
@[simp] theorem setPurse_powered (s : State) (c n : Nat) : (s.setPurse c n).powered = s.powered := rfl
@[simp] theorem setPurse_meshStopped (s : State) (c n : Nat) : (s.setPurse c n).meshStopped = s.meshStopped := rfl
@[simp] theorem setPurse_logical (s : State) (c n : Nat) : (s.setPurse c n).logical = s.logical := rfl
@[simp] theorem setPurse_ncores (s : State) (c n : Nat) : (s.setPurse c n).ncores = s.ncores := rfl
@[simp] theorem setPurse_modNo (s : State) (c n : Nat) : (s.setPurse c n).modNo = s.modNo := rfl
@[simp] theorem setPurse_joined (s : State) (c n : Nat) : (s.setPurse c n).joined = s.joined := rfl
@[simp] theorem setPurse_routes (s : State) (c n : Nat) : (s.setPurse c n).routes = s.routes := rfl
@[simp] theorem setPurse_abroad (s : State) (c n : Nat) : (s.setPurse c n).abroad = s.abroad := rfl
@[simp] theorem setPurse_linkKey (s : State) (c n : Nat) : (s.setPurse c n).linkKey = s.linkKey := rfl
@[simp] theorem setPurse_rimNext (s : State) (c n : Nat) : (s.setPurse c n).rimNext = s.rimNext := rfl
@[simp] theorem setPurse_links (s : State) (c n : Nat) : (s.setPurse c n).links = s.links := rfl
@[simp] theorem setPurse_keys (s : State) (c n : Nat) : (s.setPurse c n).keys = s.keys := rfl
@[simp] theorem setPurse_tick (s : State) (c n : Nat) : (s.setPurse c n).tick = s.tick := rfl
@[simp] theorem setPurse_cap (s : State) (c n : Nat) : (s.setPurse c n).cap = s.cap := rfl
@[simp] theorem setPurse_capNext (s : State) (c n : Nat) : (s.setPurse c n).capNext = s.capNext := rfl
@[simp] theorem setPurse_capSet (s : State) (c n : Nat) : (s.setPurse c n).capSet = s.capSet := rfl
@[simp] theorem setPurse_coolantLow (s : State) (c n : Nat) : (s.setPurse c n).coolantLow = s.coolantLow := rfl
@[simp] theorem setPurse_coolant (s : State) (c n : Nat) : (s.setPurse c n).coolant = s.coolant := rfl
@[simp] theorem setPurse_coolantTick (s : State) (c n : Nat) : (s.setPurse c n).coolantTick = s.coolantTick := rfl
@[simp] theorem setPurse_coolantBack (s : State) (c n : Nat) : (s.setPurse c n).coolantBack = s.coolantBack := rfl
@[simp] theorem setPurse_housekeeping (s : State) (c n : Nat) : (s.setPurse c n).housekeeping = s.housekeeping := rfl
@[simp] theorem setPurse_withhold (s : State) (c n : Nat) : (s.setPurse c n).withhold = s.withhold := rfl
@[simp] theorem setPurse_withheldCarry (s : State) (c n : Nat) : (s.setPurse c n).withheldCarry = s.withheldCarry := rfl
@[simp] theorem setPurse_overspends (s : State) (c n : Nat) : (s.setPurse c n).overspends = s.overspends := rfl
@[simp] theorem setPurse_ballastOff (s : State) (c n : Nat) : (s.setPurse c n).ballastOff = s.ballastOff := rfl
@[simp] theorem setPurse_power (s : State) (c n : Nat) : (s.setPurse c n).power = s.power := rfl
@[simp] theorem setPurse_temps (s : State) (c n : Nat) : (s.setPurse c n).temps = s.temps := rfl
@[simp] theorem setPurse_badSensors (s : State) (c n : Nat) : (s.setPurse c n).badSensors = s.badSensors := rfl
@[simp] theorem setPurse_refreshRule (s : State) (c n : Nat) : (s.setPurse c n).refreshRule = s.refreshRule := rfl
@[simp] theorem setPurse_forced (s : State) (c n : Nat) : (s.setPurse c n).forced = s.forced := rfl
@[simp] theorem setPurse_issued (s : State) (c n : Nat) : (s.setPurse c n).issued = s.issued := rfl
@[simp] theorem setPurse_readySlots (s : State) (c n : Nat) : (s.setPurse c n).readySlots = s.readySlots := rfl
@[simp] theorem setPurse_cadPeriod (s : State) (c n : Nat) : (s.setPurse c n).cadPeriod = s.cadPeriod := rfl
@[simp] theorem setPurse_cadOnce (s : State) (c n : Nat) : (s.setPurse c n).cadOnce = s.cadOnce := rfl
@[simp] theorem setPurse_cadCount (s : State) (c n : Nat) : (s.setPurse c n).cadCount = s.cadCount := rfl
@[simp] theorem setPurse_cadDue (s : State) (c n : Nat) : (s.setPurse c n).cadDue = s.cadDue := rfl
@[simp] theorem setPurse_windows (s : State) (c n : Nat) : (s.setPurse c n).windows = s.windows := rfl
@[simp] theorem setPurse_mapGen (s : State) (c n : Nat) : (s.setPurse c n).mapGen = s.mapGen := rfl
@[simp] theorem setPurse_staged (s : State) (c n : Nat) : (s.setPurse c n).staged = s.staged := rfl
@[simp] theorem setPurse_images (s : State) (c n : Nat) : (s.setPurse c n).images = s.images := rfl
@[simp] theorem setPurse_boots (s : State) (c n : Nat) : (s.setPurse c n).boots = s.boots := rfl
@[simp] theorem setPurse_storage (s : State) (c n : Nat) : (s.setPurse c n).storage = s.storage := rfl

/-! ### setCtx changes the core table only -/

@[simp] theorem setCtx_curCore (s : State) (x : Ctx) : (s.setCtx x).curCore = s.curCore := by unfold setCtx; split <;> rfl
@[simp] theorem setCtx_curWho (s : State) (x : Ctx) : (s.setCtx x).curWho = s.curWho := by unfold setCtx; split <;> rfl
@[simp] theorem setCtx_agenda (s : State) (x : Ctx) : (s.setCtx x).agenda = s.agenda := by unfold setCtx; split <;> rfl
@[simp] theorem setCtx_focus (s : State) (x : Ctx) : (s.setCtx x).focus = s.focus := by unfold setCtx; split <;> rfl
@[simp] theorem setCtx_waited (s : State) (x : Ctx) : (s.setCtx x).waited = s.waited := by unfold setCtx; split <;> rfl
@[simp] theorem setCtx_notes (s : State) (x : Ctx) : (s.setCtx x).notes = s.notes := by unfold setCtx; split <;> rfl
@[simp] theorem setCtx_cycle (s : State) (x : Ctx) : (s.setCtx x).cycle = s.cycle := by unfold setCtx; split <;> rfl
@[simp] theorem setCtx_free (s : State) (x : Ctx) : (s.setCtx x).free = s.free := by unfold setCtx; split <;> rfl
@[simp] theorem setCtx_mem (s : State) (x : Ctx) : (s.setCtx x).mem = s.mem := by unfold setCtx; split <;> rfl
@[simp] theorem setCtx_purses (s : State) (x : Ctx) : (s.setCtx x).purses = s.purses := by unfold setCtx; split <;> rfl
@[simp] theorem setCtx_fused (s : State) (x : Ctx) : (s.setCtx x).fused = s.fused := by unfold setCtx; split <;> rfl
@[simp] theorem setCtx_harvested (s : State) (x : Ctx) : (s.setCtx x).harvested = s.harvested := by unfold setCtx; split <;> rfl
@[simp] theorem setCtx_lost (s : State) (x : Ctx) : (s.setCtx x).lost = s.lost := by unfold setCtx; split <;> rfl
@[simp] theorem setCtx_mtxBad (s : State) (x : Ctx) : (s.setCtx x).mtxBad = s.mtxBad := by unfold setCtx; split <;> rfl
@[simp] theorem setCtx_octets (s : State) (x : Ctx) : (s.setCtx x).octets = s.octets := by unfold setCtx; split <;> rfl
@[simp] theorem setCtx_bad (s : State) (x : Ctx) : (s.setCtx x).bad = s.bad := by unfold setCtx; split <;> rfl
@[simp] theorem setCtx_weak (s : State) (x : Ctx) : (s.setCtx x).weak = s.weak := by unfold setCtx; split <;> rfl
@[simp] theorem setCtx_net (s : State) (x : Ctx) : (s.setCtx x).net = s.net := by unfold setCtx; split <;> rfl
@[simp] theorem setCtx_dist (s : State) (x : Ctx) : (s.setCtx x).dist = s.dist := by unfold setCtx; split <;> rfl
@[simp] theorem setCtx_portA (s : State) (x : Ctx) : (s.setCtx x).portA = s.portA := by unfold setCtx; split <;> rfl
@[simp] theorem setCtx_portB (s : State) (x : Ctx) : (s.setCtx x).portB = s.portB := by unfold setCtx; split <;> rfl
@[simp] theorem setCtx_sems (s : State) (x : Ctx) : (s.setCtx x).sems = s.sems := by unfold setCtx; split <;> rfl
@[simp] theorem setCtx_plates (s : State) (x : Ctx) : (s.setCtx x).plates = s.plates := by unfold setCtx; split <;> rfl
@[simp] theorem setCtx_bootStep (s : State) (x : Ctx) : (s.setCtx x).bootStep = s.bootStep := by unfold setCtx; split <;> rfl
@[simp] theorem setCtx_bootStopped (s : State) (x : Ctx) : (s.setCtx x).bootStopped = s.bootStopped := by unfold setCtx; split <;> rfl
@[simp] theorem setCtx_plateHub (s : State) (x : Ctx) : (s.setCtx x).plateHub = s.plateHub := by unfold setCtx; split <;> rfl
@[simp] theorem setCtx_powered (s : State) (x : Ctx) : (s.setCtx x).powered = s.powered := by unfold setCtx; split <;> rfl
@[simp] theorem setCtx_meshStopped (s : State) (x : Ctx) : (s.setCtx x).meshStopped = s.meshStopped := by unfold setCtx; split <;> rfl
@[simp] theorem setCtx_logical (s : State) (x : Ctx) : (s.setCtx x).logical = s.logical := by unfold setCtx; split <;> rfl
@[simp] theorem setCtx_ncores (s : State) (x : Ctx) : (s.setCtx x).ncores = s.ncores := by unfold setCtx; split <;> rfl
@[simp] theorem setCtx_modNo (s : State) (x : Ctx) : (s.setCtx x).modNo = s.modNo := by unfold setCtx; split <;> rfl
@[simp] theorem setCtx_joined (s : State) (x : Ctx) : (s.setCtx x).joined = s.joined := by unfold setCtx; split <;> rfl
@[simp] theorem setCtx_routes (s : State) (x : Ctx) : (s.setCtx x).routes = s.routes := by unfold setCtx; split <;> rfl
@[simp] theorem setCtx_abroad (s : State) (x : Ctx) : (s.setCtx x).abroad = s.abroad := by unfold setCtx; split <;> rfl
@[simp] theorem setCtx_linkKey (s : State) (x : Ctx) : (s.setCtx x).linkKey = s.linkKey := by unfold setCtx; split <;> rfl
@[simp] theorem setCtx_rimNext (s : State) (x : Ctx) : (s.setCtx x).rimNext = s.rimNext := by unfold setCtx; split <;> rfl
@[simp] theorem setCtx_links (s : State) (x : Ctx) : (s.setCtx x).links = s.links := by unfold setCtx; split <;> rfl
@[simp] theorem setCtx_keys (s : State) (x : Ctx) : (s.setCtx x).keys = s.keys := by unfold setCtx; split <;> rfl
@[simp] theorem setCtx_tick (s : State) (x : Ctx) : (s.setCtx x).tick = s.tick := by unfold setCtx; split <;> rfl
@[simp] theorem setCtx_cap (s : State) (x : Ctx) : (s.setCtx x).cap = s.cap := by unfold setCtx; split <;> rfl
@[simp] theorem setCtx_capNext (s : State) (x : Ctx) : (s.setCtx x).capNext = s.capNext := by unfold setCtx; split <;> rfl
@[simp] theorem setCtx_capSet (s : State) (x : Ctx) : (s.setCtx x).capSet = s.capSet := by unfold setCtx; split <;> rfl
@[simp] theorem setCtx_coolantLow (s : State) (x : Ctx) : (s.setCtx x).coolantLow = s.coolantLow := by unfold setCtx; split <;> rfl
@[simp] theorem setCtx_coolant (s : State) (x : Ctx) : (s.setCtx x).coolant = s.coolant := by unfold setCtx; split <;> rfl
@[simp] theorem setCtx_coolantTick (s : State) (x : Ctx) : (s.setCtx x).coolantTick = s.coolantTick := by unfold setCtx; split <;> rfl
@[simp] theorem setCtx_coolantBack (s : State) (x : Ctx) : (s.setCtx x).coolantBack = s.coolantBack := by unfold setCtx; split <;> rfl
@[simp] theorem setCtx_housekeeping (s : State) (x : Ctx) : (s.setCtx x).housekeeping = s.housekeeping := by unfold setCtx; split <;> rfl
@[simp] theorem setCtx_withhold (s : State) (x : Ctx) : (s.setCtx x).withhold = s.withhold := by unfold setCtx; split <;> rfl
@[simp] theorem setCtx_withheldCarry (s : State) (x : Ctx) : (s.setCtx x).withheldCarry = s.withheldCarry := by unfold setCtx; split <;> rfl
@[simp] theorem setCtx_overspends (s : State) (x : Ctx) : (s.setCtx x).overspends = s.overspends := by unfold setCtx; split <;> rfl
@[simp] theorem setCtx_ballastOff (s : State) (x : Ctx) : (s.setCtx x).ballastOff = s.ballastOff := by unfold setCtx; split <;> rfl
@[simp] theorem setCtx_power (s : State) (x : Ctx) : (s.setCtx x).power = s.power := by unfold setCtx; split <;> rfl
@[simp] theorem setCtx_temps (s : State) (x : Ctx) : (s.setCtx x).temps = s.temps := by unfold setCtx; split <;> rfl
@[simp] theorem setCtx_badSensors (s : State) (x : Ctx) : (s.setCtx x).badSensors = s.badSensors := by unfold setCtx; split <;> rfl
@[simp] theorem setCtx_refreshRule (s : State) (x : Ctx) : (s.setCtx x).refreshRule = s.refreshRule := by unfold setCtx; split <;> rfl
@[simp] theorem setCtx_forced (s : State) (x : Ctx) : (s.setCtx x).forced = s.forced := by unfold setCtx; split <;> rfl
@[simp] theorem setCtx_issued (s : State) (x : Ctx) : (s.setCtx x).issued = s.issued := by unfold setCtx; split <;> rfl
@[simp] theorem setCtx_readySlots (s : State) (x : Ctx) : (s.setCtx x).readySlots = s.readySlots := by unfold setCtx; split <;> rfl
@[simp] theorem setCtx_cadPeriod (s : State) (x : Ctx) : (s.setCtx x).cadPeriod = s.cadPeriod := by unfold setCtx; split <;> rfl
@[simp] theorem setCtx_cadOnce (s : State) (x : Ctx) : (s.setCtx x).cadOnce = s.cadOnce := by unfold setCtx; split <;> rfl
@[simp] theorem setCtx_cadCount (s : State) (x : Ctx) : (s.setCtx x).cadCount = s.cadCount := by unfold setCtx; split <;> rfl
@[simp] theorem setCtx_cadDue (s : State) (x : Ctx) : (s.setCtx x).cadDue = s.cadDue := by unfold setCtx; split <;> rfl
@[simp] theorem setCtx_windows (s : State) (x : Ctx) : (s.setCtx x).windows = s.windows := by unfold setCtx; split <;> rfl
@[simp] theorem setCtx_mapGen (s : State) (x : Ctx) : (s.setCtx x).mapGen = s.mapGen := by unfold setCtx; split <;> rfl
@[simp] theorem setCtx_staged (s : State) (x : Ctx) : (s.setCtx x).staged = s.staged := by unfold setCtx; split <;> rfl
@[simp] theorem setCtx_images (s : State) (x : Ctx) : (s.setCtx x).images = s.images := by unfold setCtx; split <;> rfl
@[simp] theorem setCtx_boots (s : State) (x : Ctx) : (s.setCtx x).boots = s.boots := by unfold setCtx; split <;> rfl
@[simp] theorem setCtx_storage (s : State) (x : Ctx) : (s.setCtx x).storage = s.storage := by unfold setCtx; split <;> rfl

/-! ### updCtx changes the core table only -/

@[simp] theorem updCtx_curCore (s : State) (f : Ctx → Ctx) : (s.updCtx f).curCore = s.curCore := setCtx_curCore s _
@[simp] theorem updCtx_curWho (s : State) (f : Ctx → Ctx) : (s.updCtx f).curWho = s.curWho := setCtx_curWho s _
@[simp] theorem updCtx_agenda (s : State) (f : Ctx → Ctx) : (s.updCtx f).agenda = s.agenda := setCtx_agenda s _
@[simp] theorem updCtx_focus (s : State) (f : Ctx → Ctx) : (s.updCtx f).focus = s.focus := setCtx_focus s _
@[simp] theorem updCtx_waited (s : State) (f : Ctx → Ctx) : (s.updCtx f).waited = s.waited := setCtx_waited s _
@[simp] theorem updCtx_notes (s : State) (f : Ctx → Ctx) : (s.updCtx f).notes = s.notes := setCtx_notes s _
@[simp] theorem updCtx_cycle (s : State) (f : Ctx → Ctx) : (s.updCtx f).cycle = s.cycle := setCtx_cycle s _
@[simp] theorem updCtx_free (s : State) (f : Ctx → Ctx) : (s.updCtx f).free = s.free := setCtx_free s _
@[simp] theorem updCtx_mem (s : State) (f : Ctx → Ctx) : (s.updCtx f).mem = s.mem := setCtx_mem s _
@[simp] theorem updCtx_purses (s : State) (f : Ctx → Ctx) : (s.updCtx f).purses = s.purses := setCtx_purses s _
@[simp] theorem updCtx_fused (s : State) (f : Ctx → Ctx) : (s.updCtx f).fused = s.fused := setCtx_fused s _
@[simp] theorem updCtx_harvested (s : State) (f : Ctx → Ctx) : (s.updCtx f).harvested = s.harvested := setCtx_harvested s _
@[simp] theorem updCtx_lost (s : State) (f : Ctx → Ctx) : (s.updCtx f).lost = s.lost := setCtx_lost s _
@[simp] theorem updCtx_mtxBad (s : State) (f : Ctx → Ctx) : (s.updCtx f).mtxBad = s.mtxBad := setCtx_mtxBad s _
@[simp] theorem updCtx_octets (s : State) (f : Ctx → Ctx) : (s.updCtx f).octets = s.octets := setCtx_octets s _
@[simp] theorem updCtx_bad (s : State) (f : Ctx → Ctx) : (s.updCtx f).bad = s.bad := setCtx_bad s _
@[simp] theorem updCtx_weak (s : State) (f : Ctx → Ctx) : (s.updCtx f).weak = s.weak := setCtx_weak s _
@[simp] theorem updCtx_net (s : State) (f : Ctx → Ctx) : (s.updCtx f).net = s.net := setCtx_net s _
@[simp] theorem updCtx_dist (s : State) (f : Ctx → Ctx) : (s.updCtx f).dist = s.dist := setCtx_dist s _
@[simp] theorem updCtx_portA (s : State) (f : Ctx → Ctx) : (s.updCtx f).portA = s.portA := setCtx_portA s _
@[simp] theorem updCtx_portB (s : State) (f : Ctx → Ctx) : (s.updCtx f).portB = s.portB := setCtx_portB s _
@[simp] theorem updCtx_sems (s : State) (f : Ctx → Ctx) : (s.updCtx f).sems = s.sems := setCtx_sems s _
@[simp] theorem updCtx_plates (s : State) (f : Ctx → Ctx) : (s.updCtx f).plates = s.plates := setCtx_plates s _
@[simp] theorem updCtx_bootStep (s : State) (f : Ctx → Ctx) : (s.updCtx f).bootStep = s.bootStep := setCtx_bootStep s _
@[simp] theorem updCtx_bootStopped (s : State) (f : Ctx → Ctx) : (s.updCtx f).bootStopped = s.bootStopped := setCtx_bootStopped s _
@[simp] theorem updCtx_plateHub (s : State) (f : Ctx → Ctx) : (s.updCtx f).plateHub = s.plateHub := setCtx_plateHub s _
@[simp] theorem updCtx_powered (s : State) (f : Ctx → Ctx) : (s.updCtx f).powered = s.powered := setCtx_powered s _
@[simp] theorem updCtx_meshStopped (s : State) (f : Ctx → Ctx) : (s.updCtx f).meshStopped = s.meshStopped := setCtx_meshStopped s _
@[simp] theorem updCtx_logical (s : State) (f : Ctx → Ctx) : (s.updCtx f).logical = s.logical := setCtx_logical s _
@[simp] theorem updCtx_ncores (s : State) (f : Ctx → Ctx) : (s.updCtx f).ncores = s.ncores := setCtx_ncores s _
@[simp] theorem updCtx_modNo (s : State) (f : Ctx → Ctx) : (s.updCtx f).modNo = s.modNo := setCtx_modNo s _
@[simp] theorem updCtx_joined (s : State) (f : Ctx → Ctx) : (s.updCtx f).joined = s.joined := setCtx_joined s _
@[simp] theorem updCtx_routes (s : State) (f : Ctx → Ctx) : (s.updCtx f).routes = s.routes := setCtx_routes s _
@[simp] theorem updCtx_abroad (s : State) (f : Ctx → Ctx) : (s.updCtx f).abroad = s.abroad := setCtx_abroad s _
@[simp] theorem updCtx_linkKey (s : State) (f : Ctx → Ctx) : (s.updCtx f).linkKey = s.linkKey := setCtx_linkKey s _
@[simp] theorem updCtx_rimNext (s : State) (f : Ctx → Ctx) : (s.updCtx f).rimNext = s.rimNext := setCtx_rimNext s _
@[simp] theorem updCtx_links (s : State) (f : Ctx → Ctx) : (s.updCtx f).links = s.links := setCtx_links s _
@[simp] theorem updCtx_keys (s : State) (f : Ctx → Ctx) : (s.updCtx f).keys = s.keys := setCtx_keys s _
@[simp] theorem updCtx_tick (s : State) (f : Ctx → Ctx) : (s.updCtx f).tick = s.tick := setCtx_tick s _
@[simp] theorem updCtx_cap (s : State) (f : Ctx → Ctx) : (s.updCtx f).cap = s.cap := setCtx_cap s _
@[simp] theorem updCtx_capNext (s : State) (f : Ctx → Ctx) : (s.updCtx f).capNext = s.capNext := setCtx_capNext s _
@[simp] theorem updCtx_capSet (s : State) (f : Ctx → Ctx) : (s.updCtx f).capSet = s.capSet := setCtx_capSet s _
@[simp] theorem updCtx_coolantLow (s : State) (f : Ctx → Ctx) : (s.updCtx f).coolantLow = s.coolantLow := setCtx_coolantLow s _
@[simp] theorem updCtx_coolant (s : State) (f : Ctx → Ctx) : (s.updCtx f).coolant = s.coolant := setCtx_coolant s _
@[simp] theorem updCtx_coolantTick (s : State) (f : Ctx → Ctx) : (s.updCtx f).coolantTick = s.coolantTick := setCtx_coolantTick s _
@[simp] theorem updCtx_coolantBack (s : State) (f : Ctx → Ctx) : (s.updCtx f).coolantBack = s.coolantBack := setCtx_coolantBack s _
@[simp] theorem updCtx_housekeeping (s : State) (f : Ctx → Ctx) : (s.updCtx f).housekeeping = s.housekeeping := setCtx_housekeeping s _
@[simp] theorem updCtx_withhold (s : State) (f : Ctx → Ctx) : (s.updCtx f).withhold = s.withhold := setCtx_withhold s _
@[simp] theorem updCtx_withheldCarry (s : State) (f : Ctx → Ctx) : (s.updCtx f).withheldCarry = s.withheldCarry := setCtx_withheldCarry s _
@[simp] theorem updCtx_overspends (s : State) (f : Ctx → Ctx) : (s.updCtx f).overspends = s.overspends := setCtx_overspends s _
@[simp] theorem updCtx_ballastOff (s : State) (f : Ctx → Ctx) : (s.updCtx f).ballastOff = s.ballastOff := setCtx_ballastOff s _
@[simp] theorem updCtx_power (s : State) (f : Ctx → Ctx) : (s.updCtx f).power = s.power := setCtx_power s _
@[simp] theorem updCtx_temps (s : State) (f : Ctx → Ctx) : (s.updCtx f).temps = s.temps := setCtx_temps s _
@[simp] theorem updCtx_badSensors (s : State) (f : Ctx → Ctx) : (s.updCtx f).badSensors = s.badSensors := setCtx_badSensors s _
@[simp] theorem updCtx_refreshRule (s : State) (f : Ctx → Ctx) : (s.updCtx f).refreshRule = s.refreshRule := setCtx_refreshRule s _
@[simp] theorem updCtx_forced (s : State) (f : Ctx → Ctx) : (s.updCtx f).forced = s.forced := setCtx_forced s _
@[simp] theorem updCtx_issued (s : State) (f : Ctx → Ctx) : (s.updCtx f).issued = s.issued := setCtx_issued s _
@[simp] theorem updCtx_readySlots (s : State) (f : Ctx → Ctx) : (s.updCtx f).readySlots = s.readySlots := setCtx_readySlots s _
@[simp] theorem updCtx_cadPeriod (s : State) (f : Ctx → Ctx) : (s.updCtx f).cadPeriod = s.cadPeriod := setCtx_cadPeriod s _
@[simp] theorem updCtx_cadOnce (s : State) (f : Ctx → Ctx) : (s.updCtx f).cadOnce = s.cadOnce := setCtx_cadOnce s _
@[simp] theorem updCtx_cadCount (s : State) (f : Ctx → Ctx) : (s.updCtx f).cadCount = s.cadCount := setCtx_cadCount s _
@[simp] theorem updCtx_cadDue (s : State) (f : Ctx → Ctx) : (s.updCtx f).cadDue = s.cadDue := setCtx_cadDue s _
@[simp] theorem updCtx_windows (s : State) (f : Ctx → Ctx) : (s.updCtx f).windows = s.windows := setCtx_windows s _
@[simp] theorem updCtx_mapGen (s : State) (f : Ctx → Ctx) : (s.updCtx f).mapGen = s.mapGen := setCtx_mapGen s _
@[simp] theorem updCtx_staged (s : State) (f : Ctx → Ctx) : (s.updCtx f).staged = s.staged := setCtx_staged s _
@[simp] theorem updCtx_images (s : State) (f : Ctx → Ctx) : (s.updCtx f).images = s.images := setCtx_images s _
@[simp] theorem updCtx_boots (s : State) (f : Ctx → Ctx) : (s.updCtx f).boots = s.boots := setCtx_boots s _
@[simp] theorem updCtx_storage (s : State) (f : Ctx → Ctx) : (s.updCtx f).storage = s.storage := setCtx_storage s _

/-! ### setPc changes the core table only -/

@[simp] theorem setPc_curCore (s : State) (x : BitVec 15) : (s.setPc x).curCore = s.curCore := setCtx_curCore s _
@[simp] theorem setPc_curWho (s : State) (x : BitVec 15) : (s.setPc x).curWho = s.curWho := setCtx_curWho s _
@[simp] theorem setPc_agenda (s : State) (x : BitVec 15) : (s.setPc x).agenda = s.agenda := setCtx_agenda s _
@[simp] theorem setPc_focus (s : State) (x : BitVec 15) : (s.setPc x).focus = s.focus := setCtx_focus s _
@[simp] theorem setPc_waited (s : State) (x : BitVec 15) : (s.setPc x).waited = s.waited := setCtx_waited s _
@[simp] theorem setPc_notes (s : State) (x : BitVec 15) : (s.setPc x).notes = s.notes := setCtx_notes s _
@[simp] theorem setPc_cycle (s : State) (x : BitVec 15) : (s.setPc x).cycle = s.cycle := setCtx_cycle s _
@[simp] theorem setPc_free (s : State) (x : BitVec 15) : (s.setPc x).free = s.free := setCtx_free s _
@[simp] theorem setPc_mem (s : State) (x : BitVec 15) : (s.setPc x).mem = s.mem := setCtx_mem s _
@[simp] theorem setPc_purses (s : State) (x : BitVec 15) : (s.setPc x).purses = s.purses := setCtx_purses s _
@[simp] theorem setPc_fused (s : State) (x : BitVec 15) : (s.setPc x).fused = s.fused := setCtx_fused s _
@[simp] theorem setPc_harvested (s : State) (x : BitVec 15) : (s.setPc x).harvested = s.harvested := setCtx_harvested s _
@[simp] theorem setPc_lost (s : State) (x : BitVec 15) : (s.setPc x).lost = s.lost := setCtx_lost s _
@[simp] theorem setPc_mtxBad (s : State) (x : BitVec 15) : (s.setPc x).mtxBad = s.mtxBad := setCtx_mtxBad s _
@[simp] theorem setPc_octets (s : State) (x : BitVec 15) : (s.setPc x).octets = s.octets := setCtx_octets s _
@[simp] theorem setPc_bad (s : State) (x : BitVec 15) : (s.setPc x).bad = s.bad := setCtx_bad s _
@[simp] theorem setPc_weak (s : State) (x : BitVec 15) : (s.setPc x).weak = s.weak := setCtx_weak s _
@[simp] theorem setPc_net (s : State) (x : BitVec 15) : (s.setPc x).net = s.net := setCtx_net s _
@[simp] theorem setPc_dist (s : State) (x : BitVec 15) : (s.setPc x).dist = s.dist := setCtx_dist s _
@[simp] theorem setPc_portA (s : State) (x : BitVec 15) : (s.setPc x).portA = s.portA := setCtx_portA s _
@[simp] theorem setPc_portB (s : State) (x : BitVec 15) : (s.setPc x).portB = s.portB := setCtx_portB s _
@[simp] theorem setPc_sems (s : State) (x : BitVec 15) : (s.setPc x).sems = s.sems := setCtx_sems s _
@[simp] theorem setPc_plates (s : State) (x : BitVec 15) : (s.setPc x).plates = s.plates := setCtx_plates s _
@[simp] theorem setPc_bootStep (s : State) (x : BitVec 15) : (s.setPc x).bootStep = s.bootStep := setCtx_bootStep s _
@[simp] theorem setPc_bootStopped (s : State) (x : BitVec 15) : (s.setPc x).bootStopped = s.bootStopped := setCtx_bootStopped s _
@[simp] theorem setPc_plateHub (s : State) (x : BitVec 15) : (s.setPc x).plateHub = s.plateHub := setCtx_plateHub s _
@[simp] theorem setPc_powered (s : State) (x : BitVec 15) : (s.setPc x).powered = s.powered := setCtx_powered s _
@[simp] theorem setPc_meshStopped (s : State) (x : BitVec 15) : (s.setPc x).meshStopped = s.meshStopped := setCtx_meshStopped s _
@[simp] theorem setPc_logical (s : State) (x : BitVec 15) : (s.setPc x).logical = s.logical := setCtx_logical s _
@[simp] theorem setPc_ncores (s : State) (x : BitVec 15) : (s.setPc x).ncores = s.ncores := setCtx_ncores s _
@[simp] theorem setPc_modNo (s : State) (x : BitVec 15) : (s.setPc x).modNo = s.modNo := setCtx_modNo s _
@[simp] theorem setPc_joined (s : State) (x : BitVec 15) : (s.setPc x).joined = s.joined := setCtx_joined s _
@[simp] theorem setPc_routes (s : State) (x : BitVec 15) : (s.setPc x).routes = s.routes := setCtx_routes s _
@[simp] theorem setPc_abroad (s : State) (x : BitVec 15) : (s.setPc x).abroad = s.abroad := setCtx_abroad s _
@[simp] theorem setPc_linkKey (s : State) (x : BitVec 15) : (s.setPc x).linkKey = s.linkKey := setCtx_linkKey s _
@[simp] theorem setPc_rimNext (s : State) (x : BitVec 15) : (s.setPc x).rimNext = s.rimNext := setCtx_rimNext s _
@[simp] theorem setPc_links (s : State) (x : BitVec 15) : (s.setPc x).links = s.links := setCtx_links s _
@[simp] theorem setPc_keys (s : State) (x : BitVec 15) : (s.setPc x).keys = s.keys := setCtx_keys s _
@[simp] theorem setPc_tick (s : State) (x : BitVec 15) : (s.setPc x).tick = s.tick := setCtx_tick s _
@[simp] theorem setPc_cap (s : State) (x : BitVec 15) : (s.setPc x).cap = s.cap := setCtx_cap s _
@[simp] theorem setPc_capNext (s : State) (x : BitVec 15) : (s.setPc x).capNext = s.capNext := setCtx_capNext s _
@[simp] theorem setPc_capSet (s : State) (x : BitVec 15) : (s.setPc x).capSet = s.capSet := setCtx_capSet s _
@[simp] theorem setPc_coolantLow (s : State) (x : BitVec 15) : (s.setPc x).coolantLow = s.coolantLow := setCtx_coolantLow s _
@[simp] theorem setPc_coolant (s : State) (x : BitVec 15) : (s.setPc x).coolant = s.coolant := setCtx_coolant s _
@[simp] theorem setPc_coolantTick (s : State) (x : BitVec 15) : (s.setPc x).coolantTick = s.coolantTick := setCtx_coolantTick s _
@[simp] theorem setPc_coolantBack (s : State) (x : BitVec 15) : (s.setPc x).coolantBack = s.coolantBack := setCtx_coolantBack s _
@[simp] theorem setPc_housekeeping (s : State) (x : BitVec 15) : (s.setPc x).housekeeping = s.housekeeping := setCtx_housekeeping s _
@[simp] theorem setPc_withhold (s : State) (x : BitVec 15) : (s.setPc x).withhold = s.withhold := setCtx_withhold s _
@[simp] theorem setPc_withheldCarry (s : State) (x : BitVec 15) : (s.setPc x).withheldCarry = s.withheldCarry := setCtx_withheldCarry s _
@[simp] theorem setPc_overspends (s : State) (x : BitVec 15) : (s.setPc x).overspends = s.overspends := setCtx_overspends s _
@[simp] theorem setPc_ballastOff (s : State) (x : BitVec 15) : (s.setPc x).ballastOff = s.ballastOff := setCtx_ballastOff s _
@[simp] theorem setPc_power (s : State) (x : BitVec 15) : (s.setPc x).power = s.power := setCtx_power s _
@[simp] theorem setPc_temps (s : State) (x : BitVec 15) : (s.setPc x).temps = s.temps := setCtx_temps s _
@[simp] theorem setPc_badSensors (s : State) (x : BitVec 15) : (s.setPc x).badSensors = s.badSensors := setCtx_badSensors s _
@[simp] theorem setPc_refreshRule (s : State) (x : BitVec 15) : (s.setPc x).refreshRule = s.refreshRule := setCtx_refreshRule s _
@[simp] theorem setPc_forced (s : State) (x : BitVec 15) : (s.setPc x).forced = s.forced := setCtx_forced s _
@[simp] theorem setPc_issued (s : State) (x : BitVec 15) : (s.setPc x).issued = s.issued := setCtx_issued s _
@[simp] theorem setPc_readySlots (s : State) (x : BitVec 15) : (s.setPc x).readySlots = s.readySlots := setCtx_readySlots s _
@[simp] theorem setPc_cadPeriod (s : State) (x : BitVec 15) : (s.setPc x).cadPeriod = s.cadPeriod := setCtx_cadPeriod s _
@[simp] theorem setPc_cadOnce (s : State) (x : BitVec 15) : (s.setPc x).cadOnce = s.cadOnce := setCtx_cadOnce s _
@[simp] theorem setPc_cadCount (s : State) (x : BitVec 15) : (s.setPc x).cadCount = s.cadCount := setCtx_cadCount s _
@[simp] theorem setPc_cadDue (s : State) (x : BitVec 15) : (s.setPc x).cadDue = s.cadDue := setCtx_cadDue s _
@[simp] theorem setPc_windows (s : State) (x : BitVec 15) : (s.setPc x).windows = s.windows := setCtx_windows s _
@[simp] theorem setPc_mapGen (s : State) (x : BitVec 15) : (s.setPc x).mapGen = s.mapGen := setCtx_mapGen s _
@[simp] theorem setPc_staged (s : State) (x : BitVec 15) : (s.setPc x).staged = s.staged := setCtx_staged s _
@[simp] theorem setPc_images (s : State) (x : BitVec 15) : (s.setPc x).images = s.images := setCtx_images s _
@[simp] theorem setPc_boots (s : State) (x : BitVec 15) : (s.setPc x).boots = s.boots := setCtx_boots s _
@[simp] theorem setPc_storage (s : State) (x : BitVec 15) : (s.setPc x).storage = s.storage := setCtx_storage s _

/-! ### setV changes the core table only -/

@[simp] theorem setV_curCore (s : State) (i : BitVec 5) (x : Row) : (s.setV i x).curCore = s.curCore := setCtx_curCore s _
@[simp] theorem setV_curWho (s : State) (i : BitVec 5) (x : Row) : (s.setV i x).curWho = s.curWho := setCtx_curWho s _
@[simp] theorem setV_agenda (s : State) (i : BitVec 5) (x : Row) : (s.setV i x).agenda = s.agenda := setCtx_agenda s _
@[simp] theorem setV_focus (s : State) (i : BitVec 5) (x : Row) : (s.setV i x).focus = s.focus := setCtx_focus s _
@[simp] theorem setV_waited (s : State) (i : BitVec 5) (x : Row) : (s.setV i x).waited = s.waited := setCtx_waited s _
@[simp] theorem setV_notes (s : State) (i : BitVec 5) (x : Row) : (s.setV i x).notes = s.notes := setCtx_notes s _
@[simp] theorem setV_cycle (s : State) (i : BitVec 5) (x : Row) : (s.setV i x).cycle = s.cycle := setCtx_cycle s _
@[simp] theorem setV_free (s : State) (i : BitVec 5) (x : Row) : (s.setV i x).free = s.free := setCtx_free s _
@[simp] theorem setV_mem (s : State) (i : BitVec 5) (x : Row) : (s.setV i x).mem = s.mem := setCtx_mem s _
@[simp] theorem setV_purses (s : State) (i : BitVec 5) (x : Row) : (s.setV i x).purses = s.purses := setCtx_purses s _
@[simp] theorem setV_fused (s : State) (i : BitVec 5) (x : Row) : (s.setV i x).fused = s.fused := setCtx_fused s _
@[simp] theorem setV_harvested (s : State) (i : BitVec 5) (x : Row) : (s.setV i x).harvested = s.harvested := setCtx_harvested s _
@[simp] theorem setV_lost (s : State) (i : BitVec 5) (x : Row) : (s.setV i x).lost = s.lost := setCtx_lost s _
@[simp] theorem setV_mtxBad (s : State) (i : BitVec 5) (x : Row) : (s.setV i x).mtxBad = s.mtxBad := setCtx_mtxBad s _
@[simp] theorem setV_octets (s : State) (i : BitVec 5) (x : Row) : (s.setV i x).octets = s.octets := setCtx_octets s _
@[simp] theorem setV_bad (s : State) (i : BitVec 5) (x : Row) : (s.setV i x).bad = s.bad := setCtx_bad s _
@[simp] theorem setV_weak (s : State) (i : BitVec 5) (x : Row) : (s.setV i x).weak = s.weak := setCtx_weak s _
@[simp] theorem setV_net (s : State) (i : BitVec 5) (x : Row) : (s.setV i x).net = s.net := setCtx_net s _
@[simp] theorem setV_dist (s : State) (i : BitVec 5) (x : Row) : (s.setV i x).dist = s.dist := setCtx_dist s _
@[simp] theorem setV_portA (s : State) (i : BitVec 5) (x : Row) : (s.setV i x).portA = s.portA := setCtx_portA s _
@[simp] theorem setV_portB (s : State) (i : BitVec 5) (x : Row) : (s.setV i x).portB = s.portB := setCtx_portB s _
@[simp] theorem setV_sems (s : State) (i : BitVec 5) (x : Row) : (s.setV i x).sems = s.sems := setCtx_sems s _
@[simp] theorem setV_plates (s : State) (i : BitVec 5) (x : Row) : (s.setV i x).plates = s.plates := setCtx_plates s _
@[simp] theorem setV_bootStep (s : State) (i : BitVec 5) (x : Row) : (s.setV i x).bootStep = s.bootStep := setCtx_bootStep s _
@[simp] theorem setV_bootStopped (s : State) (i : BitVec 5) (x : Row) : (s.setV i x).bootStopped = s.bootStopped := setCtx_bootStopped s _
@[simp] theorem setV_plateHub (s : State) (i : BitVec 5) (x : Row) : (s.setV i x).plateHub = s.plateHub := setCtx_plateHub s _
@[simp] theorem setV_powered (s : State) (i : BitVec 5) (x : Row) : (s.setV i x).powered = s.powered := setCtx_powered s _
@[simp] theorem setV_meshStopped (s : State) (i : BitVec 5) (x : Row) : (s.setV i x).meshStopped = s.meshStopped := setCtx_meshStopped s _
@[simp] theorem setV_logical (s : State) (i : BitVec 5) (x : Row) : (s.setV i x).logical = s.logical := setCtx_logical s _
@[simp] theorem setV_ncores (s : State) (i : BitVec 5) (x : Row) : (s.setV i x).ncores = s.ncores := setCtx_ncores s _
@[simp] theorem setV_modNo (s : State) (i : BitVec 5) (x : Row) : (s.setV i x).modNo = s.modNo := setCtx_modNo s _
@[simp] theorem setV_joined (s : State) (i : BitVec 5) (x : Row) : (s.setV i x).joined = s.joined := setCtx_joined s _
@[simp] theorem setV_routes (s : State) (i : BitVec 5) (x : Row) : (s.setV i x).routes = s.routes := setCtx_routes s _
@[simp] theorem setV_abroad (s : State) (i : BitVec 5) (x : Row) : (s.setV i x).abroad = s.abroad := setCtx_abroad s _
@[simp] theorem setV_linkKey (s : State) (i : BitVec 5) (x : Row) : (s.setV i x).linkKey = s.linkKey := setCtx_linkKey s _
@[simp] theorem setV_rimNext (s : State) (i : BitVec 5) (x : Row) : (s.setV i x).rimNext = s.rimNext := setCtx_rimNext s _
@[simp] theorem setV_links (s : State) (i : BitVec 5) (x : Row) : (s.setV i x).links = s.links := setCtx_links s _
@[simp] theorem setV_keys (s : State) (i : BitVec 5) (x : Row) : (s.setV i x).keys = s.keys := setCtx_keys s _
@[simp] theorem setV_tick (s : State) (i : BitVec 5) (x : Row) : (s.setV i x).tick = s.tick := setCtx_tick s _
@[simp] theorem setV_cap (s : State) (i : BitVec 5) (x : Row) : (s.setV i x).cap = s.cap := setCtx_cap s _
@[simp] theorem setV_capNext (s : State) (i : BitVec 5) (x : Row) : (s.setV i x).capNext = s.capNext := setCtx_capNext s _
@[simp] theorem setV_capSet (s : State) (i : BitVec 5) (x : Row) : (s.setV i x).capSet = s.capSet := setCtx_capSet s _
@[simp] theorem setV_coolantLow (s : State) (i : BitVec 5) (x : Row) : (s.setV i x).coolantLow = s.coolantLow := setCtx_coolantLow s _
@[simp] theorem setV_coolant (s : State) (i : BitVec 5) (x : Row) : (s.setV i x).coolant = s.coolant := setCtx_coolant s _
@[simp] theorem setV_coolantTick (s : State) (i : BitVec 5) (x : Row) : (s.setV i x).coolantTick = s.coolantTick := setCtx_coolantTick s _
@[simp] theorem setV_coolantBack (s : State) (i : BitVec 5) (x : Row) : (s.setV i x).coolantBack = s.coolantBack := setCtx_coolantBack s _
@[simp] theorem setV_housekeeping (s : State) (i : BitVec 5) (x : Row) : (s.setV i x).housekeeping = s.housekeeping := setCtx_housekeeping s _
@[simp] theorem setV_withhold (s : State) (i : BitVec 5) (x : Row) : (s.setV i x).withhold = s.withhold := setCtx_withhold s _
@[simp] theorem setV_withheldCarry (s : State) (i : BitVec 5) (x : Row) : (s.setV i x).withheldCarry = s.withheldCarry := setCtx_withheldCarry s _
@[simp] theorem setV_overspends (s : State) (i : BitVec 5) (x : Row) : (s.setV i x).overspends = s.overspends := setCtx_overspends s _
@[simp] theorem setV_ballastOff (s : State) (i : BitVec 5) (x : Row) : (s.setV i x).ballastOff = s.ballastOff := setCtx_ballastOff s _
@[simp] theorem setV_power (s : State) (i : BitVec 5) (x : Row) : (s.setV i x).power = s.power := setCtx_power s _
@[simp] theorem setV_temps (s : State) (i : BitVec 5) (x : Row) : (s.setV i x).temps = s.temps := setCtx_temps s _
@[simp] theorem setV_badSensors (s : State) (i : BitVec 5) (x : Row) : (s.setV i x).badSensors = s.badSensors := setCtx_badSensors s _
@[simp] theorem setV_refreshRule (s : State) (i : BitVec 5) (x : Row) : (s.setV i x).refreshRule = s.refreshRule := setCtx_refreshRule s _
@[simp] theorem setV_forced (s : State) (i : BitVec 5) (x : Row) : (s.setV i x).forced = s.forced := setCtx_forced s _
@[simp] theorem setV_issued (s : State) (i : BitVec 5) (x : Row) : (s.setV i x).issued = s.issued := setCtx_issued s _
@[simp] theorem setV_readySlots (s : State) (i : BitVec 5) (x : Row) : (s.setV i x).readySlots = s.readySlots := setCtx_readySlots s _
@[simp] theorem setV_cadPeriod (s : State) (i : BitVec 5) (x : Row) : (s.setV i x).cadPeriod = s.cadPeriod := setCtx_cadPeriod s _
@[simp] theorem setV_cadOnce (s : State) (i : BitVec 5) (x : Row) : (s.setV i x).cadOnce = s.cadOnce := setCtx_cadOnce s _
@[simp] theorem setV_cadCount (s : State) (i : BitVec 5) (x : Row) : (s.setV i x).cadCount = s.cadCount := setCtx_cadCount s _
@[simp] theorem setV_cadDue (s : State) (i : BitVec 5) (x : Row) : (s.setV i x).cadDue = s.cadDue := setCtx_cadDue s _
@[simp] theorem setV_windows (s : State) (i : BitVec 5) (x : Row) : (s.setV i x).windows = s.windows := setCtx_windows s _
@[simp] theorem setV_mapGen (s : State) (i : BitVec 5) (x : Row) : (s.setV i x).mapGen = s.mapGen := setCtx_mapGen s _
@[simp] theorem setV_staged (s : State) (i : BitVec 5) (x : Row) : (s.setV i x).staged = s.staged := setCtx_staged s _
@[simp] theorem setV_images (s : State) (i : BitVec 5) (x : Row) : (s.setV i x).images = s.images := setCtx_images s _
@[simp] theorem setV_boots (s : State) (i : BitVec 5) (x : Row) : (s.setV i x).boots = s.boots := setCtx_boots s _
@[simp] theorem setV_storage (s : State) (i : BitVec 5) (x : Row) : (s.setV i x).storage = s.storage := setCtx_storage s _

/-! ### raise changes the core table only -/

@[simp] theorem raise_curCore (s : State) (x : FpFlags) : (s.raise x).curCore = s.curCore := setCtx_curCore s _
@[simp] theorem raise_curWho (s : State) (x : FpFlags) : (s.raise x).curWho = s.curWho := setCtx_curWho s _
@[simp] theorem raise_agenda (s : State) (x : FpFlags) : (s.raise x).agenda = s.agenda := setCtx_agenda s _
@[simp] theorem raise_focus (s : State) (x : FpFlags) : (s.raise x).focus = s.focus := setCtx_focus s _
@[simp] theorem raise_waited (s : State) (x : FpFlags) : (s.raise x).waited = s.waited := setCtx_waited s _
@[simp] theorem raise_notes (s : State) (x : FpFlags) : (s.raise x).notes = s.notes := setCtx_notes s _
@[simp] theorem raise_cycle (s : State) (x : FpFlags) : (s.raise x).cycle = s.cycle := setCtx_cycle s _
@[simp] theorem raise_free (s : State) (x : FpFlags) : (s.raise x).free = s.free := setCtx_free s _
@[simp] theorem raise_mem (s : State) (x : FpFlags) : (s.raise x).mem = s.mem := setCtx_mem s _
@[simp] theorem raise_purses (s : State) (x : FpFlags) : (s.raise x).purses = s.purses := setCtx_purses s _
@[simp] theorem raise_fused (s : State) (x : FpFlags) : (s.raise x).fused = s.fused := setCtx_fused s _
@[simp] theorem raise_harvested (s : State) (x : FpFlags) : (s.raise x).harvested = s.harvested := setCtx_harvested s _
@[simp] theorem raise_lost (s : State) (x : FpFlags) : (s.raise x).lost = s.lost := setCtx_lost s _
@[simp] theorem raise_mtxBad (s : State) (x : FpFlags) : (s.raise x).mtxBad = s.mtxBad := setCtx_mtxBad s _
@[simp] theorem raise_octets (s : State) (x : FpFlags) : (s.raise x).octets = s.octets := setCtx_octets s _
@[simp] theorem raise_bad (s : State) (x : FpFlags) : (s.raise x).bad = s.bad := setCtx_bad s _
@[simp] theorem raise_weak (s : State) (x : FpFlags) : (s.raise x).weak = s.weak := setCtx_weak s _
@[simp] theorem raise_net (s : State) (x : FpFlags) : (s.raise x).net = s.net := setCtx_net s _
@[simp] theorem raise_dist (s : State) (x : FpFlags) : (s.raise x).dist = s.dist := setCtx_dist s _
@[simp] theorem raise_portA (s : State) (x : FpFlags) : (s.raise x).portA = s.portA := setCtx_portA s _
@[simp] theorem raise_portB (s : State) (x : FpFlags) : (s.raise x).portB = s.portB := setCtx_portB s _
@[simp] theorem raise_sems (s : State) (x : FpFlags) : (s.raise x).sems = s.sems := setCtx_sems s _
@[simp] theorem raise_plates (s : State) (x : FpFlags) : (s.raise x).plates = s.plates := setCtx_plates s _
@[simp] theorem raise_bootStep (s : State) (x : FpFlags) : (s.raise x).bootStep = s.bootStep := setCtx_bootStep s _
@[simp] theorem raise_bootStopped (s : State) (x : FpFlags) : (s.raise x).bootStopped = s.bootStopped := setCtx_bootStopped s _
@[simp] theorem raise_plateHub (s : State) (x : FpFlags) : (s.raise x).plateHub = s.plateHub := setCtx_plateHub s _
@[simp] theorem raise_powered (s : State) (x : FpFlags) : (s.raise x).powered = s.powered := setCtx_powered s _
@[simp] theorem raise_meshStopped (s : State) (x : FpFlags) : (s.raise x).meshStopped = s.meshStopped := setCtx_meshStopped s _
@[simp] theorem raise_logical (s : State) (x : FpFlags) : (s.raise x).logical = s.logical := setCtx_logical s _
@[simp] theorem raise_ncores (s : State) (x : FpFlags) : (s.raise x).ncores = s.ncores := setCtx_ncores s _
@[simp] theorem raise_modNo (s : State) (x : FpFlags) : (s.raise x).modNo = s.modNo := setCtx_modNo s _
@[simp] theorem raise_joined (s : State) (x : FpFlags) : (s.raise x).joined = s.joined := setCtx_joined s _
@[simp] theorem raise_routes (s : State) (x : FpFlags) : (s.raise x).routes = s.routes := setCtx_routes s _
@[simp] theorem raise_abroad (s : State) (x : FpFlags) : (s.raise x).abroad = s.abroad := setCtx_abroad s _
@[simp] theorem raise_linkKey (s : State) (x : FpFlags) : (s.raise x).linkKey = s.linkKey := setCtx_linkKey s _
@[simp] theorem raise_rimNext (s : State) (x : FpFlags) : (s.raise x).rimNext = s.rimNext := setCtx_rimNext s _
@[simp] theorem raise_links (s : State) (x : FpFlags) : (s.raise x).links = s.links := setCtx_links s _
@[simp] theorem raise_keys (s : State) (x : FpFlags) : (s.raise x).keys = s.keys := setCtx_keys s _
@[simp] theorem raise_tick (s : State) (x : FpFlags) : (s.raise x).tick = s.tick := setCtx_tick s _
@[simp] theorem raise_cap (s : State) (x : FpFlags) : (s.raise x).cap = s.cap := setCtx_cap s _
@[simp] theorem raise_capNext (s : State) (x : FpFlags) : (s.raise x).capNext = s.capNext := setCtx_capNext s _
@[simp] theorem raise_capSet (s : State) (x : FpFlags) : (s.raise x).capSet = s.capSet := setCtx_capSet s _
@[simp] theorem raise_coolantLow (s : State) (x : FpFlags) : (s.raise x).coolantLow = s.coolantLow := setCtx_coolantLow s _
@[simp] theorem raise_coolant (s : State) (x : FpFlags) : (s.raise x).coolant = s.coolant := setCtx_coolant s _
@[simp] theorem raise_coolantTick (s : State) (x : FpFlags) : (s.raise x).coolantTick = s.coolantTick := setCtx_coolantTick s _
@[simp] theorem raise_coolantBack (s : State) (x : FpFlags) : (s.raise x).coolantBack = s.coolantBack := setCtx_coolantBack s _
@[simp] theorem raise_housekeeping (s : State) (x : FpFlags) : (s.raise x).housekeeping = s.housekeeping := setCtx_housekeeping s _
@[simp] theorem raise_withhold (s : State) (x : FpFlags) : (s.raise x).withhold = s.withhold := setCtx_withhold s _
@[simp] theorem raise_withheldCarry (s : State) (x : FpFlags) : (s.raise x).withheldCarry = s.withheldCarry := setCtx_withheldCarry s _
@[simp] theorem raise_overspends (s : State) (x : FpFlags) : (s.raise x).overspends = s.overspends := setCtx_overspends s _
@[simp] theorem raise_ballastOff (s : State) (x : FpFlags) : (s.raise x).ballastOff = s.ballastOff := setCtx_ballastOff s _
@[simp] theorem raise_power (s : State) (x : FpFlags) : (s.raise x).power = s.power := setCtx_power s _
@[simp] theorem raise_temps (s : State) (x : FpFlags) : (s.raise x).temps = s.temps := setCtx_temps s _
@[simp] theorem raise_badSensors (s : State) (x : FpFlags) : (s.raise x).badSensors = s.badSensors := setCtx_badSensors s _
@[simp] theorem raise_refreshRule (s : State) (x : FpFlags) : (s.raise x).refreshRule = s.refreshRule := setCtx_refreshRule s _
@[simp] theorem raise_forced (s : State) (x : FpFlags) : (s.raise x).forced = s.forced := setCtx_forced s _
@[simp] theorem raise_issued (s : State) (x : FpFlags) : (s.raise x).issued = s.issued := setCtx_issued s _
@[simp] theorem raise_readySlots (s : State) (x : FpFlags) : (s.raise x).readySlots = s.readySlots := setCtx_readySlots s _
@[simp] theorem raise_cadPeriod (s : State) (x : FpFlags) : (s.raise x).cadPeriod = s.cadPeriod := setCtx_cadPeriod s _
@[simp] theorem raise_cadOnce (s : State) (x : FpFlags) : (s.raise x).cadOnce = s.cadOnce := setCtx_cadOnce s _
@[simp] theorem raise_cadCount (s : State) (x : FpFlags) : (s.raise x).cadCount = s.cadCount := setCtx_cadCount s _
@[simp] theorem raise_cadDue (s : State) (x : FpFlags) : (s.raise x).cadDue = s.cadDue := setCtx_cadDue s _
@[simp] theorem raise_windows (s : State) (x : FpFlags) : (s.raise x).windows = s.windows := setCtx_windows s _
@[simp] theorem raise_mapGen (s : State) (x : FpFlags) : (s.raise x).mapGen = s.mapGen := setCtx_mapGen s _
@[simp] theorem raise_staged (s : State) (x : FpFlags) : (s.raise x).staged = s.staged := setCtx_staged s _
@[simp] theorem raise_images (s : State) (x : FpFlags) : (s.raise x).images = s.images := setCtx_images s _
@[simp] theorem raise_boots (s : State) (x : FpFlags) : (s.raise x).boots = s.boots := setCtx_boots s _
@[simp] theorem raise_storage (s : State) (x : FpFlags) : (s.raise x).storage = s.storage := setCtx_storage s _

/-! ### setG changes the core table only -/

@[simp] theorem setG_curCore (s : State) (i : BitVec 5) (x : Word) : (s.setG i x).curCore = s.curCore := setCtx_curCore s _
@[simp] theorem setG_curWho (s : State) (i : BitVec 5) (x : Word) : (s.setG i x).curWho = s.curWho := setCtx_curWho s _
@[simp] theorem setG_agenda (s : State) (i : BitVec 5) (x : Word) : (s.setG i x).agenda = s.agenda := setCtx_agenda s _
@[simp] theorem setG_focus (s : State) (i : BitVec 5) (x : Word) : (s.setG i x).focus = s.focus := setCtx_focus s _
@[simp] theorem setG_waited (s : State) (i : BitVec 5) (x : Word) : (s.setG i x).waited = s.waited := setCtx_waited s _
@[simp] theorem setG_notes (s : State) (i : BitVec 5) (x : Word) : (s.setG i x).notes = s.notes := setCtx_notes s _
@[simp] theorem setG_cycle (s : State) (i : BitVec 5) (x : Word) : (s.setG i x).cycle = s.cycle := setCtx_cycle s _
@[simp] theorem setG_free (s : State) (i : BitVec 5) (x : Word) : (s.setG i x).free = s.free := setCtx_free s _
@[simp] theorem setG_mem (s : State) (i : BitVec 5) (x : Word) : (s.setG i x).mem = s.mem := setCtx_mem s _
@[simp] theorem setG_purses (s : State) (i : BitVec 5) (x : Word) : (s.setG i x).purses = s.purses := setCtx_purses s _
@[simp] theorem setG_fused (s : State) (i : BitVec 5) (x : Word) : (s.setG i x).fused = s.fused := setCtx_fused s _
@[simp] theorem setG_harvested (s : State) (i : BitVec 5) (x : Word) : (s.setG i x).harvested = s.harvested := setCtx_harvested s _
@[simp] theorem setG_lost (s : State) (i : BitVec 5) (x : Word) : (s.setG i x).lost = s.lost := setCtx_lost s _
@[simp] theorem setG_mtxBad (s : State) (i : BitVec 5) (x : Word) : (s.setG i x).mtxBad = s.mtxBad := setCtx_mtxBad s _
@[simp] theorem setG_octets (s : State) (i : BitVec 5) (x : Word) : (s.setG i x).octets = s.octets := setCtx_octets s _
@[simp] theorem setG_bad (s : State) (i : BitVec 5) (x : Word) : (s.setG i x).bad = s.bad := setCtx_bad s _
@[simp] theorem setG_weak (s : State) (i : BitVec 5) (x : Word) : (s.setG i x).weak = s.weak := setCtx_weak s _
@[simp] theorem setG_net (s : State) (i : BitVec 5) (x : Word) : (s.setG i x).net = s.net := setCtx_net s _
@[simp] theorem setG_dist (s : State) (i : BitVec 5) (x : Word) : (s.setG i x).dist = s.dist := setCtx_dist s _
@[simp] theorem setG_portA (s : State) (i : BitVec 5) (x : Word) : (s.setG i x).portA = s.portA := setCtx_portA s _
@[simp] theorem setG_portB (s : State) (i : BitVec 5) (x : Word) : (s.setG i x).portB = s.portB := setCtx_portB s _
@[simp] theorem setG_sems (s : State) (i : BitVec 5) (x : Word) : (s.setG i x).sems = s.sems := setCtx_sems s _
@[simp] theorem setG_plates (s : State) (i : BitVec 5) (x : Word) : (s.setG i x).plates = s.plates := setCtx_plates s _
@[simp] theorem setG_bootStep (s : State) (i : BitVec 5) (x : Word) : (s.setG i x).bootStep = s.bootStep := setCtx_bootStep s _
@[simp] theorem setG_bootStopped (s : State) (i : BitVec 5) (x : Word) : (s.setG i x).bootStopped = s.bootStopped := setCtx_bootStopped s _
@[simp] theorem setG_plateHub (s : State) (i : BitVec 5) (x : Word) : (s.setG i x).plateHub = s.plateHub := setCtx_plateHub s _
@[simp] theorem setG_powered (s : State) (i : BitVec 5) (x : Word) : (s.setG i x).powered = s.powered := setCtx_powered s _
@[simp] theorem setG_meshStopped (s : State) (i : BitVec 5) (x : Word) : (s.setG i x).meshStopped = s.meshStopped := setCtx_meshStopped s _
@[simp] theorem setG_logical (s : State) (i : BitVec 5) (x : Word) : (s.setG i x).logical = s.logical := setCtx_logical s _
@[simp] theorem setG_ncores (s : State) (i : BitVec 5) (x : Word) : (s.setG i x).ncores = s.ncores := setCtx_ncores s _
@[simp] theorem setG_modNo (s : State) (i : BitVec 5) (x : Word) : (s.setG i x).modNo = s.modNo := setCtx_modNo s _
@[simp] theorem setG_joined (s : State) (i : BitVec 5) (x : Word) : (s.setG i x).joined = s.joined := setCtx_joined s _
@[simp] theorem setG_routes (s : State) (i : BitVec 5) (x : Word) : (s.setG i x).routes = s.routes := setCtx_routes s _
@[simp] theorem setG_abroad (s : State) (i : BitVec 5) (x : Word) : (s.setG i x).abroad = s.abroad := setCtx_abroad s _
@[simp] theorem setG_linkKey (s : State) (i : BitVec 5) (x : Word) : (s.setG i x).linkKey = s.linkKey := setCtx_linkKey s _
@[simp] theorem setG_rimNext (s : State) (i : BitVec 5) (x : Word) : (s.setG i x).rimNext = s.rimNext := setCtx_rimNext s _
@[simp] theorem setG_links (s : State) (i : BitVec 5) (x : Word) : (s.setG i x).links = s.links := setCtx_links s _
@[simp] theorem setG_keys (s : State) (i : BitVec 5) (x : Word) : (s.setG i x).keys = s.keys := setCtx_keys s _
@[simp] theorem setG_tick (s : State) (i : BitVec 5) (x : Word) : (s.setG i x).tick = s.tick := setCtx_tick s _
@[simp] theorem setG_cap (s : State) (i : BitVec 5) (x : Word) : (s.setG i x).cap = s.cap := setCtx_cap s _
@[simp] theorem setG_capNext (s : State) (i : BitVec 5) (x : Word) : (s.setG i x).capNext = s.capNext := setCtx_capNext s _
@[simp] theorem setG_capSet (s : State) (i : BitVec 5) (x : Word) : (s.setG i x).capSet = s.capSet := setCtx_capSet s _
@[simp] theorem setG_coolantLow (s : State) (i : BitVec 5) (x : Word) : (s.setG i x).coolantLow = s.coolantLow := setCtx_coolantLow s _
@[simp] theorem setG_coolant (s : State) (i : BitVec 5) (x : Word) : (s.setG i x).coolant = s.coolant := setCtx_coolant s _
@[simp] theorem setG_coolantTick (s : State) (i : BitVec 5) (x : Word) : (s.setG i x).coolantTick = s.coolantTick := setCtx_coolantTick s _
@[simp] theorem setG_coolantBack (s : State) (i : BitVec 5) (x : Word) : (s.setG i x).coolantBack = s.coolantBack := setCtx_coolantBack s _
@[simp] theorem setG_housekeeping (s : State) (i : BitVec 5) (x : Word) : (s.setG i x).housekeeping = s.housekeeping := setCtx_housekeeping s _
@[simp] theorem setG_withhold (s : State) (i : BitVec 5) (x : Word) : (s.setG i x).withhold = s.withhold := setCtx_withhold s _
@[simp] theorem setG_withheldCarry (s : State) (i : BitVec 5) (x : Word) : (s.setG i x).withheldCarry = s.withheldCarry := setCtx_withheldCarry s _
@[simp] theorem setG_overspends (s : State) (i : BitVec 5) (x : Word) : (s.setG i x).overspends = s.overspends := setCtx_overspends s _
@[simp] theorem setG_ballastOff (s : State) (i : BitVec 5) (x : Word) : (s.setG i x).ballastOff = s.ballastOff := setCtx_ballastOff s _
@[simp] theorem setG_power (s : State) (i : BitVec 5) (x : Word) : (s.setG i x).power = s.power := setCtx_power s _
@[simp] theorem setG_temps (s : State) (i : BitVec 5) (x : Word) : (s.setG i x).temps = s.temps := setCtx_temps s _
@[simp] theorem setG_badSensors (s : State) (i : BitVec 5) (x : Word) : (s.setG i x).badSensors = s.badSensors := setCtx_badSensors s _
@[simp] theorem setG_refreshRule (s : State) (i : BitVec 5) (x : Word) : (s.setG i x).refreshRule = s.refreshRule := setCtx_refreshRule s _
@[simp] theorem setG_forced (s : State) (i : BitVec 5) (x : Word) : (s.setG i x).forced = s.forced := setCtx_forced s _
@[simp] theorem setG_issued (s : State) (i : BitVec 5) (x : Word) : (s.setG i x).issued = s.issued := setCtx_issued s _
@[simp] theorem setG_readySlots (s : State) (i : BitVec 5) (x : Word) : (s.setG i x).readySlots = s.readySlots := setCtx_readySlots s _
@[simp] theorem setG_cadPeriod (s : State) (i : BitVec 5) (x : Word) : (s.setG i x).cadPeriod = s.cadPeriod := setCtx_cadPeriod s _
@[simp] theorem setG_cadOnce (s : State) (i : BitVec 5) (x : Word) : (s.setG i x).cadOnce = s.cadOnce := setCtx_cadOnce s _
@[simp] theorem setG_cadCount (s : State) (i : BitVec 5) (x : Word) : (s.setG i x).cadCount = s.cadCount := setCtx_cadCount s _
@[simp] theorem setG_cadDue (s : State) (i : BitVec 5) (x : Word) : (s.setG i x).cadDue = s.cadDue := setCtx_cadDue s _
@[simp] theorem setG_windows (s : State) (i : BitVec 5) (x : Word) : (s.setG i x).windows = s.windows := setCtx_windows s _
@[simp] theorem setG_mapGen (s : State) (i : BitVec 5) (x : Word) : (s.setG i x).mapGen = s.mapGen := setCtx_mapGen s _
@[simp] theorem setG_staged (s : State) (i : BitVec 5) (x : Word) : (s.setG i x).staged = s.staged := setCtx_staged s _
@[simp] theorem setG_images (s : State) (i : BitVec 5) (x : Word) : (s.setG i x).images = s.images := setCtx_images s _
@[simp] theorem setG_boots (s : State) (i : BitVec 5) (x : Word) : (s.setG i x).boots = s.boots := setCtx_boots s _
@[simp] theorem setG_storage (s : State) (i : BitVec 5) (x : Word) : (s.setG i x).storage = s.storage := setCtx_storage s _

/-! ### setM changes the core table only -/

@[simp] theorem setM_curCore (s : State) (i : BitVec 3) (x : Word) : (s.setM i x).curCore = s.curCore := setCtx_curCore s _
@[simp] theorem setM_curWho (s : State) (i : BitVec 3) (x : Word) : (s.setM i x).curWho = s.curWho := setCtx_curWho s _
@[simp] theorem setM_agenda (s : State) (i : BitVec 3) (x : Word) : (s.setM i x).agenda = s.agenda := setCtx_agenda s _
@[simp] theorem setM_focus (s : State) (i : BitVec 3) (x : Word) : (s.setM i x).focus = s.focus := setCtx_focus s _
@[simp] theorem setM_waited (s : State) (i : BitVec 3) (x : Word) : (s.setM i x).waited = s.waited := setCtx_waited s _
@[simp] theorem setM_notes (s : State) (i : BitVec 3) (x : Word) : (s.setM i x).notes = s.notes := setCtx_notes s _
@[simp] theorem setM_cycle (s : State) (i : BitVec 3) (x : Word) : (s.setM i x).cycle = s.cycle := setCtx_cycle s _
@[simp] theorem setM_free (s : State) (i : BitVec 3) (x : Word) : (s.setM i x).free = s.free := setCtx_free s _
@[simp] theorem setM_mem (s : State) (i : BitVec 3) (x : Word) : (s.setM i x).mem = s.mem := setCtx_mem s _
@[simp] theorem setM_purses (s : State) (i : BitVec 3) (x : Word) : (s.setM i x).purses = s.purses := setCtx_purses s _
@[simp] theorem setM_fused (s : State) (i : BitVec 3) (x : Word) : (s.setM i x).fused = s.fused := setCtx_fused s _
@[simp] theorem setM_harvested (s : State) (i : BitVec 3) (x : Word) : (s.setM i x).harvested = s.harvested := setCtx_harvested s _
@[simp] theorem setM_lost (s : State) (i : BitVec 3) (x : Word) : (s.setM i x).lost = s.lost := setCtx_lost s _
@[simp] theorem setM_mtxBad (s : State) (i : BitVec 3) (x : Word) : (s.setM i x).mtxBad = s.mtxBad := setCtx_mtxBad s _
@[simp] theorem setM_octets (s : State) (i : BitVec 3) (x : Word) : (s.setM i x).octets = s.octets := setCtx_octets s _
@[simp] theorem setM_bad (s : State) (i : BitVec 3) (x : Word) : (s.setM i x).bad = s.bad := setCtx_bad s _
@[simp] theorem setM_weak (s : State) (i : BitVec 3) (x : Word) : (s.setM i x).weak = s.weak := setCtx_weak s _
@[simp] theorem setM_net (s : State) (i : BitVec 3) (x : Word) : (s.setM i x).net = s.net := setCtx_net s _
@[simp] theorem setM_dist (s : State) (i : BitVec 3) (x : Word) : (s.setM i x).dist = s.dist := setCtx_dist s _
@[simp] theorem setM_portA (s : State) (i : BitVec 3) (x : Word) : (s.setM i x).portA = s.portA := setCtx_portA s _
@[simp] theorem setM_portB (s : State) (i : BitVec 3) (x : Word) : (s.setM i x).portB = s.portB := setCtx_portB s _
@[simp] theorem setM_sems (s : State) (i : BitVec 3) (x : Word) : (s.setM i x).sems = s.sems := setCtx_sems s _
@[simp] theorem setM_plates (s : State) (i : BitVec 3) (x : Word) : (s.setM i x).plates = s.plates := setCtx_plates s _
@[simp] theorem setM_bootStep (s : State) (i : BitVec 3) (x : Word) : (s.setM i x).bootStep = s.bootStep := setCtx_bootStep s _
@[simp] theorem setM_bootStopped (s : State) (i : BitVec 3) (x : Word) : (s.setM i x).bootStopped = s.bootStopped := setCtx_bootStopped s _
@[simp] theorem setM_plateHub (s : State) (i : BitVec 3) (x : Word) : (s.setM i x).plateHub = s.plateHub := setCtx_plateHub s _
@[simp] theorem setM_powered (s : State) (i : BitVec 3) (x : Word) : (s.setM i x).powered = s.powered := setCtx_powered s _
@[simp] theorem setM_meshStopped (s : State) (i : BitVec 3) (x : Word) : (s.setM i x).meshStopped = s.meshStopped := setCtx_meshStopped s _
@[simp] theorem setM_logical (s : State) (i : BitVec 3) (x : Word) : (s.setM i x).logical = s.logical := setCtx_logical s _
@[simp] theorem setM_ncores (s : State) (i : BitVec 3) (x : Word) : (s.setM i x).ncores = s.ncores := setCtx_ncores s _
@[simp] theorem setM_modNo (s : State) (i : BitVec 3) (x : Word) : (s.setM i x).modNo = s.modNo := setCtx_modNo s _
@[simp] theorem setM_joined (s : State) (i : BitVec 3) (x : Word) : (s.setM i x).joined = s.joined := setCtx_joined s _
@[simp] theorem setM_routes (s : State) (i : BitVec 3) (x : Word) : (s.setM i x).routes = s.routes := setCtx_routes s _
@[simp] theorem setM_abroad (s : State) (i : BitVec 3) (x : Word) : (s.setM i x).abroad = s.abroad := setCtx_abroad s _
@[simp] theorem setM_linkKey (s : State) (i : BitVec 3) (x : Word) : (s.setM i x).linkKey = s.linkKey := setCtx_linkKey s _
@[simp] theorem setM_rimNext (s : State) (i : BitVec 3) (x : Word) : (s.setM i x).rimNext = s.rimNext := setCtx_rimNext s _
@[simp] theorem setM_links (s : State) (i : BitVec 3) (x : Word) : (s.setM i x).links = s.links := setCtx_links s _
@[simp] theorem setM_keys (s : State) (i : BitVec 3) (x : Word) : (s.setM i x).keys = s.keys := setCtx_keys s _
@[simp] theorem setM_tick (s : State) (i : BitVec 3) (x : Word) : (s.setM i x).tick = s.tick := setCtx_tick s _
@[simp] theorem setM_cap (s : State) (i : BitVec 3) (x : Word) : (s.setM i x).cap = s.cap := setCtx_cap s _
@[simp] theorem setM_capNext (s : State) (i : BitVec 3) (x : Word) : (s.setM i x).capNext = s.capNext := setCtx_capNext s _
@[simp] theorem setM_capSet (s : State) (i : BitVec 3) (x : Word) : (s.setM i x).capSet = s.capSet := setCtx_capSet s _
@[simp] theorem setM_coolantLow (s : State) (i : BitVec 3) (x : Word) : (s.setM i x).coolantLow = s.coolantLow := setCtx_coolantLow s _
@[simp] theorem setM_coolant (s : State) (i : BitVec 3) (x : Word) : (s.setM i x).coolant = s.coolant := setCtx_coolant s _
@[simp] theorem setM_coolantTick (s : State) (i : BitVec 3) (x : Word) : (s.setM i x).coolantTick = s.coolantTick := setCtx_coolantTick s _
@[simp] theorem setM_coolantBack (s : State) (i : BitVec 3) (x : Word) : (s.setM i x).coolantBack = s.coolantBack := setCtx_coolantBack s _
@[simp] theorem setM_housekeeping (s : State) (i : BitVec 3) (x : Word) : (s.setM i x).housekeeping = s.housekeeping := setCtx_housekeeping s _
@[simp] theorem setM_withhold (s : State) (i : BitVec 3) (x : Word) : (s.setM i x).withhold = s.withhold := setCtx_withhold s _
@[simp] theorem setM_withheldCarry (s : State) (i : BitVec 3) (x : Word) : (s.setM i x).withheldCarry = s.withheldCarry := setCtx_withheldCarry s _
@[simp] theorem setM_overspends (s : State) (i : BitVec 3) (x : Word) : (s.setM i x).overspends = s.overspends := setCtx_overspends s _
@[simp] theorem setM_ballastOff (s : State) (i : BitVec 3) (x : Word) : (s.setM i x).ballastOff = s.ballastOff := setCtx_ballastOff s _
@[simp] theorem setM_power (s : State) (i : BitVec 3) (x : Word) : (s.setM i x).power = s.power := setCtx_power s _
@[simp] theorem setM_temps (s : State) (i : BitVec 3) (x : Word) : (s.setM i x).temps = s.temps := setCtx_temps s _
@[simp] theorem setM_badSensors (s : State) (i : BitVec 3) (x : Word) : (s.setM i x).badSensors = s.badSensors := setCtx_badSensors s _
@[simp] theorem setM_refreshRule (s : State) (i : BitVec 3) (x : Word) : (s.setM i x).refreshRule = s.refreshRule := setCtx_refreshRule s _
@[simp] theorem setM_forced (s : State) (i : BitVec 3) (x : Word) : (s.setM i x).forced = s.forced := setCtx_forced s _
@[simp] theorem setM_issued (s : State) (i : BitVec 3) (x : Word) : (s.setM i x).issued = s.issued := setCtx_issued s _
@[simp] theorem setM_readySlots (s : State) (i : BitVec 3) (x : Word) : (s.setM i x).readySlots = s.readySlots := setCtx_readySlots s _
@[simp] theorem setM_cadPeriod (s : State) (i : BitVec 3) (x : Word) : (s.setM i x).cadPeriod = s.cadPeriod := setCtx_cadPeriod s _
@[simp] theorem setM_cadOnce (s : State) (i : BitVec 3) (x : Word) : (s.setM i x).cadOnce = s.cadOnce := setCtx_cadOnce s _
@[simp] theorem setM_cadCount (s : State) (i : BitVec 3) (x : Word) : (s.setM i x).cadCount = s.cadCount := setCtx_cadCount s _
@[simp] theorem setM_cadDue (s : State) (i : BitVec 3) (x : Word) : (s.setM i x).cadDue = s.cadDue := setCtx_cadDue s _
@[simp] theorem setM_windows (s : State) (i : BitVec 3) (x : Word) : (s.setM i x).windows = s.windows := setCtx_windows s _
@[simp] theorem setM_mapGen (s : State) (i : BitVec 3) (x : Word) : (s.setM i x).mapGen = s.mapGen := setCtx_mapGen s _
@[simp] theorem setM_staged (s : State) (i : BitVec 3) (x : Word) : (s.setM i x).staged = s.staged := setCtx_staged s _
@[simp] theorem setM_images (s : State) (i : BitVec 3) (x : Word) : (s.setM i x).images = s.images := setCtx_images s _
@[simp] theorem setM_boots (s : State) (i : BitVec 3) (x : Word) : (s.setM i x).boots = s.boots := setCtx_boots s _
@[simp] theorem setM_storage (s : State) (i : BitVec 3) (x : Word) : (s.setM i x).storage = s.storage := setCtx_storage s _

end Sys2Proof.Machine.State
end

