-- ==== Sys2Proof/Laws/Ops.lean ====
section
/-!
SUPPORT. What the named operations on cores, slots, registers and coins do, one lemma each.
-/
namespace Sys2Proof.Machine.State

/-- Reading a vector after one of its elements is set. -/
theorem vec_get_set {α : Type} {n : Nat} (xs : Vector α n) (i j : Fin n) (x : α) :
    (xs.set i.val x i.isLt).get j = if j = i then x else xs.get j := by
  have e : ∀ v : Vector α n, v.get j = v[j.val]'j.isLt := fun _ => rfl
  rw [e, e, Vector.getElem_set]
  by_cases h : j = i
  · subst h; simp
  · have : i.val ≠ j.val := fun e => h (Fin.ext e.symm)
    simp [h, this]

/-! ### Cores -/

@[simp] theorem core_setCore_self (s : State) (c : Nat) (k : Core) : (s.setCore c k).core c = k := Tab.get_put_self _ _ _ _

theorem core_setCore_ne (s : State) {c d : Nat} (k : Core) (h : d ≠ c) : (s.setCore c k).core d = s.core d :=
  Tab.get_put_ne _ _ _ h

@[simp] theorem setCore_setCore (s : State) (c : Nat) (k l : Core) : (s.setCore c k).setCore c l = s.setCore c l := by
  simp [setCore]

@[simp] theorem core_updCore_self (s : State) (c : Nat) (f : Core → Core) : (s.updCore c f).core c = f (s.core c) :=
  core_setCore_self s c _

theorem core_updCore_ne (s : State) {c d : Nat} (f : Core → Core) (h : d ≠ c) : (s.updCore c f).core d = s.core d :=
  core_setCore_ne s _ h

@[simp] theorem updCore_updCore (s : State) (c : Nat) (f h : Core → Core) :
    (s.updCore c f).updCore c h = s.updCore c (fun k => h (f k)) := by
  simp [updCore]

@[simp] theorem core_setPurse (s : State) (c n d : Nat) : (s.setPurse c n).core d = s.core d := rfl

@[simp] theorem purse_setPurse_self (s : State) (c n : Nat) : (s.setPurse c n).purse c = n := Tab.get_put_self _ _ _ _

theorem purse_setPurse_ne (s : State) {c d : Nat} (n : Nat) (h : d ≠ c) : (s.setPurse c n).purse d = s.purse d :=
  Tab.get_put_ne _ _ _ h

@[simp] theorem purse_updCore (s : State) (c : Nat) (f : Core → Core) (d : Nat) : (s.updCore c f).purse d = s.purse d := rfl

/-! ### Slots -/

@[simp] theorem slotAt_setSlotAt_self (s : State) (c : Nat) (t : Fin 4) (x : Slot) : (s.setSlotAt c t x).slotAt c t = x := by
  simp [slotAt, setSlotAt, vec_get_set]

theorem slotAt_setSlotAt_core (s : State) {c d : Nat} (t u : Fin 4) (x : Slot) (h : d ≠ c) :
    (s.setSlotAt c t x).slotAt d u = s.slotAt d u := by
  simp [slotAt, setSlotAt, core_updCore_ne s _ h]

theorem slotAt_setSlotAt_slot (s : State) (c : Nat) {t u : Fin 4} (x : Slot) (h : u ≠ t) :
    (s.setSlotAt c t x).slotAt c u = s.slotAt c u := by
  simp [slotAt, setSlotAt, vec_get_set, h]

@[simp] theorem slotAt_updSlotAt_self (s : State) (c : Nat) (t : Fin 4) (f : Slot → Slot) :
    (s.updSlotAt c t f).slotAt c t = f (s.slotAt c t) := slotAt_setSlotAt_self s c t _

@[simp] theorem slotAt_setPurse (s : State) (c n d : Nat) (t : Fin 4) : (s.setPurse c n).slotAt d t = s.slotAt d t := rfl

@[simp] theorem curSlotNo_updSlotAt (s : State) (c : Nat) (t : Fin 4) (f : Slot → Slot) : (s.updSlotAt c t f).curSlotNo = s.curSlotNo := rfl

@[simp] theorem slot_updSlot (s : State) (f : Slot → Slot) : (s.updSlot f).slot = f s.slot := by
  simp [slot, updSlot]

/-! ### The executing context -/

@[simp] theorem isTeller_updCore (s : State) (c : Nat) (f : Core → Core) : (s.updCore c f).isTeller = s.isTeller := rfl

@[simp] theorem isTeller_setCtx (s : State) (x : Ctx) : (s.setCtx x).isTeller = s.isTeller := by simp [isTeller]

@[simp] theorem ctx_setCtx (s : State) (x : Ctx) : (s.setCtx x).ctx = x := by
  cases h : s.curWho <;> simp [setCtx, ctx, h, here, updHere]

@[simp] theorem ctx_updCtx (s : State) (f : Ctx → Ctx) : (s.updCtx f).ctx = f s.ctx := ctx_setCtx s _

@[simp] theorem ctx_setPurse (s : State) (c n : Nat) : (s.setPurse c n).ctx = s.ctx := rfl

/-! ### Registers (Table 1.1) -/

theorem toFin_ne {w : Nat} {a b : BitVec w} (h : a ≠ b) : a.toFin ≠ b.toFin := fun e => h (BitVec.eq_of_toFin_eq e)

/-- A write to a g register is read back there, a write to g0 is discarded, and every other register keeps its value. -/
theorem g_setG (s : State) (i r : BitVec 5) (x : Word) :
    (s.setG i x).g r = if r = 0 then 0 else if r = i then x else s.g r := by
  unfold g setG Ctx.putG
  rw [ctx_updCtx]
  by_cases hr : r = 0
  · simp only [hr, if_true]
  · by_cases hi : i = 0
    · subst hi; simp only [hr, if_true, if_false]
    · simp only [hr, hi, if_false]
      rw [show s.ctx.g.set i.toNat x i.isLt = s.ctx.g.set i.toFin.val x i.toFin.isLt from rfl, vec_get_set]
      by_cases h : r = i
      · simp only [h, if_true]
      · simp only [h, toFin_ne h, if_false]

/-- A v register holds what is written to it; every other one keeps its value. -/
theorem v_setV (s : State) (i r : BitVec 5) (x : Row) : (s.setV i x).v r = if r = i then x else s.v r := by
  unfold v setV
  rw [ctx_updCtx, show s.ctx.v.set i.toNat x i.isLt = s.ctx.v.set i.toFin.val x i.toFin.isLt from rfl, vec_get_set]
  by_cases h : r = i
  · simp [h]
  · simp [h, toFin_ne h]

/-- A mask register holds what is written to it; m0 reads all ones and keeps nothing. -/
theorem m_setM (s : State) (i r : BitVec 3) (x : Word) :
    (s.setM i x).m r = if r = 0 then BitVec.allOnes 64 else if r = i then x else s.m r := by
  unfold m setM Ctx.putM
  rw [ctx_updCtx]
  by_cases hr : r = 0
  · simp only [hr, if_true]
  · by_cases hi : i = 0
    · subst hi; simp only [hr, if_true, if_false]
    · simp only [hr, hi, if_false]
      rw [show s.ctx.m.set i.toNat x i.isLt = s.ctx.m.set i.toFin.val x i.toFin.isLt from rfl, vec_get_set]
      by_cases h : r = i
      · simp only [h, if_true]
      · simp only [h, toFin_ne h, if_false]

@[simp] theorem g_zero (s : State) : s.g 0 = 0 := rfl

@[simp] theorem m_zero (s : State) : s.m 0 = BitVec.allOnes 64 := rfl

@[simp] theorem ctx_setG (s : State) (i : BitVec 5) (x : Word) : (s.setG i x).ctx = s.ctx.putG i x := ctx_updCtx s _

@[simp] theorem ctx_setM (s : State) (i : BitVec 3) (x : Word) : (s.setM i x).ctx = s.ctx.putM i x := ctx_updCtx s _

@[simp] theorem ctx_setV (s : State) (i : BitVec 5) (x : Row) : (s.setV i x).ctx = { s.ctx with v := s.ctx.v.set i.toNat x i.isLt } :=
  ctx_updCtx s _

@[simp] theorem ctx_setPc (s : State) (x : BitVec 15) : (s.setPc x).ctx = { s.ctx with pc := x } := ctx_updCtx s _

@[simp] theorem ctx_raise (s : State) (f : FpFlags) : (s.raise f).ctx = { s.ctx with fpmode := s.ctx.fpmode ||| (f ++ 0#8) } :=
  ctx_updCtx s _

@[simp] theorem v_setG (s : State) (i r : BitVec 5) (x : Word) : (s.setG i x).v r = s.v r := by simp [v, Ctx.putG]

@[simp] theorem m_setG (s : State) (i : BitVec 5) (r : BitVec 3) (x : Word) : (s.setG i x).m r = s.m r := by simp [m, Ctx.putG]

@[simp] theorem g_setV (s : State) (i r : BitVec 5) (x : Row) : (s.setV i x).g r = s.g r := by simp [g]

@[simp] theorem m_setV (s : State) (i : BitVec 5) (r : BitVec 3) (x : Row) : (s.setV i x).m r = s.m r := by simp [m]

@[simp] theorem g_setM (s : State) (i : BitVec 3) (r : BitVec 5) (x : Word) : (s.setM i x).g r = s.g r := by simp [g, Ctx.putM]

@[simp] theorem v_setM (s : State) (i : BitVec 3) (r : BitVec 5) (x : Word) : (s.setM i x).v r = s.v r := by simp [v, Ctx.putM]

@[simp] theorem g_setPc (s : State) (x : BitVec 15) (r : BitVec 5) : (s.setPc x).g r = s.g r := by simp [g]

@[simp] theorem v_setPc (s : State) (x : BitVec 15) (r : BitVec 5) : (s.setPc x).v r = s.v r := by simp [v]

@[simp] theorem m_setPc (s : State) (x : BitVec 15) (r : BitVec 3) : (s.setPc x).m r = s.m r := by simp [m]

@[simp] theorem pc_setPc (s : State) (x : BitVec 15) : (s.setPc x).pc = x := by simp [pc]

@[simp] theorem g_raise (s : State) (f : FpFlags) (r : BitVec 5) : (s.raise f).g r = s.g r := by simp [g]

@[simp] theorem v_raise (s : State) (f : FpFlags) (r : BitVec 5) : (s.raise f).v r = s.v r := by simp [v]

@[simp] theorem m_raise (s : State) (f : FpFlags) (r : BitVec 3) : (s.raise f).m r = s.m r := by simp [m]

end Sys2Proof.Machine.State
end

