-- ==== Sys2Proof/Laws/Finish.lean ====
section
/-!
SUPPORT. The common end of an instruction: coins, effect, retiring.  Every state between is the first one with other purses,
another executing core, other accounts and another memory: `State.form`.
-/
namespace Sys2Proof.Machine

namespace State

/-- A state with other purses, another executing core, other accounts. -/
def form (s : State) (P : Tab Nat) (K : Core) (H : Int) (D : Dist) : State :=
  { s with purses := P, cores := Tab.put s.cores s.curCore K, housekeeping := H, dist := D }

variable (s : State) (P : Tab Nat) (K : Core) (H : Int) (D : Dist)

@[simp] theorem form_curCore : (s.form P K H D).curCore = s.curCore := rfl
@[simp] theorem form_curWho : (s.form P K H D).curWho = s.curWho := rfl
@[simp] theorem form_mem : (s.form P K H D).mem = s.mem := rfl
@[simp] theorem form_housekeeping : (s.form P K H D).housekeeping = H := rfl
@[simp] theorem form_dist : (s.form P K H D).dist = D := rfl
@[simp] theorem form_isTeller : (s.form P K H D).isTeller = s.isTeller := rfl
@[simp] theorem form_curSlotNo : (s.form P K H D).curSlotNo = s.curSlotNo := rfl
@[simp] theorem form_purse (c : Nat) : (s.form P K H D).purse c = Tab.get P c 0 := rfl
@[simp] theorem form_core : (s.form P K H D).core s.curCore = K := Tab.get_put_self _ _ _ _
@[simp] theorem form_here : (s.form P K H D).here = K := form_core s P K H D
@[simp] theorem form_slotAt (t : Fin 4) : (s.form P K H D).slotAt s.curCore t = K.slots.get t := by simp [slotAt]
@[simp] theorem form_slot : (s.form P K H D).slot = K.slots.get s.curSlotNo := by simp [slot]

@[simp] theorem form_updCore (f : Core → Core) : (s.form P K H D).updCore s.curCore f = s.form P (f K) H D := by
  simp [updCore, setCore, form, core]

@[simp] theorem form_updHere (f : Core → Core) : (s.form P K H D).updHere f = s.form P (f K) H D := form_updCore s P K H D f

@[simp] theorem form_updSlotAt (t : Fin 4) (f : Slot → Slot) :
    (s.form P K H D).updSlotAt s.curCore t f = s.form P { K with slots := K.slots.set t (f (K.slots.get t)) t.isLt } H D := by
  simp [updSlotAt, setSlotAt]

@[simp] theorem form_updSlot (f : Slot → Slot) :
    (s.form P K H D).updSlot f =
      s.form P { K with slots := K.slots.set s.curSlotNo (f (K.slots.get s.curSlotNo)) s.curSlotNo.isLt } H D :=
  form_updSlotAt s P K H D s.curSlotNo f

theorem updCore_form (f : Core → Core) : s.updCore s.curCore f = s.form s.purses (f s.here) s.housekeeping s.dist := rfl

theorem setPurse_updCore_form (n : Nat) (f : Core → Core) :
    (s.setPurse s.curCore n).updCore s.curCore f = s.form (Tab.put s.purses s.curCore n) (f s.here) s.housekeeping s.dist := rfl

/-- The accounts after n coins are counted to one of them. -/
def accounts (s : State) (j : Option (BitVec 24)) (n : Nat) : Int × Dist := ((s.countTo j n).housekeeping, (s.countTo j n).dist)

theorem form_countTo (j : Option (BitVec 24)) (n : Nat) :
    (s.form P K s.housekeeping s.dist).countTo j n = s.form P K (s.accounts j n).1 (s.accounts j n).2 := by
  unfold accounts countTo form
  cases j with
  | none => rfl
  | some j =>
    by_cases h : j = 0
    · simp only [h, if_true]
    · simp only [h, if_false]

@[simp] theorem countTo_core (j : Option (BitVec 24)) (n c : Nat) : (s.countTo j n).core c = s.core c := by
  unfold countTo
  cases j with
  | none => rfl
  | some j => simp only []; split <;> rfl


theorem get_set_self {α : Type} {n : Nat} (xs : Vector α n) (i : Fin n) (x : α) : (xs.set i.val x i.isLt).get i = x := by
  rw [vec_get_set]; simp

theorem set_set_self {α : Type} {n : Nat} (xs : Vector α n) (i : Fin n) (x y : α) :
    (xs.set i.val x i.isLt).set i.val y i.isLt = xs.set i.val y i.isLt := by
  simp

/-- A slot's charge. -/
theorem charge_slot (s : State) (t : Fin 4) (n : Nat) (hw : s.curWho = .slot t) :
    s.charge n = s.form (Tab.put s.purses s.curCore (s.purse s.curCore - n))
      { s.here with
        heat := s.here.heat + n
        slots := s.here.slots.set t { s.here.slots.get t with coinspent := (s.here.slots.get t).coinspent + BitVec.ofNat 64 n } t.isLt }
      (s.accounts (some (s.here.slots.get t).jobid) n).1 (s.accounts (some (s.here.slots.get t).jobid) n).2 := by
  simp only [charge, hw, chargeSlot]
  rw [setPurse_updCore_form, form_updSlotAt, form_countTo]
  rfl

/-- A teller's charge. -/
theorem charge_teller (s : State) (n : Nat) (hw : s.curWho = .teller) :
    s.charge n = (s.setPurse s.curCore (s.purse s.curCore - n)).countTo (s.here.teller.act.map (fun a => a.job)) n := by
  simp only [charge, hw]

end State

namespace State

variable (s : State) (P : Tab Nat) (K : Core) (H : Int) (D : Dist)

theorem form_ctx_slot (t : Fin 4) (hw : s.curWho = .slot t) : (s.form P K H D).ctx = (K.slots.get t).ctx := by
  simp [ctx, hw]

theorem form_ctx_teller (hw : s.curWho = .teller) : (s.form P K H D).ctx = K.teller.ctx := by
  simp [ctx, hw]

theorem form_updCtx_slot (t : Fin 4) (hw : s.curWho = .slot t) (f : Ctx → Ctx) :
    (s.form P K H D).updCtx f =
      s.form P { K with slots := K.slots.set t { K.slots.get t with ctx := f (K.slots.get t).ctx } t.isLt } H D := by
  simp only [updCtx, setCtx, form_curWho, hw, form_curCore, form_updSlotAt, form_ctx_slot s P K H D t hw]

theorem form_updCtx_teller (hw : s.curWho = .teller) (f : Ctx → Ctx) :
    (s.form P K H D).updCtx f = s.form P { K with teller := { K.teller with ctx := f K.teller.ctx } } H D := by
  simp only [updCtx, setCtx, form_curWho, hw, form_updHere, form_ctx_teller s P K H D hw]

/-- What retiring does to a slot outside a frame. -/
def done (l : Slot) (x : BitVec 15) : Slot :=
  { l with
    instret := l.instret + 1, resumed := false, watchMet := false, stepDue := l.ctx.status.getLsbD 3 && !l.ctx.status.getLsbD 0
    ctx := { l.ctx with pc := x }, lastPc := l.ctx.pc }

theorem form_retireTo_slot (t : Fin 4) (hw : s.curWho = .slot t) (x : BitVec 15) :
    (s.form P K H D).retireTo x = s.form P { K with slots := K.slots.set t (done (K.slots.get t) x) t.isLt } H D := by
  have hc : (s.form P K H D).curSlotNo = t := by simp [curSlotNo, hw]
  simp only [retireTo, counted, form_curWho, hw, form_curCore, form_updSlotAt, setPc, form_updCtx_slot s _ _ _ _ t hw, pc,
    form_ctx_slot s _ _ _ _ t hw]
  rw [show ∀ P K H D f, (s.form P K H D).updSlot f = (s.form P K H D).updSlotAt s.curCore t f from fun P K H D f => by
    simp [updSlot, curSlotNo, hw]]
  simp only [form_updSlotAt, get_set_self, set_set_self, done]

theorem form_retireTo_teller (hw : s.curWho = .teller) (x : BitVec 15) :
    (s.form P K H D).retireTo x = s.form P { K with teller := { K.teller with
      ctx := { K.teller.ctx with pc := x }, act := K.teller.act.map (fun a => { a with count := a.count + 1 }) } } H D := by
  simp only [retireTo, counted, form_curWho, hw, form_updHere, setPc, form_updCtx_teller s _ _ _ _ hw]

end State

namespace State

variable (s : State) (P : Tab Nat) (K : Core) (H : Int) (D : Dist)

theorem set_get_self {α : Type} {n : Nat} (xs : Vector α n) (i : Fin n) : xs.set i.val (xs.get i) i.isLt = xs := by
  rw [show xs.get i = xs[i.val]'i.isLt from rfl, Vector.set_getElem_self]

theorem form_setG_slot (t : Fin 4) (hw : s.curWho = .slot t) (i : BitVec 5) (x : Word) :
    (s.form P K H D).setG i x =
      s.form P { K with slots := K.slots.set t { K.slots.get t with ctx := (K.slots.get t).ctx.putG i x } t.isLt } H D :=
  form_updCtx_slot s P K H D t hw _

/-- A slot after a frame word (R111, R112). -/
def worded (l : Slot) (r : Rpt) (x : Word) (p : BitVec 15) : Slot :=
  let l1 := { l with
    instret := l.instret + 1, resumed := false, watchMet := false, stepDue := l.ctx.status.getLsbD 3 && !l.ctx.status.getLsbD 0 }
  let l2 := { l1 with ctx := l1.ctx.putG r.c (r.next x) }
  if r.ends x then
    { l2 with
      rpt := none, instret := l2.instret + 1, lastPc := p, ctx := { l2.ctx with pc := p + 4 + 4 * (r.n.zeroExtend 15 + 1) } }
  else l2

theorem rem_eq (x : Word) : (x.extractLsb' 0 32).toNat = Rpt.rem x := by simp [Rpt.rem, BitVec.extractLsb'_toNat]
theorem turn_eq (x : Word) : (x.extractLsb' 32 5).toNat = Rpt.turn x := by
  simp [Rpt.turn, BitVec.extractLsb'_toNat, Nat.shiftRight_eq_div_pow]
theorem word_eq (x : Word) : (x.extractLsb' 40 4).toNat = Rpt.word x := by
  simp [Rpt.word, BitVec.extractLsb'_toNat, Nat.shiftRight_eq_div_pow]

theorem rows_eq (n : BitVec 4) : BitVec.ofNat 15 (n.toNat + 1) = n.zeroExtend 15 + 1 := by
  apply BitVec.eq_of_toNat_eq
  have := n.isLt
  simp

theorem form_frameDone (t : Fin 4) (hw : s.curWho = .slot t) (r : Rpt) (x : Word) :
    (s.form P K H D).frameDone r x =
      s.form P { K with slots := K.slots.set t (worded (K.slots.get t) r x (K.slots.get t).ctx.pc) t.isLt } H D := by
  have hu : ∀ P K H D f, (s.form P K H D).updSlot f = (s.form P K H D).updSlotAt s.curCore t f := fun P K H D f => by
    simp [updSlot, curSlotNo, hw]
  simp only [frameDone, counted, form_curWho, hw, form_curCore, form_updSlotAt, rem_eq, turn_eq, word_eq, rows_eq]
  unfold worded Rpt.ends Rpt.next Rpt.endsTurn
  by_cases h1 : Rpt.word x + 1 < r.n.toNat + 1
  · have h2 : ¬ (r.n.toNat + 1 ≤ Rpt.word x + 1) := by omega
    simp only [h1, h2, if_true, decide_false, Bool.false_and, Bool.false_eq_true, if_false, form_setG_slot s _ _ _ _ t hw,
      get_set_self, set_set_self]
  · have h2 : r.n.toNat + 1 ≤ Rpt.word x + 1 := by omega
    by_cases h3 : Rpt.rem x ≤ 1
    · simp only [h1, h2, h3, if_true, if_false, decide_true, Bool.and_self, form_setG_slot s _ _ _ _ t hw, setPc,
        form_updCtx_slot s _ _ _ _ t hw, hu, form_updSlotAt, get_set_self, set_set_self, pc, form_ctx_slot s _ _ _ _ t hw]
    · simp only [h1, h2, h3, if_true, if_false, decide_true, decide_false, Bool.and_false, Bool.false_eq_true,
        form_setG_slot s _ _ _ _ t hw, get_set_self, set_set_self]

/-- What retiring does to a slot. -/
def ended (l : Slot) (o : Option Rpt) (x : Word) (p : BitVec 15) : Slot :=
  match o with
  | none => done l p
  | some r => worded l r x l.ctx.pc

theorem form_retire_slot (b : State) (t : Fin 4) (hw : s.curWho = .slot t) :
    (s.form P K H D).retire b =
      s.form P { K with
        slots := K.slots.set t (ended (K.slots.get t) b.slot.rpt (b.g (b.slot.rpt.elim 0 (fun r => r.c))) (b.pc + 4)) t.isLt } H D := by
  simp only [retire, form_curWho, hw]
  cases h : b.slot.rpt with
  | none => simp only [ended]; exact form_retireTo_slot s P K H D t hw _
  | some r => simp only [ended, Option.elim]; exact form_frameDone s P K H D t hw r _

theorem form_retire_teller (b : State) (hw : s.curWho = .teller) :
    (s.form P K H D).retire b = s.form P { K with teller := { K.teller with
      ctx := { K.teller.ctx with pc := b.pc + 4 }, act := K.teller.act.map (fun a => { a with count := a.count + 1 }) } } H D := by
  simp only [retire, form_curWho, hw]
  exact form_retireTo_teller s P K H D hw _

end State

namespace State

/-- Jobs without their coins. -/
def noCoins (j : Job) : Job := { j with coins := 0 }

theorem mapFirst_noCoins (p : Job → Bool) (w : Word) (js : List Job) :
    (mapFirst p (fun x => { x with coins := x.coins + w }) js).map noCoins = js.map noCoins := by
  induction js with
  | nil => rfl
  | cons j r ih =>
    simp only [mapFirst]
    split
    · rfl
    · simp [ih]

/-- The accounts differ in coins only. -/
theorem accounts_bare (s : State) (j : Option (BitVec 24)) (n : Nat) :
    { (s.accounts j n).2 with jobs := (s.accounts j n).2.jobs.map noCoins } = { s.dist with jobs := s.dist.jobs.map noCoins } := by
  unfold accounts countTo
  cases j with
  | none => rfl
  | some j =>
    by_cases h : j = 0
    · simp only [h, if_true]
    · simp only [h, if_false, mapFirst_noCoins]

/-- A core without what every instruction of its executing context changes. -/
def bareCore (s : State) (K : Core) : Core :=
  { K with
    heat := 0
    slots := if s.isTeller then K.slots else K.slots.set s.curSlotNo (K.slots.get s.curSlotNo).bare s.curSlotNo.isLt
    teller := if s.isTeller then K.teller.bare else K.teller }

theorem form_bare (s : State) (P : Tab Nat) (K : Core) (H : Int) (D : Dist) :
    (s.form P K H D).bare = s.form (Tab.put P s.curCore 0) (bareCore s K) 0 { D with jobs := D.jobs.map noCoins } := by
  unfold bare
  simp only [form_curCore, form_isTeller, form_curSlotNo]
  rw [show (s.form P K H D).setPurse s.curCore 0 = s.form (Tab.put P s.curCore 0) K H D from rfl, form_updCore]
  rfl

end State

namespace State

/-- A slot after the effect of a frame word, before it retires. -/
def wordSlot (l : Slot) (o : Option Rpt) (x : Word) : Slot :=
  match o with
  | none => l
  | some r => { l with ctx := l.ctx.putG r.c (r.next x), rpt := if r.ends x then none else l.rpt }

theorem replay_slot (s : State) (t : Fin 4) (hw : s.curWho = .slot t) : s.replay = s.slot.rpt := by
  simp [replay, isTeller, hw]

theorem form_afterWord_slot (s b : State) (P : Tab Nat) (K : Core) (H : Int) (D : Dist) (t : Fin 4) (hw : s.curWho = .slot t)
    (hb : b.curWho = .slot t) :
    (s.form P K H D).afterWord b =
      s.form P { K with
        slots := K.slots.set t (wordSlot (K.slots.get t) b.slot.rpt (b.g (b.slot.rpt.elim 0 (fun r => r.c)))) t.isLt } H D := by
  have hu : ∀ P K H D f, (s.form P K H D).updSlot f = (s.form P K H D).updSlotAt s.curCore t f := fun P K H D f => by
    simp [updSlot, curSlotNo, hw]
  unfold afterWord
  rw [replay_slot b t hb]
  cases h : b.slot.rpt with
  | none => simp only [wordSlot, set_get_self]
  | some r =>
    simp only [wordSlot, form_setG_slot s _ _ _ _ t hw, Option.elim]
    by_cases e : r.ends (b.g r.c) = true
    · simp only [e, if_true, hu, form_updSlotAt, get_set_self, set_set_self]
    · simp only [e, Bool.false_eq_true, if_false]

end State

/-- The two slots that `Ran` compares agree. -/
theorem bare_slot (l : Slot) (o : Option Rpt) (x : Word) (p : BitVec 15) (w : Word) :
    (State.ended { l with coinspent := w } o x p).bare = (State.wordSlot l o x).bare := by
  cases o with
  | none => rfl
  | some r =>
    simp only [State.ended, State.worded, State.wordSlot]
    by_cases e : r.ends x = true
    · simp only [e, if_true]; simp [Slot.bare, Ctx.putG]
    · simp only [e, Bool.false_eq_true, if_false]; simp [Slot.bare, Ctx.putG]

theorem ended_g (l : Slot) (o : Option Rpt) (x : Word) (p : BitVec 15) (w : Word) :
    (State.ended { l with coinspent := w } o x p).ctx.g = (State.wordSlot l o x).ctx.g := by
  have := congrArg (fun y => y.ctx.g) (bare_slot l o x p w)
  exact this

theorem ended_v (l : Slot) (o : Option Rpt) (x : Word) (p : BitVec 15) (w : Word) :
    (State.ended { l with coinspent := w } o x p).ctx.v = l.ctx.v := by
  have := congrArg (fun y => y.ctx.v) (bare_slot l o x p w)
  refine Eq.trans this ?_
  cases o with
  | none => rfl
  | some r => simp [State.wordSlot, Slot.bare, Ctx.putG]

theorem ended_m (l : Slot) (o : Option Rpt) (x : Word) (p : BitVec 15) (w : Word) :
    (State.ended { l with coinspent := w } o x p).ctx.m = l.ctx.m := by
  have := congrArg (fun y => y.ctx.m) (bare_slot l o x p w)
  refine Eq.trans this ?_
  cases o with
  | none => rfl
  | some r => simp [State.wordSlot, Slot.bare, Ctx.putG]

theorem ended_spent (l : Slot) (o : Option Rpt) (x : Word) (p : BitVec 15) : (State.ended l o x p).coinspent = l.coinspent := by
  cases o with
  | none => rfl
  | some r => simp only [State.ended, State.worded]; split <;> rfl

theorem ended_instret (l : Slot) (o : Option Rpt) (x : Word) (p : BitVec 15) :
    (State.ended l o x p).instret = l.instret + (match o with | none => 1 | some r => if r.ends x then 2 else 1) := by
  cases o with
  | none => rfl
  | some r =>
    simp only [State.ended, State.worded]
    by_cases e : r.ends x = true
    · simp only [e, if_true]; rw [BitVec.add_assoc]; rfl
    · simp only [e, Bool.false_eq_true, if_false]

theorem ended_pc (l : Slot) (o : Option Rpt) (x : Word) (p : BitVec 15) :
    (State.ended l o x p).ctx.pc =
      (match o with | none => p | some r => if r.ends x then l.ctx.pc + 4 + 4 * (r.n.zeroExtend 15 + 1) else l.ctx.pc) := by
  cases o with
  | none => rfl
  | some r =>
    simp only [State.ended, State.worded]
    by_cases e : r.ends x = true
    · simp only [e, if_true]
    · simp only [e, Bool.false_eq_true, if_false, Ctx.putG]

@[simp] theorem countTo_curWho (s : State) (j : Option (BitVec 24)) (m : Nat) : (s.countTo j m).curWho = s.curWho := by
  unfold State.countTo
  cases j with
  | none => rfl
  | some j => by_cases h : j = 0 <;> simp only [h, if_true, if_false]

@[simp] theorem countTo_curCore (s : State) (j : Option (BitVec 24)) (m : Nat) : (s.countTo j m).curCore = s.curCore := by
  unfold State.countTo
  cases j with
  | none => rfl
  | some j => by_cases h : j = 0 <;> simp only [h, if_true, if_false]

/-- What an instruction's own effect leaves to the common end: costs, counts, PC. -/
structure Keeps (s u : State) : Prop where
  core : u.curCore = s.curCore
  who : u.curWho = s.curWho
  purse : u.purse s.curCore = s.purse s.curCore
  jobs : u.dist.jobs = s.dist.jobs
  heat : u.here.heat = s.here.heat
  slot : s.isTeller = false → u.slot.coinspent = s.slot.coinspent ∧ u.slot.instret = s.slot.instret ∧ u.slot.jobid = s.slot.jobid
  act : s.isTeller = true → u.here.teller.act = s.here.teller.act
  pc : u.pc = s.pc

theorem countTo_eq {s u : State} (hj : u.dist.jobs = s.dist.jobs) (j : Option (BitVec 24)) (n : Nat) :
    (u.countTo j n).housekeeping = (s.countTo j n).housekeeping + (u.housekeeping - s.housekeeping) ∧
      (u.countTo j n).dist.jobs = (s.countTo j n).dist.jobs := by
  unfold State.countTo
  cases j with
  | none => exact ⟨by simp only []; omega, hj⟩
  | some j =>
    by_cases h : j = 0
    · simp only [h, if_true]; exact ⟨by omega, hj⟩
    · simp only [h, if_false]; exact ⟨by omega, by simp only [hj]⟩

theorem form_self (s : State) (P : Tab Nat) (K : Core) (H : Int) (D : Dist) (hP : s.purses = P) (hK : s.cores = Tab.put s.cores s.curCore K)
    (hH : s.housekeeping = H) (hD : s.dist = D) : s = s.form P K H D := by
  subst hP hH hD; unfold State.form; rw [← hK]

/-- An instruction whose effect leaves costs, counts and PC to the common end: what the common end makes of it. -/
theorem ran_charge (s u : State) (n : Nat) (h : Keeps s u) : Ran s ((u.charge n).retire s) u n := by
  have hu0 : u.bare = (u.form u.purses u.here u.housekeeping u.dist).bare := by
    rw [State.form_bare]; rfl
  cases hw : s.curWho with
  | teller =>
    have hT : s.isTeller = true := by simp [State.isTeller, hw]
    have hU : u.curWho = .teller := h.who.trans hw
    have hTu : u.isTeller = true := by simp [State.isTeller, hU]
    have hpay : s.payer = u.here.teller.act.map (fun a => a.job) := by simp [State.payer, hT, h.act hT]
    have hR : s.replay = none := by simp [State.replay, hT]
    have ha : ∀ u : State, u.afterWord s = u := fun u => by simp only [State.afterWord, hR]
    have hc : u.charge n = { u.form (Tab.put u.purses u.curCore (u.purse u.curCore - n)) u.here
        (u.accounts (u.here.teller.act.map (fun a => a.job)) n).1 (u.accounts (u.here.teller.act.map (fun a => a.job)) n).2 with
          cores := u.cores } := by
      rw [State.charge_teller u n hU]
      unfold State.accounts State.countTo State.form
      cases u.here.teller.act.map (fun a => a.job) with
      | none => rfl
      | some j => by_cases e : j = 0 <;> simp only [e, if_true, if_false] <;> rfl
    have ht : (u.charge n).retire s = u.form (Tab.put u.purses u.curCore (u.purse u.curCore - n))
        { u.here with teller := { u.here.teller with
          ctx := { u.here.teller.ctx with pc := s.pc + 4 }, act := u.here.teller.act.map (fun a => { a with count := a.count + 1 }) } }
        (u.accounts (u.here.teller.act.map (fun a => a.job)) n).1 (u.accounts (u.here.teller.act.map (fun a => a.job)) n).2 := by
      rw [hc]
      simp only [State.retire, State.retireTo, State.counted, hU, State.updHere, State.setPc, State.updCtx,
        State.setCtx, State.ctx, State.updCore, State.setCore, State.here, State.core, State.form, Tab.get_put_self, Tab.put_put]
    rw [ht]
    have hcu : u.ctx = u.here.teller.ctx := by simp [State.ctx, hU]
    refine ⟨⟨?_, ?_, ?_, ?_, ?_⟩, ?_, ?_, ?_, ?_, ?_, ?_, ?_, ?_⟩
    · rw [State.form_purse, h.core, Tab.get_put_self, h.purse]
    · rw [hpay]; exact (countTo_eq h.jobs _ n).1
    · rw [hpay]; exact (countTo_eq h.jobs _ n).2
    · intro h; simp [hT] at h
    · intro h; simp [hT] at h
    · simp only [State.pc, State.form_ctx_teller u _ _ _ _ hU, State.nextPc, hR]
    · intro h; simp [hT] at h
    · intro h; simp [hT] at h
    · intro r; simp only [ha, State.g, State.form_ctx_teller u _ _ _ _ hU, hcu]
    · intro r; simp only [State.v, State.form_ctx_teller u _ _ _ _ hU, hcu]
    · intro r; simp only [State.m, State.form_ctx_teller u _ _ _ _ hU, hcu]
    · intro a; rfl
    · rw [ha, hu0]
      simp only [State.form_bare, Tab.put_put, State.accounts_bare, State.bareCore, hTu, if_true, Teller.bare, Option.map_map]
      rfl
  | slot t =>
    have hT : s.isTeller = false := by simp [State.isTeller, hw]
    have hU : u.curWho = .slot t := h.who.trans hw
    have hTu : u.isTeller = false := by simp [State.isTeller, hU]
    have hN : s.curSlotNo = t := by simp [State.curSlotNo, hw]
    have hNu : u.curSlotNo = t := by simp [State.curSlotNo, hU]
    have hL : u.slot = u.here.slots.get t := by simp [State.slot, hNu, State.slotAt, State.here]
    have hC : u.ctx = (u.here.slots.get t).ctx := by simp [State.ctx, hU, State.slotAt, State.here]
    have hs := h.slot hT
    rw [hL] at hs
    have hpay : s.payer = some (u.here.slots.get t).jobid := by simp [State.payer, hT, hs.2.2]
    have hR := State.replay_slot s t hw
    have hpc : (u.here.slots.get t).ctx.pc = s.pc := by rw [← hC]; exact h.pc
    have hua : (u.afterWord s).bare = ((u.form u.purses u.here u.housekeeping u.dist).afterWord s).bare := by
      unfold State.afterWord
      cases s.replay with
      | none => exact hu0
      | some r =>
        have e : u.setG r.c (r.next (s.g r.c)) = (u.form u.purses u.here u.housekeeping u.dist).setG r.c (r.next (s.g r.c)) := by
          rw [State.form_setG_slot u _ _ _ _ t hU]
          simp only [State.setG, State.updCtx, State.setCtx, hU, hC, State.updSlotAt, State.setSlotAt, State.updCore_form, State.slotAt]
          rfl
        simp only []
        rw [e]
    have hrow : ∀ r, (u.afterWord s).g r = ((u.form u.purses u.here u.housekeeping u.dist).afterWord s).g r := by
      intro r
      unfold State.afterWord
      cases s.replay with
      | none => simp only [State.g, State.form_ctx_slot u _ _ _ _ t hU, hC]
      | some x =>
        have e : u.setG x.c (x.next (s.g x.c)) = (u.form u.purses u.here u.housekeeping u.dist).setG x.c (x.next (s.g x.c)) := by
          rw [State.form_setG_slot u _ _ _ _ t hU]
          simp only [State.setG, State.updCtx, State.setCtx, hU, hC, State.updSlotAt, State.setSlotAt, State.updCore_form, State.slotAt]
          rfl
        simp only []
        rw [e]
    rw [State.charge_slot u t n hU, State.form_retire_slot u _ _ _ _ s t hU]
    simp only [State.get_set_self, State.set_set_self]
    refine ⟨⟨?_, ?_, ?_, ?_, ?_⟩, ?_, ?_, ?_, ?_, ?_, ?_, ?_, ?_⟩
    · rw [State.form_purse, h.core, Tab.get_put_self, h.purse]
    · rw [hpay]; exact (countTo_eq h.jobs _ n).1
    · rw [hpay]; exact (countTo_eq h.jobs _ n).2
    · intro _; rw [State.form_slot, hNu, State.get_set_self, ended_spent, hs.1]
    · intro _; rw [State.form_here, h.heat]
    · simp only [State.pc, State.form_ctx_slot u _ _ _ _ t hU, State.get_set_self, ended_pc]
      rw [State.nextPc, hR, hpc]
      cases s.slot.rpt with
      | none => rfl
      | some r => rfl
    · intro _
      rw [State.form_slot, hNu, State.get_set_self, ended_instret, State.counts, hR, hs.2.1]
      cases s.slot.rpt <;> rfl
    · intro _ e
      rw [hR] at e
      rw [State.form_slot, hNu, State.get_set_self, e]
      simp only [State.ended, State.done]
      exact hpc
    · intro r
      rw [hrow]
      simp only [State.form_afterWord_slot u s _ _ _ _ t hU hw, State.g, State.form_ctx_slot u _ _ _ _ t hU, State.get_set_self]
      rw [← ended_g _ _ _ (s.pc + 4)]
    · intro r
      simp only [State.v, State.form_ctx_slot u _ _ _ _ t hU, State.get_set_self, hC]
      have := ended_v (u.here.slots.get t) s.slot.rpt (s.g (s.slot.rpt.elim 0 (fun r => r.c))) (s.pc + 4)
        ((u.here.slots.get t).coinspent + BitVec.ofNat 64 n)
      exact congrArg (fun y => y.get r.toFin) this
    · intro r
      simp only [State.m, State.form_ctx_slot u _ _ _ _ t hU, State.get_set_self, hC]
      have := ended_m (u.here.slots.get t) s.slot.rpt (s.g (s.slot.rpt.elim 0 (fun r => r.c))) (s.pc + 4)
        ((u.here.slots.get t).coinspent + BitVec.ofNat 64 n)
      split
      · rfl
      · exact congrArg (fun y => y.get r.toFin) this
    · intro a; rfl
    · rw [hua]
      simp only [State.form_afterWord_slot u s _ _ _ _ t hU hw, State.form_bare, Tab.put_put, State.accounts_bare, State.bareCore,
        hTu, hNu, Bool.false_eq_true, if_false, State.get_set_self, State.set_set_self]
      have := bare_slot (u.here.slots.get t) s.slot.rpt (s.g (s.slot.rpt.elim 0 (fun r => r.c))) (s.pc + 4)
        ((u.here.slots.get t).coinspent + BitVec.ofNat 64 n)
      rw [← this]

/-- An instruction that ends as `finish` says, when its effect commutes with the charge. -/
theorem finish_of (s : State) (n : Nat) (w : State → State) (hp : s.canPay n = true) (hw : w (s.charge n) = (w s).charge n)
    (hk : Keeps s (w s)) : ∃ t, finish s n w = .next t ∧ Ran s t (w s) n :=
  ⟨((w s).charge n).retire s, by simp only [finish, paying, hp, if_true, hw], ran_charge s (w s) n hk⟩

/-! ### What commutes with a charge -/

namespace State

@[simp] theorem charge_curWho (s : State) (n : Nat) : (s.charge n).curWho = s.curWho := by
  unfold charge; split
  · rw [chargeSlot, countTo_curWho]; rfl
  · rw [countTo_curWho]; rfl

theorem slot_eq (s : State) (t : Fin 4) (hw : s.curWho = .slot t) : s.slot = s.here.slots.get t := by
  simp [slot, curSlotNo, hw, slotAt, here]

/-- A change to the executing core that leaves heat, coins and owners alone. -/
structure Spares (s : State) (f : Core → Core) : Prop where
  heat : (f s.here).heat = s.here.heat
  act : (f s.here).teller.act = s.here.teller.act
  spent : ((f s.here).slots.get s.curSlotNo).coinspent = s.slot.coinspent
  job : ((f s.here).slots.get s.curSlotNo).jobid = s.slot.jobid
  comm : ∀ h w, f { s.here with heat := h, slots := s.here.slots.set s.curSlotNo { s.slot with coinspent := w } s.curSlotNo.isLt } =
    { f s.here with
      heat := h
      slots := (f s.here).slots.set s.curSlotNo { (f s.here).slots.get s.curSlotNo with coinspent := w } s.curSlotNo.isLt }

theorem here_updHere (s : State) (f : Core → Core) : (s.updHere f).here = f s.here := core_updCore_self s s.curCore f

theorem form_of_updHere (s : State) (f : Core → Core) (P : Tab Nat) (K : Core) (H : Int) (D : Dist) :
    (s.updHere f).form P K H D = s.form P K H D := by
  simp only [form, updHere, updCore, setCore, Tab.put_put]

theorem accounts_updHere (s : State) (f : Core → Core) (j : Option (BitVec 24)) (n : Nat) : (s.updHere f).accounts j n = s.accounts j n := by
  unfold accounts countTo
  cases j with
  | none => rfl
  | some j => by_cases e : j = 0 <;> simp only [e, if_true, if_false] <;> rfl

theorem charge_updHere (s : State) (n : Nat) (f : Core → Core) (h : s.Spares f) :
    (s.charge n).updHere f = (s.updHere f).charge n := by
  cases hw : s.curWho with
  | teller =>
    have e : (s.updHere f).curWho = .teller := hw
    rw [charge_teller s n hw, charge_teller _ n e, here_updHere, h.act]
    unfold countTo
    cases s.here.teller.act.map (fun a => a.job) with
    | none => rfl
    | some j => by_cases e : j = 0 <;> simp only [e, if_true, if_false] <;> rfl
  | slot t =>
    have e : (s.updHere f).curWho = .slot t := hw
    have hn : s.curSlotNo = t := by simp [curSlotNo, hw]
    have h1 := h.spent
    have h2 := h.job
    have h3 := h.comm
    simp only [hn, slot_eq s t hw] at h1 h2 h3
    rw [charge_slot s t n hw, form_updHere, charge_slot _ t n e, here_updHere, h3, ← h1, ← h2, ← h.heat]
    rw [form_of_updHere, accounts_updHere]
    rfl

/-- The register file's change as a change of the core. -/
def ctxCore (s : State) (f : Ctx → Ctx) (k : Core) : Core :=
  match s.curWho with
  | .slot t => { k with slots := k.slots.set t { k.slots.get t with ctx := f (k.slots.get t).ctx } t.isLt }
  | .teller => { k with teller := { k.teller with ctx := f k.teller.ctx } }

theorem updCtx_eq (s : State) (f : Ctx → Ctx) : s.updCtx f = s.updHere (s.ctxCore f) := by
  cases hw : s.curWho with
  | teller => simp only [updCtx, setCtx, ctx, hw, updHere, updCore, here]; unfold ctxCore; rw [hw]
  | slot t => simp only [updCtx, setCtx, ctx, hw, updHere, updCore, updSlotAt, setSlotAt, slotAt]; unfold ctxCore; rw [hw]

theorem ctxCore_charge (s : State) (n : Nat) (f : Ctx → Ctx) : (s.charge n).ctxCore f = s.ctxCore f := by
  unfold ctxCore; rw [charge_curWho]

theorem spares_ctxCore (s : State) (f : Ctx → Ctx) : s.Spares (s.ctxCore f) := by
  cases hw : s.curWho with
  | teller => constructor <;> intros <;> simp only [ctxCore, hw] <;> rfl
  | slot t =>
    have hn : s.curSlotNo = t := by simp [curSlotNo, hw]
    constructor <;> intros <;> simp only [ctxCore, hw, hn, slot_eq s t hw, get_set_self, set_set_self]

theorem charge_updCtx (s : State) (n : Nat) (f : Ctx → Ctx) : (s.charge n).updCtx f = (s.updCtx f).charge n := by
  rw [updCtx_eq, updCtx_eq, ctxCore_charge, charge_updHere s n _ (spares_ctxCore s f)]

end State

theorem keeps_updHere {s : State} {f : Core → Core} (h : s.Spares f)
    (hi : s.isTeller = false → ((f s.here).slots.get s.curSlotNo).instret = s.slot.instret)
    (hp : (s.updHere f).pc = s.pc) : Keeps s (s.updHere f) where
  core := rfl
  who := rfl
  purse := rfl
  jobs := rfl
  heat := by rw [State.here_updHere]; exact h.heat
  slot _ := by
    have e : (s.updHere f).slot = (f s.here).slots.get s.curSlotNo := by
      rw [State.slot, State.slotAt, show (s.updHere f).core (s.updHere f).curCore = (s.updHere f).here from rfl, State.here_updHere]; rfl
    rw [e]; exact ⟨h.spent, hi ‹_›, h.job⟩
  act _ := by rw [State.here_updHere]; exact h.act
  pc := hp

/-! ### Effects outside the core table, and on the slot -/

namespace State

variable (s : State) (n : Nat)

theorem charge_post (d : Nat) (h : BitVec 6) (q : Req) (b : Body) : (s.charge n).post d h q b = (s.post d h q b).charge n := by
  cases hw : s.curWho with
  | teller =>
    have e : (s.post d h q b).curWho = .teller := hw
    rw [charge_teller s n hw, charge_teller _ n e]
    unfold countTo
    rw [show (s.post d h q b).here = s.here from rfl]
    cases s.here.teller.act.map (fun a => a.job) with
    | none => rfl
    | some j => by_cases e : j = 0 <;> simp only [e, if_true, if_false] <;> rfl
  | slot t =>
    have e : (s.post d h q b).curWho = .slot t := hw
    rw [charge_slot s t n hw, charge_slot _ t n e, show (s.post d h q b).here = s.here from rfl]
    unfold accounts countTo form
    by_cases e : (s.here.slots.get t).jobid = 0 <;> simp only [e, if_true, if_false] <;> rfl

theorem charge_enqueue (r : RootReq) : (s.charge n).enqueue r = (s.enqueue r).charge n := by
  cases hw : s.curWho with
  | teller =>
    have e : (s.enqueue r).curWho = .teller := hw
    rw [charge_teller s n hw, charge_teller _ n e]
    unfold countTo
    rw [show (s.enqueue r).here = s.here from rfl]
    cases s.here.teller.act.map (fun a => a.job) with
    | none => rfl
    | some j => by_cases e : j = 0 <;> simp only [e, if_true, if_false] <;> rfl
  | slot t =>
    have e : (s.enqueue r).curWho = .slot t := hw
    rw [charge_slot s t n hw, charge_slot _ t n e, show (s.enqueue r).here = s.here from rfl]
    unfold accounts countTo form
    by_cases e : (s.here.slots.get t).jobid = 0 <;> simp only [e, if_true, if_false] <;> rfl

theorem charge_modules : (s.charge n).modNo = s.modNo ∧ (s.charge n).abroad = s.abroad := by
  cases hw : s.curWho with
  | teller =>
    rw [charge_teller s n hw]
    unfold countTo
    split
    · exact ⟨rfl, rfl⟩
    · split <;> exact ⟨rfl, rfl⟩
  | slot t =>
    rw [charge_slot s t n hw]
    exact ⟨rfl, rfl⟩

theorem charge_toRoot (r : RootReq) : (s.charge n).toRoot r = (s.toRoot r).charge n := by
  have e : ∀ j, clearingMod (s.charge n) j = clearingMod s j := fun j => by
    simp only [clearingMod, (charge_modules s n).1, (charge_modules s n).2]
  unfold toRoot rootAbroad
  rw [e, (charge_modules s n).1]
  split
  · exact charge_enqueue s n r
  · exact charge_post s n _ _ _ _

/-- The notes changed. -/
def withNotes (s : State) (x : List Note) : State := { s with notes := x }

theorem charge_withNotes (x : List Note) : (s.charge n).withNotes x = (s.withNotes x).charge n := by
  cases hw : s.curWho with
  | teller =>
    have e : (s.withNotes x).curWho = .teller := hw
    rw [charge_teller s n hw, charge_teller _ n e]
    unfold countTo
    rw [show (s.withNotes x).here = s.here from rfl]
    cases s.here.teller.act.map (fun a => a.job) with
    | none => rfl
    | some j => by_cases e : j = 0 <;> simp only [e, if_true, if_false] <;> rfl
  | slot t =>
    have e : (s.withNotes x).curWho = .slot t := hw
    rw [charge_slot s t n hw, charge_slot _ t n e, show (s.withNotes x).here = s.here from rfl]
    unfold accounts countTo form
    by_cases e : (s.here.slots.get t).jobid = 0 <;> simp only [e, if_true, if_false] <;> rfl

theorem charge_notes : (s.charge n).notes = s.notes := by
  unfold charge chargeSlot countTo
  split
  · split
    · rfl
    · split <;> rfl
  · split
    · rfl
    · split <;> rfl

theorem charge_curCore : (s.charge n).curCore = s.curCore := by
  unfold charge; split
  · rw [chargeSlot, countTo_curCore]; rfl
  · rw [countTo_curCore]; rfl

theorem charge_slot_instret : (s.charge n).slot.instret = s.slot.instret := by
  cases hw : s.curWho with
  | teller =>
    rw [charge_teller s n hw]
    unfold countTo
    split
    · rfl
    · split <;> rfl
  | slot t =>
    rw [charge_slot s t n hw, form_slot, slot_eq s t hw, show s.curSlotNo = t by simp [curSlotNo, hw], get_set_self]

theorem charge_ctx : (s.charge n).ctx = s.ctx := by
  cases hw : s.curWho with
  | teller =>
    rw [charge_teller s n hw]
    unfold countTo
    split
    · rfl
    · split <;> rfl
  | slot t =>
    rw [charge_slot s t n hw, form_ctx_slot s _ _ _ _ t hw, get_set_self]
    simp [ctx, hw, slotAt, here]

theorem note_slot (s : State) (t : Fin 4) (k : NoteKind) (hw : s.curWho = .slot t) :
    s.note k = s.withNotes (s.notes ++ [⟨s.curCore, t, s.pc, s.slot.instret, k⟩]) := by
  unfold note
  split
  · rename_i u h
    rw [hw] at h
    cases h
    rfl
  · rename_i h
    rw [hw] at h
    cases h

theorem charge_note (k : NoteKind) : (s.charge n).note k = (s.note k).charge n := by
  cases hw : s.curWho with
  | teller =>
    have e : (s.charge n).curWho = .teller := by rw [charge_curWho]; exact hw
    unfold note; rw [e, hw]
  | slot t =>
    have e : (s.charge n).curWho = .slot t := by rw [charge_curWho]; exact hw
    rw [note_slot s t k hw, note_slot _ t k e, charge_slot_instret, pc, charge_ctx, charge_notes, charge_curCore, charge_withNotes]
    rfl

/-- A change of the executing slot that leaves its account alone. -/
theorem charge_updSlot (f : Slot → Slot) (h1 : (f s.slot).coinspent = s.slot.coinspent) (h2 : (f s.slot).jobid = s.slot.jobid)
    (h3 : ∀ w, f { s.slot with coinspent := w } = { f s.slot with coinspent := w }) :
    (s.charge n).updSlot f = (s.updSlot f).charge n := by
  have e : ∀ u : State, u.curSlotNo = s.curSlotNo → u.updSlot f =
      u.updHere (fun k => { k with slots := k.slots.set s.curSlotNo (f (k.slots.get s.curSlotNo)) s.curSlotNo.isLt }) := by
    intro u hu; unfold updSlot updSlotAt setSlotAt updHere slotAt updCore; rw [hu]
  have hc : (s.charge n).curSlotNo = s.curSlotNo := by unfold curSlotNo; rw [charge_curWho]
  have hs : s.slot = s.here.slots.get s.curSlotNo := rfl
  rw [e _ hc, e s rfl, charge_updHere]
  constructor
  · rfl
  · rfl
  · simp only [get_set_self]; rw [← hs]; exact h1
  · simp only [get_set_self]; rw [← hs]; exact h2
  · intro h w
    simp only [get_set_self, set_set_self]
    rw [← hs, h3]

end State

theorem keeps_refl (s : State) : Keeps s s := ⟨rfl, rfl, rfl, rfl, rfl, fun _ => ⟨rfl, rfl, rfl⟩, fun _ => rfl, rfl⟩

theorem Keeps.trans {s u v : State} (h : Keeps s u) (k : Keeps u v) : Keeps s v where
  core := k.core.trans h.core
  who := k.who.trans h.who
  purse := by rw [← h.purse, ← h.core]; exact k.purse
  jobs := k.jobs.trans h.jobs
  heat := k.heat.trans h.heat
  slot e := by
    have e' : u.isTeller = false := by unfold State.isTeller; rw [h.who]; exact e
    have a := k.slot e'; have b := h.slot e
    exact ⟨a.1.trans b.1, a.2.1.trans b.2.1, a.2.2.trans b.2.2⟩
  act e := by
    have e' : u.isTeller = true := by unfold State.isTeller; rw [h.who]; exact e
    exact (k.act e').trans (h.act e)
  pc := k.pc.trans h.pc

theorem keeps_post (s : State) (d : Nat) (h : BitVec 6) (q : Req) (b : Body) : Keeps s (s.post d h q b) :=
  ⟨rfl, rfl, rfl, rfl, rfl, fun _ => ⟨rfl, rfl, rfl⟩, fun _ => rfl, rfl⟩

theorem keeps_enqueue (s : State) (r : RootReq) : Keeps s (s.enqueue r) :=
  ⟨rfl, rfl, rfl, rfl, rfl, fun _ => ⟨rfl, rfl, rfl⟩, fun _ => rfl, rfl⟩

theorem keeps_toRoot (s : State) (r : RootReq) : Keeps s (s.toRoot r) := by
  unfold State.toRoot
  split
  · exact keeps_enqueue s r
  · exact keeps_post s _ _ _ _

theorem keeps_note (s : State) (k : NoteKind) : Keeps s (s.note k) := by
  unfold State.note
  split
  · exact ⟨rfl, rfl, rfl, rfl, rfl, fun _ => ⟨rfl, rfl, rfl⟩, fun _ => rfl, rfl⟩
  · exact keeps_refl s

theorem keeps_updCtx (s : State) (f : Ctx → Ctx) (hf : (f s.ctx).pc = s.ctx.pc) : Keeps s (s.updCtx f) := by
  rw [State.updCtx_eq]
  refine keeps_updHere (State.spares_ctxCore s f) ?_ ?_
  · intro hT
    cases hw : s.curWho with
    | teller => simp [State.isTeller, hw] at hT
    | slot t =>
      have hn : s.curSlotNo = t := by simp [State.curSlotNo, hw]
      simp only [State.ctxCore, hw, hn, State.slot_eq s t hw, State.get_set_self]
  · rw [← State.updCtx_eq]; simp only [State.pc, State.ctx_updCtx, hf]

theorem keeps_updSlot (s : State) (f : Slot → Slot) (h1 : (f s.slot).coinspent = s.slot.coinspent)
    (h2 : (f s.slot).jobid = s.slot.jobid) (h3 : (f s.slot).instret = s.slot.instret) (h4 : (f s.slot).ctx.pc = s.slot.ctx.pc) :
    Keeps s (s.updSlot f) := by
  have e : (s.updSlot f).slot = f s.slot := State.slot_updSlot s f
  have hh : (s.updSlot f).here =
      { s.here with slots := s.here.slots.set s.curSlotNo (f s.slot) s.curSlotNo.isLt } := State.core_updCore_self s s.curCore _
  refine ⟨rfl, rfl, rfl, rfl, ?_, fun _ => by rw [e]; exact ⟨h1, h3, h2⟩, fun _ => ?_, ?_⟩
  · rw [hh]
  · rw [hh]
  · cases hw : s.curWho with
    | teller =>
      simp only [State.pc, State.ctx, State.updSlot_curWho, hw]
      rw [hh]
    | slot t =>
      have a : (s.updSlot f).pc = (s.updSlot f).slot.ctx.pc := by
        simp [State.pc, State.ctx, hw, State.slot, State.curSlotNo]
      have b : s.pc = s.slot.ctx.pc := by simp [State.pc, State.ctx, hw, State.slot, State.curSlotNo]
      rw [a, b, e, h4]

theorem finish_ctx (s : State) (n : Nat) (f : Ctx → Ctx) (hp : s.canPay n = true) (hf : ∀ c, (f c).pc = c.pc) :
    ∃ t, finish s n (fun p => p.updCtx f) = .next t ∧ Ran s t (s.updCtx f) n :=
  finish_of s n (fun p => p.updCtx f) hp (State.charge_updCtx s n f) (keeps_updCtx s f (hf _))

theorem finish_setG (s : State) (n : Nat) (d : BitVec 5) (x : Word) (hp : s.canPay n = true) :
    ∃ t, finish s n (fun p => p.setG d x) = .next t ∧ Ran s t (s.setG d x) n := finish_ctx s n _ hp (fun _ => rfl)

theorem finish_setV (s : State) (n : Nat) (d : BitVec 5) (x : Row) (hp : s.canPay n = true) :
    ∃ t, finish s n (fun p => p.setV d x) = .next t ∧ Ran s t (s.setV d x) n := finish_ctx s n _ hp (fun _ => rfl)

theorem finish_setM (s : State) (n : Nat) (d : BitVec 3) (x : Word) (hp : s.canPay n = true) :
    ∃ t, finish s n (fun p => p.setM d x) = .next t ∧ Ran s t (s.setM d x) n := finish_ctx s n _ hp (fun _ => rfl)

/-- Outside a frame, what `Ran` says of the registers after a write to g[d]. -/
theorem Ran.givesG {s t : State} {n : Nat} {d : BitVec 5} {x : Word} (h : Ran s t (s.setG d x) n) (hr : s.replay = none) (r : BitVec 5) :
    t.g r = if r = 0 then 0 else if r = d then x else s.g r := by
  rw [h.regs, State.afterWord, hr]; exact State.g_setG s d r x

theorem givesG_of_finish {i : Instr} {s : State} {n : Nat} {d : BitVec 5} {x : Word}
    (he : exec i s = finish s n (fun p => p.setG d x)) (hp : s.canPay n = true) : GivesG i s n d x := by
  obtain ⟨t, ht, hr⟩ := finish_setG s n d x hp
  exact ⟨t, he.trans ht, hr, hr.givesG⟩

theorem givesV_of_finish {i : Instr} {s : State} {n : Nat} {d : BitVec 5} {x : Row}
    (he : exec i s = finish s n (fun p => p.setV d x)) (hp : s.canPay n = true) : GivesV i s n d x := by
  obtain ⟨t, ht, hr⟩ := finish_setV s n d x hp
  exact ⟨t, he.trans ht, hr, fun r => (hr.rows r).trans (State.v_setV s d r x)⟩

end Sys2Proof.Machine
end

