-- ==== Sys2Proof/Tests/Slice0.lean ====
section
/-!
SUPPORT. Tests: the words of every encoding row, ill-formed terms, single steps, and for every statement states that meet its
hypotheses.
-/
namespace Sys2Proof.Tests

set_option Elab.async false

open Sys2Proof Sys2Proof.Machine

/-! ### States -/

/-- A check traps. -/
def trapped : Option Stop → Bool
  | some (.trap _ _ _) => true
  | _ => false

/-- An answer is this value, or this error. -/
def gives {ε α : Type} [DecidableEq α] (e : Except ε α) (x : α) : Bool := match e with | .ok y => decide (y = x) | .error _ => false
def fails {ε α : Type} [DecidableEq ε] (e : Except ε α) (x : ε) : Bool := match e with | .ok _ => false | .error y => decide (y = x)

/-- Core 0's slot 0 in unit mode with a full purse, in a cycle in which no bank used here refreshes. -/
def w0 : State := { State.reset.setPurse 0 (2 ^ 20) with cycle := 100 }

/-- The same in system mode. -/
def ws : State := w0.updCtx (fun c => { c with status := 1 })

/-- The same core's teller. -/
def wt : State := { w0 with curWho := .teller }

/-- A state with registers g1, g2, ... set. -/
def regs (s : State) (xs : List (BitVec 5 × Word)) : State := xs.foldl (fun t x => t.setG x.1 x.2) s

/-- Core 0 changed. -/
def core0 (s : State) (f : Core → Core) : State := s.updCore 0 f

/-- The address of the first page of the global range, and its entry at core 0: homed there on frame 0. -/
def ga : Word := 0x100000000
def entry0 : PageEntry :=
  { job := 0, vpn := 0x10000, mod := 0, core := 0, frame := 0, share := 1, pin := 0, key := 0, cls := 0, cow := false, w := true, rd := true,
    large := false, st := 1 }
def paged : State := w0.enterPage 0 0 0 (vpnOf ga) 0 true true 0

/-- A sender: slot 0 of core 0, operation 0, nobody's unit. -/
def me0 : Req := ⟨0, 0, 0, 0, 0, 0⟩

/-! ### Words: for every row of the opcode table, its match with operands at the row's bit positions (Tables 3.7 to 3.12) -/

/-- Each word decodes to its instruction, which is well-formed. -/
def wordsAre (l : List (InstrWord × Instr)) : Bool := l.all (fun x => gives (decodeWord x.1) x.2 && x.2.wf)

theorem test_words_01_0 : wordsAre [
    (0x06662800, .add 19 6 5),
    (0x06662801, .sub 19 6 5),
    (0x06662802, .and 19 6 5),
    (0x06662803, .or 19 6 5),
    (0x06662804, .xor 19 6 5),
    (0x06662805, .andn 19 6 5),
    (0x06662806, .sll 19 6 5),
    (0x06662807, .srl 19 6 5),
    (0x06662808, .sra 19 6 5),
    (0x06662809, .rotr 19 6 5),
    (0x0666280A, .slt 19 6 5),
    (0x0666280B, .sltu 19 6 5),
    (0x0666280C, .min 19 6 5),
    (0x0666280D, .max 19 6 5),
    (0x0666280E, .minu 19 6 5),
    (0x0666280F, .maxu 19 6 5),
    (0x06662810, .mul 19 6 5),
    (0x06662811, .mulh 19 6 5),
    (0x06662812, .mulhu 19 6 5),
    (0x06662813, .div 19 6 5),
    (0x06662814, .divu 19 6 5),
    (0x06662815, .rem 19 6 5),
    (0x06662816, .remu 19 6 5),
    (0x06660017, .clz 19 6)] = true := by decide +kernel

theorem test_words_01_1 : wordsAre [
    (0x06660018, .ctz 19 6),
    (0x06660019, .popc 19 6),
    (0x0666001A, .bswap 19 6),
    (0x0666281B, .sel 19 6 5),
    (0x0666289C, .shadd 19 6 5 2),
    (0x0666281D, .extu 19 6 5),
    (0x0666281E, .exts 19 6 5),
    (0x0666281F, .insf 19 6 5)] = true := by decide +kernel

theorem test_words_02 : wordsAre [
    (0x0A66F1EC, .addi 19 6 61932)] = true := by decide +kernel

theorem test_words_03 : wordsAre [
    (0x0E66F1EC, .andi 19 6 61932)] = true := by decide +kernel

theorem test_words_04 : wordsAre [
    (0x1266F1EC, .ori 19 6 61932)] = true := by decide +kernel

theorem test_words_05 : wordsAre [
    (0x1666F1EC, .xori 19 6 61932)] = true := by decide +kernel

theorem test_words_06 : wordsAre [
    (0x1A66F1EC, .slti 19 6 61932)] = true := by decide +kernel

theorem test_words_07 : wordsAre [
    (0x1E66F1EC, .sltiu 19 6 61932)] = true := by decide +kernel

theorem test_words_08 : wordsAre [
    (0x2266002C, .slli 19 6 44),
    (0x2266402C, .srli 19 6 44),
    (0x2266802C, .srai 19 6 44),
    (0x2266C02C, .rotri 19 6 44)] = true := by decide +kernel

theorem test_words_09 : wordsAre [
    (0x2661F1EC, .lih 19 1 61932)] = true := by decide +kernel

theorem test_words_0A : wordsAre [
    (0x2A60E3D8, .adpc 19 58328)] = true := by decide +kernel

theorem test_words_0B : wordsAre [
    (0x2E662C00, .fadd 19 6 5 2),
    (0x2E662C01, .fsub 19 6 5 2),
    (0x2E662C02, .fmul 19 6 5 2),
    (0x2E662C03, .fma 19 6 5 2),
    (0x2E662C04, .fdiv 19 6 5 2),
    (0x2E660605, .fsqrt 19 6 3),
    (0x2E662C06, .fmin 19 6 5 2),
    (0x2E662C07, .fmax 19 6 5 2),
    (0x2E662CC8, .fcmp 19 6 5 2 3),
    (0x2E660489, .fcvt 19 6 2 1),
    (0x2E66060A, .fclass 19 6 3),
    (0x2E66074B, .ftoi 19 6 3 2 1),
    (0x2E66074C, .itof 19 6 3 2 1)] = true := by decide +kernel

theorem test_words_0C : wordsAre [
    (0x326658F6, .ld 19 6 5 2294)] = true := by decide +kernel

theorem test_words_0D : wordsAre [
    (0x366648F6, .st 19 6 4 2294)] = true := by decide +kernel

theorem test_words_0E : wordsAre [
    (0x3A662850, .amoAdd 19 6 5 2 1),
    (0x3A662851, .amoAnd 19 6 5 2 1),
    (0x3A662852, .amoOr 19 6 5 2 1),
    (0x3A662853, .amoXor 19 6 5 2 1),
    (0x3A662854, .amoMin 19 6 5 2 1),
    (0x3A662855, .amoMax 19 6 5 2 1),
    (0x3A662856, .amoMinu 19 6 5 2 1),
    (0x3A662857, .amoMaxu 19 6 5 2 1),
    (0x3A662858, .amoSwap 19 6 5 2 1),
    (0x3A662859, .amoCas 19 6 5 2 1)] = true := by decide +kernel

theorem test_words_0F : wordsAre [
    (0x3E6611EC, .beq 19 6 4588),
    (0x3E6631EC, .bne 19 6 4588),
    (0x3E6651EC, .blt 19 6 4588),
    (0x3E6671EC, .bge 19 6 4588),
    (0x3E6691EC, .bltu 19 6 4588),
    (0x3E66B1EC, .bgeu 19 6 4588),
    (0x3E66D1EC, .bbs 19 6 4588),
    (0x3E66F1EC, .bbc 19 6 4588)] = true := by decide +kernel

theorem test_words_10 : wordsAre [
    (0x4269E3D8, .jal 19 648152)] = true := by decide +kernel

theorem test_words_11 : wordsAre [
    (0x4666F1EC, .jalr 19 6 61932)] = true := by decide +kernel

theorem test_words_12 : wordsAre [
    (0x4A71C800, .rpt 19 8 3 2 1)] = true := by decide +kernel

theorem test_words_13 : wordsAre [
    (0x4C130000, .nest 19),
    (0x4C330000, .next 19),
    (0x4C533000, .nestq 19 6)] = true := by decide +kernel

theorem test_words_14 : wordsAre [
    (0x5000EC40, .trap 945),
    (0x50000001, .eret),
    (0x5000EC42, .brk 945),
    (0x50000003, .yield),
    (0x50000004, .exit),
    (0x5260F605, .crr 19 984),
    (0x5013F606, .crw 19 984),
    (0x52662807, .pmap 19 6 5)] = true := by decide +kernel

theorem test_words_15 : wordsAre [
    (0x54260000, .fdset 1 6),
    (0x54130001, .mcfg 19),
    (0x54130002, .mprog 19)] = true := by decide +kernel

theorem test_words_16 : wordsAre [
    (0x5A662E60, .vadd 19 6 5 6 1 2),
    (0x5A662E61, .vsub 19 6 5 6 1 2),
    (0x5A662E62, .vmul 19 6 5 6 1 2),
    (0x5A662E63, .vmulh 19 6 5 6 1 2),
    (0x5A662E64, .vmin 19 6 5 6 1 2),
    (0x5A662E65, .vmax 19 6 5 6 1 2),
    (0x5A662E66, .vminu 19 6 5 6 1 2),
    (0x5A662E67, .vmaxu 19 6 5 6 1 2),
    (0x5A662E68, .vand 19 6 5 6 1 2),
    (0x5A662E69, .vor 19 6 5 6 1 2),
    (0x5A662E6A, .vxor 19 6 5 6 1 2),
    (0x5A662E6B, .vsll 19 6 5 6 1 2),
    (0x5A662E6C, .vsrl 19 6 5 6 1 2),
    (0x5A662E6D, .vsra 19 6 5 6 1 2),
    (0x5A662E6E, .vabsd 19 6 5 6 1 2),
    (0x5A662E6F, .vadds 19 6 5 6 1 2)] = true := by decide +kernel

theorem test_words_17 : wordsAre [
    (0x5E662E60, .vfadd 19 6 5 6 1 2),
    (0x5E662E61, .vfsub 19 6 5 6 1 2),
    (0x5E662E62, .vfmul 19 6 5 6 1 2),
    (0x5E662E63, .vfma 19 6 5 6 1 2),
    (0x5E662E64, .vfms 19 6 5 6 1 2),
    (0x5E662E65, .vfdiv 19 6 5 6 1 2),
    (0x5E660456, .vfsqrt 19 6 4 1 1),
    (0x5E662E67, .vfmin 19 6 5 6 1 2),
    (0x5E662E68, .vfmax 19 6 5 6 1 2),
    (0x5E660459, .vfabs 19 6 4 1 1),
    (0x5E66045A, .vfneg 19 6 4 1 1)] = true := by decide +kernel

theorem test_words_18 : wordsAre [
    (0x62661E60, .vcvtf 19 6 3 6 1 2),
    (0x62663361, .vftoi 19 6 1 2 3 1 2),
    (0x62663362, .vitof 19 6 1 2 3 1 2),
    (0x62662663, .vnarrow 19 6 4 6 1 2),
    (0x62662664, .vwiden 19 6 4 6 1 2),
    (0x62662025, .vscale 19 6 4 2),
    (0x62662026, .vqblk 19 6 4 2)] = true := by decide +kernel

theorem test_words_19 : wordsAre [
    (0x66660420, .vbcast 19 6 4 2),
    (0x66662851, .vext 19 6 5 1 1),
    (0x66662822, .vins 19 6 5 2),
    (0x66662E63, .vperm 19 6 5 6 1 2),
    (0x66662E64, .vslideu 19 6 5 6 1 2),
    (0x66662E65, .vslided 19 6 5 6 1 2),
    (0x66662E66, .vzip 19 6 5 6 1 2),
    (0x66662E67, .vunzip 19 6 5 6 1 2),
    (0x66662E68, .vmerge 19 6 5 6 1 2),
    (0x66600139, .mpopc 19 1 3),
    (0x6660013A, .mfirst 19 1 3),
    (0x6426000B, .mset 1 6)] = true := by decide +kernel

theorem test_words_1A : wordsAre [
    (0x6A660450, .vrsum 19 6 4 1 1),
    (0x6A660451, .vrmax 19 6 4 1 1),
    (0x6A660452, .vrmin 19 6 4 1 1),
    (0x6A660453, .vrsumi 19 6 4 1 1),
    (0x6A660454, .vscan 19 6 4 1 1)] = true := by decide +kernel

theorem test_words_1B : wordsAre [
    (0x6E660450, .vexp2 19 6 4 1 1),
    (0x6E660451, .vlog2 19 6 4 1 1),
    (0x6E660452, .vexp 19 6 4 1 1),
    (0x6E660453, .vlog 19 6 4 1 1),
    (0x6E660454, .vsin 19 6 4 1 1),
    (0x6E660455, .vcos 19 6 4 1 1),
    (0x6E660456, .vtanh 19 6 4 1 1),
    (0x6E660457, .vsigm 19 6 4 1 1),
    (0x6E660458, .verf 19 6 4 1 1),
    (0x6E660459, .vrcp 19 6 4 1 1),
    (0x6E66045A, .vrsqrt 19 6 4 1 1)] = true := by decide +kernel

theorem test_words_1C : wordsAre [
    (0x70262E60, .vcmpeq 1 6 5 6 1 2),
    (0x70262E61, .vcmpne 1 6 5 6 1 2),
    (0x70262E62, .vcmplt 1 6 5 6 1 2),
    (0x70262E63, .vcmple 1 6 5 6 1 2),
    (0x70262E64, .vcmpltu 1 6 5 6 1 2),
    (0x70262E65, .vcmpleu 1 6 5 6 1 2),
    (0x70262E68, .vfcmpeq 1 6 5 6 1 2),
    (0x70262E69, .vfcmplt 1 6 5 6 1 2),
    (0x70262E6A, .vfcmple 1 6 5 6 1 2),
    (0x70262E6B, .vfcmpun 1 6 5 6 1 2),
    (0x7021200C, .mand 1 1 4),
    (0x7021200D, .mor 1 1 4),
    (0x7021200E, .mxor 1 1 4),
    (0x7021000F, .mnot 1 1)] = true := by decide +kernel

theorem test_words_1D : wordsAre [
    (0x76660420, .ldv 19 6 4 2),
    (0x76660421, .stv 19 6 4 2),
    (0x76662E12, .ldvs 19 6 5 6 1),
    (0x76662E13, .stvs 19 6 5 6 1),
    (0x76662E14, .ldvx 19 6 5 6 1),
    (0x76662E15, .stvx 19 6 5 6 1),
    (0x76660036, .ldvb 19 6 3)] = true := by decide +kernel

theorem test_words_1E : wordsAre [
    (0x7A6000C4, .vxch 19 24 4),
    (0x7A601000, .lwin 19)] = true := by decide +kernel

theorem test_words_20 : wordsAre [
    (0x80130000, .act 19),
    (0x80130001, .pre 19),
    (0x82662802, .tld 19 6 5),
    (0x82662803, .tldl 19 6 5),
    (0x82662804, .tst 19 6 5)] = true := by decide +kernel

theorem test_words_21 : wordsAre [
    (0x86662EC0, .tcpy 19 6 5 1 11),
    (0x86662EC1, .tcpym 19 6 5 1 11),
    (0x86662802, .tfpr 19 6 5)] = true := by decide +kernel

theorem test_words_22 : wordsAre [
    (0x8A660060, .rld 19 6 1 2),
    (0x8A6600A1, .rstr 19 6 2 2),
    (0x8A660042, .vrld 19 6 1),
    (0x8A660083, .vrst 19 6 2)] = true := by decide +kernel

theorem test_words_23 : wordsAre [
    (0x8E662D00, .rfaAdd 19 6 5 2 1),
    (0x8E662D10, .rfaAnd 19 6 5 2 1),
    (0x8E662D20, .rfaOr 19 6 5 2 1),
    (0x8E662D30, .rfaXor 19 6 5 2 1),
    (0x8E662D40, .rfaMin 19 6 5 2 1),
    (0x8E662D50, .rfaMax 19 6 5 2 1),
    (0x8E662D60, .rfaMinu 19 6 5 2 1),
    (0x8E662D70, .rfaMaxu 19 6 5 2 1),
    (0x8E662D80, .rfaSwap 19 6 5 2 1),
    (0x8E662D01, .rcas 19 6 5 2 1),
    (0x8E660102, .lrw 19 6 1),
    (0x8C133103, .sch 19 6 1)] = true := by decide +kernel

theorem test_words_24 : wordsAre [
    (0x926629B0, .send 19 6 5 54),
    (0x926629B1, .sendm 19 6 5 54),
    (0x9260000A, .qpush 19 1),
    (0x9260000B, .qpop 19 1),
    (0x9260000C, .qpeek 19 1),
    (0x90133025, .qbind 19 6 4)] = true := by decide +kernel

theorem test_words_25 : wordsAre [
    (0x94130000, .mig 19),
    (0x94000001, .migo),
    (0x96660002, .home 19 6)] = true := by decide +kernel

theorem test_words_26 : wordsAre [
    (0x980004C0, .fence 2 3),
    (0x9A662981, .binit 19 6 5 6),
    (0x98130202, .arrive 19 8),
    (0x98000043, .arrdrop 1),
    (0x98000044, .bwait 1),
    (0x9A600205, .btest 19 8),
    (0x98000006, .abatch),
    (0x98000047, .await 1)] = true := by decide +kernel

theorem test_words_27 : wordsAre [
    (0x9E3138E0, .mma 2 6 4 28 1 1 1 0)] = true := by decide +kernel

theorem test_words_28 : wordsAre [
    (0xA0400000, .mzero 2),
    (0xA0460001, .mst 2 6),
    (0xA0130002, .mldc 19)] = true := by decide +kernel

theorem test_words_29 : wordsAre [
    (0xA4133000, .sptag 19 6),
    (0xA6662801, .spapp 19 6 5),
    (0xA4133002, .spcom 19 6),
    (0xA4133003, .sprej 19 6),
    (0xA6662804, .spretHole 19 6 5),
    (0xA666280C, .spretClose 19 6 5),
    (0xA6662805, .spqry 19 6 5),
    (0xA6662806, .sploc 19 6 5),
    (0xA6660007, .splen 19 6)] = true := by decide +kernel

theorem test_words_2A : wordsAre [
    (0xAA660000, .launch 19 6),
    (0xA8130001, .lwait 19),
    (0xA8130082, .lcancel 19 2),
    (0xAA660003, .lstat 19 6),
    (0xAA660004, .treg 19 6)] = true := by decide +kernel

theorem test_words_2B : wordsAre [
    (0xAE660000, .purse 19 6),
    (0xAE660001, .subs 19 6),
    (0xAC130002, .unsubs 19)] = true := by decide +kernel

theorem test_words_2C : wordsAre [
    (0xB2660000, .crinit 19 6),
    (0xB0133001, .cradd 19 6),
    (0xB0130002, .crwait 19)] = true := by decide +kernel

/-! ### Ill-formed terms: one for each check of `Instr.wf` (R85 step 4), and words that no instruction has -/

theorem test_ill_formed_scalar :
    [Instr.fcmp 1 2 3 0 5, .fcvt 1 2 2 2, .ld 1 2 7 0, .st 1 2 1 0, .st 1 2 3 0, .st 1 2 5 0, .st 1 2 7 0, .rpt 0 1 0 0 0].all
      (fun i => !i.wf) = true := by decide +kernel

theorem test_ill_formed_vector :
    [Instr.vadd 1 8 2 0 1 0, .vadd 1 2 8 0 2 0, .vadd 1 2 3 0 3 0, .vfadd 1 8 2 0 1 0, .vfsqrt 1 2 0 2 0, .vfsqrt 1 8 0 1 0, .vfabs 1 2 0 3 0,
     .vcvtf 1 2 1 0 0 1, .vcvtf 1 2 0 0 2 1, .vftoi 1 2 0 0 0 2 0, .vitof 1 2 0 0 0 2 0, .vnarrow 1 2 0 0 2 0, .vwiden 1 2 0 0 2 0,
     .vext 1 2 0 2 0, .vperm 1 2 8 0 2 0, .vslideu 1 8 0 0 1 0, .vslided 1 2 0 0 2 0, .vzip 1 2 3 0 3 0, .vunzip 1 2 3 0 3 0,
     .vmerge 1 2 3 0 3 0, .vrsum 1 2 0 2 0, .vscan 1 8 0 1 0, .vexp2 1 2 0 2 0, .vcmpeq 1 2 8 0 2 0, .vfcmpun 1 2 3 0 3 0].all
      (fun i => !i.wf) = true := by decide +kernel

theorem test_ill_formed_transfers :
    [Instr.tcpy 1 2 3 0 1, .tcpym 1 2 3 0 1, .rld 1 2 2 0, .rstr 1 2 1 0, .rstr 1 2 3 0, .vrld 1 2 3, .vrst 1 2 1, .fence 1 5, .fence 0 0,
     .mma 0 2 4 0 3 0 0 0, .mma 0 2 8 0 1 0 0 0, .mma 0 2 4 0 0 1 0 0, .mma 0 2 4 0 0 0 0 2, .mma 0 3 4 0 0 0 1 0, .mma 0 2 3 0 0 0 1 0,
     .mma 0 2 4 0 0 0 1 1, .lcancel 1 4].all (fun i => !i.wf) = true := by decide +kernel

theorem test_ill_formed_steps :
    [Instr.messageLanding 262144, .ballastKStep 32768, .unitPlace 0 262144 0, .tileRowStep 262144 0, .dbgread .a 262144 0, .refresh 262144 0].all
      (fun i => !i.wf) = true ∧
    [Instr.messageLanding 262143, .ballastKStep 32767].all (fun i => i.wf) = true := by decide +kernel

theorem test_no_instruction :
    fails (decodeWord 0) .illegalMajor = true ∧ fails (decodeWord 0xFFFFFFFF) .illegalMajor = true ∧
    fails (decodeWord 0x7C000000) .illegalMajor = true ∧ fails (decodeWord 0xB4000000) .illegalMajor = true := by decide +kernel
/-! ### Witnesses: the scalar families -/

theorem test_witness_AluResults : w0.canPay 2 = true ∧ w0.replay = none ∧
    (w0.updSlot (fun l => { l with rpt := some ⟨1, 0, 0, 0, 0⟩ })).replay = some ⟨1, 0, 0, 0, 0⟩ ∧
    (w0.updSlot (fun l => { l with rpt := some ⟨1, 0, 0, 0, 0⟩ })).canPay 2 = true := by decide +kernel

theorem test_witness_FpuResults : w0.canPay 2 = true ∧ w0.isTeller = false := by decide +kernel

theorem test_witness_ControlRegisters :
    (w0.canPay 2 = true ∧ (crBits 0x020).isSome = true ∧ w0.isTeller = false ∧ (crBits 0x021).isSome = true ∧ crPriv 0x021 = false ∧ w0.curCore < 262144 ∧
      w0.purse w0.curCore < 2 ^ 21 ∧ w0.ctx.fpmode &&& 0x00F8 = 0) ∧
    (wt.isTeller = true ∧ (crBits 0x020).isSome = true ∧ wt.canPay 2 = true) ∧
    (ws.canPay 2 = true ∧ ws.isTeller = false ∧ ws.unitMode = false ∧
      ∀ i ∈ [0x020, 0x021, 0x022, 0x023, 0x024, 0x070, 0x071, 0x072, 0x073], crRefused i (ws.g 0).toNat = false) ∧
    crRefused 0x025 ((regs ws [(1, 0x6000)]).g 1).toNat = false ∧
    (crPriv 0x000 = false ∧ crRefused 0x000 (ws.g 0).toNat = false) ∧
    ([0, 1, 2, 3, 4, 5, 6, 7].all (fun j => w0.fdReg j &&& 0xFFF00000 == 0) = true ∧ (crBits 0x025).isSome = true) ∧
    (w0.unitMode = true ∧ crPriv 0x025 = true ∧ crPriv 0x3FF = false ∧ crRefused 0x3FF (w0.g 0).toNat = true) ∧
    ((crBits 0x3FF).isSome = false ∧ (0x007F#10).toNat = 0x07F ∧ wt.canPay 2 = true ∧ crRefused 0x020 (wt.g 0).toNat = false ∧
      crRefused 0x021 ((regs wt [(1, 5)]).g 1).toNat = true ∧ wt.isTeller = true ∧ ({ w0 with logical := true } : State).logical = true ∧
      w0.logical = false) := by decide +kernel

/-- A borrower of core 1's bank, and a page homed here whose row is open. -/
def lent : State := core0 w0 (fun k => { k with grants := [⟨0, 1, 0⟩] })

theorem test_witness_LocalAccesses :
    (watched w0 0 .read = false ∧ w0.bad = []) ∧
    (ws.unitMode = false ∧ ws.isTeller = false ∧ watched ws 0x1E000 .write = false) ∧
    (isGlobal ga = true ∧ gives (homedHere paged ga) entry0 = true ∧ refreshing paged 0 0 = false ∧ (paged.bank 0 0).awaiting = [] ∧ (paged.bank 0 0).held = [] ∧ copyBusy paged.here entry0 = false ∧
      (paged.bank 0 0).row ≠ some (rowOfOff (vaultOff entry0 ga)) ∧
      tileHolds paged 0 (bankOf (vaultOff entry0 ga)) (some (rowOfOff (vaultOff entry0 ga))) = false ∧ pacing paged 0 = false) ∧
    (let s := paged.openRow 0 (some (bankOf (vaultOff entry0 ga), rowOfOff (vaultOff entry0 ga)))
     gives (homedHere s ga) entry0 = true ∧ (s.bank 0 (bankOf (vaultOff entry0 ga))).row = some (rowOfOff (vaultOff entry0 ga))) ∧
    (w0.unitMode = true ∧ lenderOf w0.here 3 = none ∧ fails (homedHere w0 ga) (.remote ga) = true ∧ w0.ctx.status.getLsbD 1 = false) ∧
    (lenderOf lent.here 0 = some 1 ∧ watched lent 0x20000 .read = false ∧ lent.isTeller = false) ∧
    (let s := regs w0 [(1, 2 ^ 48), (2, 1), (3, 0x1FFF8), (4, 0x20000), (5, 0xFFFFFFF8), (6, 0x1E000), (7, 0xA0000), (8, 0x9FFF8)]
     s.unitMode = true ∧ (s.g 1).toNat = 2 ^ 48 ∧ (s.g 2).toNat % 8 ≠ 0 ∧ (s.g 3).toNat % 8 = 0 ∧ (s.g 5).toNat % 8 = 0) ∧
    (let s := regs (w0.updCtx (fun c => { c with status := 2 })) [(1, ga)]
     s.ctx.status.getLsbD 1 = true ∧ s.unitMode = true ∧ fails (homedHere s ga) (.remote ga) = true ∧ homeOf s ga = none) ∧
    (let s : State := { w0 with bad := [tillKey 0 0x1DFC0] }
     s.bad.contains (tillKey s.curCore 0x1DFF8 / 64 * 64) = true ∧ s.unitMode = true) ∧
    (∀ p ∈ [{ entry0 with rd := false }, { entry0 with w := false }, { entry0 with cow := true }],
      let s := core0 paged (fun k => { k with vaultMap := [p] })
      gives (homedHere s ga) p = true ∧ copyBusy s.here p = false ∧ s.unitMode = true) ∧
    (let s := paged.openRow 0 (some (bankOf (vaultOff entry0 ga), rowOfOff (vaultOff entry0 ga)))
     let t : State := { s with bad := [vaultKey 0 (vaultOff entry0 ga) / 64 * 64] }
     gives (homedHere t ga) entry0 = true ∧ refreshing t 0 (bankOf (vaultOff entry0 ga)) = false ∧ t.unitMode = true ∧
      (t.bank 0 (bankOf (vaultOff entry0 ga))).awaiting = [] ∧ t.bad.contains (vaultKey t.curCore (vaultOff entry0 ga) / 64 * 64) = true) := by
  decide +kernel

theorem test_witness_LoadAndStore :
    gives (access w0 0x1DFF8 8 8 .read) ⟨tillKey 0 0x1DFF8, 0, none⟩ = true ∧ gives (access w0 0 8 8 .write) ⟨tillKey 0 0, 0, none⟩ = true ∧
    gives (access w0 1 1 1 .read) ⟨tillKey 0 1, 0, none⟩ = true ∧ w0.canPay 2 = true ∧ w0.replay = none := by decide +kernel

theorem test_witness_AtomicsInPlace :
    gives (access w0 (w0.g 0) 8 8 .both) ⟨tillKey 0 0, 0, none⟩ = true ∧ gives (access w0 (w0.g 0) 4 4 .both) ⟨tillKey 0 0, 0, none⟩ = true ∧
    releaseDone w0 0 = true ∧ w0.canPay 2 = true ∧
    releaseDone (w0.startOp .sent 0 0x91EE5880 .none none 1 none) 0 = false := by decide +kernel

theorem test_witness_BranchesAndJumps : w0.canPay 2 = true ∧ w0.unitMode = true ∧
    (BitVec.ofInt 15 ((w0.g 0).toInt + (1 : Int) * 4)).toNat % 4 = 0 ∧
    (BitVec.ofInt 15 (((regs w0 [(1, 2)]).g 1).toInt + (0 : Int) * 4)).toNat % 4 ≠ 0 ∧ (regs w0 [(1, 2)]).unitMode = true := by decide +kernel

/-- An ADD behind PC 0, with one replay, none, or a progress beyond the frame in g1. -/
def framed (x : Word) : State := { regs w0 [(1, x)] with mem := Memory.writeNat [] (storeKey 0 4) 4 0x04000000 }

theorem test_witness_RepeatFrames :
    frameFits (framed 1).pc 1 = true ∧ (framed 1).isTeller = false ∧ (framed 1).canPay 2 = true ∧ (framed 1).unitMode = true ∧
    (∀ j, j ≤ 0 → frameWordOk ((framed 1).storeWord 0 (framePc 0 j)) = true) ∧ Rpt.rem ((framed 1).g 1) = 1 ∧ Rpt.word ((framed 1).g 1) = 0 ∧
    (∀ j, j ≤ 0 → frameWordOk ((framed 0).storeWord 0 (framePc 0 j)) = true) ∧ Rpt.rem ((framed 0).g 1) = 0 ∧
    Rpt.word ((framed (2 ^ 40)).g 1) = 1 ∧ frameWordOk (w0.storeWord 0 (framePc 0 0)) = false ∧ (framed 1).bad = [] ∧
    (let s : State := { framed 1 with bad := [storeKey 0 0] }
     s.bad.contains (storeKey s.curCore ((framePc s.pc 0).toNat / 64 * 64)) = true ∧ frameFits s.pc 1 = true) := by decide +kernel

/-- A nest descriptor at till address 0 with extents 1 and a counter in the till's page. -/
def nestBytes : List Byte :=
  bytesOf 8 0x100000000 ++ bytesOf 4 1 ++ bytesOf 4 1 ++ bytesOf 4 1 ++ bytesOf 4 1 ++ List.replicate 16 0 ++ bytesOf 4 1 ++ bytesOf 4 1 ++ [1] ++
  List.replicate 15 0
def nested : State := { w0 with mem := Memory.writeBytes [] (tillKey 0 0) nestBytes }
def atNest (f : Nest → Nest) : State := w0.updSlot (fun l => { l with nest := f (nestOf nestBytes) })

theorem test_witness_NestLoadsAndNext :
    (nested.isTeller = false ∧ nested.slot.nest.pending = false ∧ localRange nested (nested.g 0) 8 false = none ∧ (nested.g 0).toNat % 64 = 0 ∧
      localRange nested (nested.g 0) 64 true = none ∧ nestValid (readLocal nested 0 0 64) = true ∧
      (nestOf (readLocal nested 0 0 64)).ctr.toNat % 8 = 0 ∧
      pmapPending nested (nestOf (readLocal nested 0 0 64)).ctr = false ∧
      nested.canPay (2 + 2 * routeHops nested (routeOf nested (nestOf (readLocal nested 0 0 64)).ctr)) = true ∧ nested.canPay 2 = true) ∧
    (let s := regs w0 [(1, 0x1E000), (2, 8)]
     (localRange s (s.g 1) 8 false).isSome = true ∧ localRange s (s.g 2) 8 false = none ∧ (s.g 2).toNat % 64 ≠ 0 ∧ s.unitMode = true ∧
      s.slot.nest.pending = false ∧ s.canPay 2 = true) ∧
    (let s := atNest (fun n => { n with valid := true, fresh := false, exhausted := true })
     s.isTeller = false ∧ s.slot.nest.valid = true ∧ s.slot.nest.fresh = false ∧ s.slot.nest.exhausted = true ∧ s.canPay 2 = true) ∧
    (let s := atNest (fun n => { n with valid := true, fresh := false, exhausted := false, first := 0, last := 2 })
     s.slot.nest.first ≠ s.slot.nest.last ∧ s.slot.nest.first + 1 ≠ s.slot.nest.last ∧ s.replay = none ∧ s.canPay 2 = true) ∧
    (let s := atNest (fun n => { n with valid := true, fresh := false, exhausted := false, first := 0, last := 1, queueMode := true })
     s.slot.nest.first ≠ s.slot.nest.last ∧ s.slot.nest.queueMode = true ∧ s.canPay 2 = true) := by decide +kernel

/-- The teller with an activation of handler 16. -/
def act16 : State := { core0 w0 (fun k => { k with teller := { k.teller with
  act := some ⟨16, 0, ⟨0, 16, me0, .user []⟩, 0, 0⟩ } }) with curWho := .teller }

theorem test_witness_DoubleTrap : ws.isTeller = false ∧ ws.unitMode = false ∧ act16.here.teller.act.isSome = true ∧ act16.curWho = .teller := by
  decide +kernel
theorem test_witness_SystemInstructions :
    (w0.isTeller = false ∧ w0.unitMode = true ∧ w0.canPay 2 = true ∧ w0.here.dbgMod.brkcap = false) ∧
    (let s := core0 w0 (fun k => { k with dbgMod := { k.dbgMod with brkcap := true } })
     s.canPay 2 = true ∧ s.here.dbgMod.brkcap = true ∧ s.here.dbgMod.reason.get s.curSlotNo = 0) ∧
    (ws.unitMode = false ∧ ws.canPay 2 = true ∧ ws.isTeller = false) ∧
    (w0.slot.fault = none ∧ opsLive w0 0 0 = false ∧ w0.slot.nest.pending = false ∧ mtxBusy w0 0 0 = false) ∧
    (let s := w0.updSlot (fun l => { l with fault := some ⟨ga, causeUNCORR, 0, 0, 0, none, .none⟩ })
     s.slot.fault.isSome = true ∧ s.unitMode = true ∧ s.isTeller = false) ∧
    (let s := w0.startOp .sent 0 0x91EE5880 .none none 1 none
     s.slot.fault = none ∧ opsLive s 0 0 = true ∧ s.isTeller = false ∧ s.slot.waiting = false ∧ s.here.grants = []) ∧
    ((w0.setPurse 0 0).updSlot (fun l => { l with waiting := true })).slot.waiting = true := by decide +kernel

/-! ### Witnesses: the vector families -/

/-- An entry waits in core 0's queue 3. -/
def queued : State := core0 w0 (fun k => { k with queues := k.queues.set 3 [⟨0x1234, 1, 0, 2, 0, 0, 0⟩] })

theorem test_witness_IntegerLanes : vSources w0 0 1 2 = .got (w0.v 1) (w0.v 2) none ∧ w0.canPay 6 = true ∧
    vSources queued 1 3 2 = .got 0x1234 (queued.v 2) (some 3) ∧ vSources queued 2 2 3 = .got (queued.v 2) 0x1234 (some 3) := by decide +kernel

theorem test_witness_FloatLanes : vSources w0 0 1 2 = .got (w0.v 1) (w0.v 2) none ∧ vSources w0 0 1 0 = .got (w0.v 1) (w0.v 0) none ∧
    w0.canPay 32 = true ∧ w0.canPay 40 = true := by decide +kernel

/-- FD1 holds a format of 8 bits. -/
def fdState : State := w0.updCtx (fun c => { c with fd := c.fd.set 1 0x00000384 })

theorem test_witness_VectorConversions : vSources w0 0 1 0 = .got (w0.v 1) (w0.v 0) none ∧ w0.canPay 6 = true ∧
    fdValid (fdState.fdReg 1) = true ∧ vSources fdState 0 1 0 = .got (fdState.v 1) (fdState.v 0) none ∧ fdState.canPay 6 = true ∧
    fdState.canPay (6 * ((NarrowFmt.ofBits (fdState.fdReg 1)).perRow * 4 / 64)) = true ∧ fdState.isTeller = false := by decide +kernel

theorem test_witness_Permutes : w0.canPay 6 = true ∧ vSources w0 0 1 0 = .got (w0.v 1) (w0.v 0) none ∧
    vSources w0 0 1 2 = .got (w0.v 1) (w0.v 2) none ∧ vSources queued 1 3 0 = .got 0x1234 (queued.v 0) (some 3) ∧ lent.isTeller = false ∧ lenderOf lent.here 0 = some 1 ∧ lent.canPay 6 = true ∧
    w0.isTeller = false ∧ lenderOf w0.here 3 = none ∧ w0.unitMode = true ∧ w0.canPay 2 = true := by decide +kernel

theorem test_witness_LaneReductions : vSources w0 0 1 0 = .got (w0.v 1) (w0.v 0) none ∧ w0.canPay 16 = true ∧ w0.canPay 6 = true := by
  decide +kernel

theorem test_witness_ComparesAndMasks : vSources w0 0 1 2 = .got (w0.v 1) (w0.v 2) none ∧ w0.canPay 6 = true ∧ w0.canPay 2 = true := by
  decide +kernel

theorem test_witness_VectorLoadsAndStores :
    (∀ j, j < 16 → gives (access w0 (w0.g 1 + BitVec.ofNat 64 (4 * j)) 4 4 .read) ⟨tillKey 0 (4 * j), 0, none⟩ = true) ∧
    w0.canPay (blockCoins (blocksOf (places (w0.m 0) 4 (fun j => ⟨tillKey 0 (4 * j), 0, none⟩)))) = true ∧
    (∀ j, j < 8 → gives (access w0 (w0.g 1 + BitVec.ofNat 64 j * w0.g 2) 8 8 .read) ⟨tillKey 0 0, 0, none⟩ = true) ∧
    w0.canPay (blockCoins (blocksOf (places (w0.m 0) 8 (fun _ => ⟨tillKey 0 0, 0, none⟩)))) = true ∧
    (∀ j, j < 16 → (w0.m 0).getLsbD (4 * j) = true ∧ gives (access w0 (w0.g 1 + BitVec.ofNat 64 (4 * j)) 64 4 .write) ⟨tillKey 0 (4 * j), 0, none⟩
      = true) ∧
    (∀ j, j < 8 → gives (access w0 (w0.g 1 + BitVec.ofNat 64 j * w0.g 2) 8 8 .write) ⟨tillKey 0 0, 0, none⟩ = true) ∧
    gives (access w0 (w0.g 0) 1 1 .read) ⟨tillKey 0 0, 0, none⟩ = true ∧ w0.canPay (blockCoins [⟨tillKey 0 0, 0, none⟩]) = true := by
  decide +kernel

/-! ### Witnesses: matrix, vault, copies -/

/-- The defaults of Table 7.3 with FP8 results. -/
def cfgBytes : List Byte := bytesOf 4 0x01000000 ++ List.replicate 12 0 ++ bytesOf 4 0x3F800000 ++ bytesOf 4 32 ++ bytesOf 4 4096 ++ bytesOf 4 4096

theorem test_witness_MatrixCommandsIssue :
    (w0.isTeller = false ∧ fdValid (((regs w0 [(1, 0x384)]).g 1).extractLsb' 0 32) = true ∧
      ((regs w0 [(1, 0x384)]).g 1).extractLsb' 32 32 = 0) ∧
    (mtxWorks w0 0 = true ∧ w0.here.mtxQ.length < 4 ∧ w0.here.owner = none ∧ recordCheck w0 (w0.g 1) 32 32 = none ∧
      w0.canPay 6 = true ∧ (w0.g 1).toNat % 64 = 0 ∧ w0.canJoin = true ∧
      localRange w0 (w0.g 1) 1024 false = none ∧ eightRanges w0 (w0.g 1) (nextCfg w0).ostride.toNat (outRow (nextCfg w0)) = none ∧
      (w0.g 3).toNat ≤ 4096 ∧ w0.g 3 = 0) ∧
    (let s := { w0 with mem := Memory.writeBytes [] (tillKey 0 0) cfgBytes }
     mcfgValid (mcfgOf (readLocal s 0 0 32)) = true ∧ recordCheck s (s.g 1) 32 32 = none ∧ s.canPay 6 = true) ∧
    (let s := { w0 with mem := Memory.writeBytes [] (tillKey 0 0) (bytesOf 4 1) }
     mprogValid (readLocal s 0 0 32) = true ∧ recordCheck s (s.g 1) 32 32 = none) ∧
    (let s := regs w0 [(3, 1), (2, 0x1000)]
     s.g 3 ≠ 0 ∧ mmaOperands s 1 2 0 false 1 = none ∧ s.canPay 2 = true) ∧
    (w0.here.queues.get (queueOf 0) = [] ∧ mtxWorks w0 0 = true ∧ queued.here.queues.get (queueOf 3) ≠ []) ∧
    (let s := w0.setChan 0 ⟨true, 0, 0, 0, 0, 1⟩
     (s.slot.chans.get (queueOf 0)).bound = true ∧ (s.slot.chans.get (queueOf 0)).free = 0 ∧ mtxWorks s 0 = true ∧ s.here.mtxQ = []) ∧
    (let s := w0.setChan 0 ⟨true, 0, 0, 0, 16, 1⟩
     (s.slot.chans.get (queueOf 0)).bound = true) ∧
    (let s := core0 w0 (fun k => { k with owner := some 1 })
     mtxWorks s 0 = true ∧ ¬(s.here.owner = none ∨ s.here.owner = some s.curSlotNo)) ∧
    (let s := { w0 with mtxBad := [octetOf 0] }
     mtxWorks s 0 = false ∧ s.unitMode = true) := by decide +kernel

/-- The page's address in g1, and its row open. -/
def atPage : State := regs paged [(1, ga)]
def open0 : State := atPage.openRow 0 (some (bankOf (vaultOff entry0 ga), rowOfOff (vaultOff entry0 ga)))

theorem test_witness_VaultInstructionsIssue :
    (gives (vaultCheck atPage (atPage.g 1)) (vaultOff entry0 ga) = true ∧
      (atPage.bank 0 (bankOf (vaultOff entry0 ga))).row = none ∧
      refreshing atPage 0 (bankOf (vaultOff entry0 ga)) = false ∧ (atPage.bank 0 (bankOf (vaultOff entry0 ga))).held = [] ∧
      pacing atPage 0 = false ∧ tileHolds atPage 0 (bankOf (vaultOff entry0 ga)) (some (rowOfOff (vaultOff entry0 ga))) = false ∧
      atPage.canPay 250 = true ∧ atPage.canPay 2 = true) ∧
    (gives (vaultCheck open0 (open0.g 1)) (vaultOff entry0 ga) = true ∧
      (open0.bank 0 (bankOf (vaultOff entry0 ga))).row = some (rowOfOff (vaultOff entry0 ga)) ∧
      refreshing open0 0 (bankOf (vaultOff entry0 ga)) = false ∧ (open0.bank 0 (bankOf (vaultOff entry0 ga))).held = [] ∧
      tileHolds open0 0 (bankOf (vaultOff entry0 ga)) none = false ∧ open0.canPay 2 = true) := by decide +kernel

theorem test_witness_VaultInstructionsIssue_held :
    (∀ row ∈ [none, some (1 : BitVec 8)],
      let s : State := { atPage with cycle := 0 }.setBank 0 (bankOf (vaultOff entry0 ga)) { Bank.reset with row := row }
      gives (vaultCheck s (s.g 1)) (vaultOff entry0 ga) = true ∧ refreshing s 0 (bankOf (vaultOff entry0 ga)) = true ∧
      (s.bank 0 (bankOf (vaultOff entry0 ga))).row = row ∧ row ≠ some (rowOfOff (vaultOff entry0 ga))) ∧
    (let z := bankOf (vaultOff entry0 ga)
     let s := atPage.setBank 0 z { atPage.bank 0 z with held := [none] }
     (s.bank 0 z).held ≠ [] ∧ (s.bank 0 z).row ≠ some (rowOfOff (vaultOff entry0 ga)) ∧
      (let t := open0.updSlotAt 0 1 (fun l => { l with
         phase := .run, tile := some ⟨0, 1, 2, 3, false, [], false, some (z, rowOfOff (vaultOff entry0 ga)), none, false⟩
         ctx := { l.ctx with g := (l.ctx.g.set 2 ga).set 3 1 } })
       tileHolds t 0 z none = true ∧ gives (vaultCheck t (t.g 1)) (vaultOff entry0 ga) = true)) := by decide +kernel

theorem test_witness_VaultInstructionsIssue_tiles :
    (w0.isTeller = false ∧ w0.canPay 2 = true ∧ mtxWorks w0 0 = true ∧ w0.here.mtxQ = [] ∧ latchBusy w0.here = false ∧ w0.here.owner = none ∧
      (∀ k ∈ [(0 : Fin 3), 1, 2], tileChecks atPage k 2 1 3 = none) ∧ (atPage.g 3).toNat % 2 ^ 32 = 0) ∧
    (let s := regs atPage [(3, 63), (2, 0x40)]
     (∀ k ∈ [(0 : Fin 3), 1], tileChecks s k 2 1 3 = none) ∧ tileChecks s 2 1 2 3 = none ∧ (s.g 3).toNat % 2 ^ 32 ≠ 0) ∧
    (let s := core0 atPage (fun k => { k with mtxQ := [.mzero 0], owner := some 0 })
     mtxWorks s 0 = true ∧ s.here.owner = some s.curSlotNo ∧ s.here.mtxQ.isEmpty = false ∧ tileChecks s 1 2 1 3 = none ∧ s.canPay 2 = true) ∧
    (let s := regs atPage [(2, 0x44)]
     trapped (tileChecks s 0 2 1 3) = true ∧ s.unitMode = true ∧ s.canPay 2 = true) := by decide +kernel

theorem test_witness_CopiesIssue :
    (w0.isTeller = false ∧ w0.canJoin = true ∧ w0.canPay 2 = true) ∧
    (copyCheck (w0.g 3) 131072 (w0.g 1) (w0.g 2) = none ∧ isGlobal (w0.g 1) = false ∧ sideCheck w0 (w0.g 1) 0 false = none ∧
      sideCheck w0 (w0.g 2) 0 true = none ∧ (w0.g 3).toNat = 0) ∧
    (let s := regs w0 [(1, 0), (2, 0x100), (3, 128)]
     copyCheck (s.g 3) 131072 (s.g 1) (s.g 2) = none ∧ sideCheck s (s.g 1) 128 false = none ∧ sideCheck s (s.g 2) 128 true = none) ∧
    (let s := regs w0 [(1, 0), (2, ga), (3, 128)]
     copyCheck (s.g 3) 131072 (s.g 1) (s.g 2) = none ∧ sideCheck s (s.g 1) 128 false = none ∧ sideCheck s (s.g 2) 128 true = none ∧
      isGlobal (s.g 2) = true ∧ pmapPending s (s.g 2) 128 = false) ∧
    (let s := regs w0 [(1, 0), (2, 0x100), (3, 64 + 6 * 2 ^ 32)]
     let x := s.g 3
     copyCheck ((x.extractLsb' 0 18).zeroExtend 64) 122880 (s.g 1) (s.g 2) = none ∧ inactivePos s 0 (x.extractLsb' 32 8) = none ∧
      multicastRange s (s.g 1) 64 = none ∧ sideCheck s (s.g 2) 64 true = none ∧ mirrorCores 0 (x.extractLsb' 32 8) ≠ []) ∧
    (mirrorCores 0 ((w0.g 3).extractLsb' 32 8) = [] ∧ inactivePos w0 0 0 = none ∧ multicastRange w0 0 0 = none) ∧
    (let s := regs w0 [(1, ga), (3, 64)]
     (s.g 1).toNat < 2 ^ 48 ∧ (s.g 1).toNat % 64 = 0 ∧ (s.g 1).toNat % 2 ^ 16 + 64 ≤ 2 ^ 16 ∧ sideCheck s (s.g 1) 64 false = none) ∧
    (let s := regs w0 [(1, 0x1000), (3, 65536)]
     (s.g 1).toNat % 64 = 0 ∧ ¬((s.g 1).toNat % 2 ^ 16 + 65536 ≤ 2 ^ 16)) := by decide +kernel

/-! ### Witnesses: remote memory, messages, queues -/

theorem test_witness_RemoteRequestsIssue :
    (let s := regs w0 [(1, ga)]
     isGlobal (s.g 1) = true ∧ (s.g 1).toNat % 8 = 0 ∧ (s.g 1).toNat % 2 ^ 16 + 64 ≤ 2 ^ 16 ∧ releaseDone s 4 = true ∧ s.canJoin = true ∧
      holdFree s (s.g 1) = true ∧ pmapPending s (s.g 1) = false ∧ s.canPay (42 + 3 * routeHops s (heldRoute s (s.g 1))) = true ∧
      s.isTeller = false) ∧
    (let s := regs (w0.startOp .sent 0 0x91EE5880 .none none 1 none) [(1, ga + 0xFFF8)]
     releaseDone s 4 = false ∧ (s.g 1).toNat % 2 ^ 16 + 8 ≤ 2 ^ 16 ∧ 2 ^ 16 < (s.g 1).toNat % 2 ^ 16 + 64 ∧ isGlobal (s.g 1) = true) ∧
    (isGlobal (ga + 1) = true ∧ (ga + 1).toNat % 2 ≠ 0 ∧ isGlobal (ga + 0xFFF9) = true ∧ (ga + 0xFFF9).toNat % 1 = 0) := by decide +kernel

theorem test_witness_MessagesLeave :
    (w0.unitMode = true ∧ (15#6).toNat < 16) ∧
    (sendCheck w0 16 (w0.g 1) (w0.g 2) = none ∧ w0.isReachable 0 = true ∧ w0.isTeller = false ∧ w0.canJoin = true ∧
      w0.canPay (2 + 1 * w0.hopsTo 0) = true) ∧
    (sendCheck wt 16 (wt.g 1) (wt.g 2) = none ∧ wt.isReachable 0 = true ∧ wt.isTeller = true ∧ wt.canPay (2 + 1 * wt.hopsTo 0) = true) ∧
    (w0.ofId 0 = some 0 ∧ octetIds w0 0 0 = [] ∧ w0.canPay 2 = true) ∧
    (let s := regs w0 [(1, 2 * 2 ^ 32)]
     let ids := octetIds s 0 ((s.g 1).extractLsb' 32 8)
     none ∉ ids ∧ ids.filterMap id ≠ [] ∧ s.canPay (2 + ((ids.filterMap id).map (fun x => s.hopsTo x)).sum) = true ∧ s.canJoin = true ∧
      s.isTeller = false ∧ sendCheck s 16 (s.g 0) (s.g 2) = none ∧ ((s.g 1).extractLsb' 32 8).getLsbD 1 = true ∧
      none ∈ octetIds { s with harvested := [1] } 0 ((s.g 1).extractLsb' 32 8) ∧ ({ s with harvested := [1] } : State).unitMode = true) ∧
    w0.isReachable (BitVec.ofNat 26 (2 ^ 18)) = false := by decide +kernel

theorem test_witness_QueuesOfRows :
    ((queued.here.queues.get (queueOf 3)).length = 1 ∧ w0.here.queues.get (queueOf 3) = [] ∧ vSources w0 1 3 0 = .empty (queueOf 3) ∧
      vSources w0 2 0 3 = .empty (queueOf 3) ∧ w0.isTeller = false) ∧
    (let s := w0.setChan 0 ⟨true, 0, 0, 0, 16, 1⟩
     (s.slot.chans.get 0).bound = true ∧ (s.slot.chans.get 0).free ≠ 0 ∧ s.canPay (2 + s.hopsTo 0) = true) ∧
    (let s := w0.setChan 0 ⟨true, 0, 0, 0, 0, 1⟩
     (s.slot.chans.get 0).bound = true ∧ (s.slot.chans.get 0).free = 0 ∧ s.isTeller = false) ∧
    (act16.isTeller = true ∧ act16.here.teller.act.isSome = true ∧ vSources act16 1 3 0 = .empty (queueOf 3) ∧
      act16.here.queues.get 0 = []) ∧
    (w0.unitMode = true ∧ (w0.slot.chans.get 0).bound = false ∧ queued.canPay 4 = true ∧ w0.canPay 2 = true ∧ w0.isReachable 0 = true ∧
      w0.isReachable (BitVec.ofNat 26 (2 ^ 18)) = false) := by decide +kernel

theorem test_witness_MigrationAndPageRequests :
    (w0.isTeller = false ∧ w0.slot.origin = w0.coreId 0 ∧ w0.canPay 2 = true) ∧
    (let s := w0.updSlot (fun l => { l with origin := 5, leaseSize := 512 })
     s.slot.origin ≠ s.coreId 0 ∧ s.slot.leaseSize.toNat * 64 ≤ 32768) ∧
    (let s := w0.updSlot (fun l => { l with origin := 5, leaseSize := 513 })
     s.slot.origin ≠ s.coreId 0 ∧ 32768 < s.slot.leaseSize.toNat * 64 ∧ s.unitMode = true) ∧
    (isGlobal (atPage.g 1) = true ∧ homeOf atPage (atPage.g 1) = some (atPage.coreId 0) ∧
      findPage atPage.here.vaultMap atPage.job (vpnOf ga) ≠ none) ∧
    (let s := regs w0 [(1, ga)]
     isGlobal (s.g 1) = true ∧ homeOf s (s.g 1) = none ∧ s.unitMode = true ∧ findPage s.here.vaultMap s.job (vpnOf ga) = none ∧
      findHint s.here s.job (vpnOf ga) = none) ∧
    (let s := core0 (regs w0 [(1, ga)]) (fun k => { k with hints := k.hints.set 0 (some ⟨0, vpnOf ga, 7⟩) })
     findHint s.here s.job (vpnOf ga) = some 7 ∧ findPage s.here.vaultMap s.job (vpnOf ga) = none) ∧
    (let s := regs w0 [(1, ga), (2, 4)]
     s.unitMode = true ∧ ((s.g 2).extractLsb' 0 4).toNat = 4) ∧
    (let s := regs w0 [(1, ga), (2, 1 + 0x10001 * 2 ^ 16)]
     s.canJoin = true ∧ touchesPage s (vpnOf (s.g 1)) = false ∧ touchesPage s (vpnOf 0x100010000) = false ∧ s.slot.holds = [] ∧
      s.canPay 2 = true ∧ ((s.g 2).extractLsb' 0 4) = 1 ∧ s.isTeller = false ∧ ¬(s.unitMode = true ∧ 4 ≤ ((s.g 2).extractLsb' 0 4).toNat)) := by
  decide +kernel
theorem test_witness_FencesBarriersBatches :
    (w0.isTeller = false ∧ fenceDone w0 4 true true = true ∧ w0.canPay 2 = true ∧ fenceDone w0 3 false true = true) ∧
    (let s := w0.startOp .sent 0 0x91EE5880 .none none 1 none
     fenceDone s 4 true true = false) ∧
    (let s := w0.startOp .write ga (encode (.rstr 1 2 0 3)) .none none 1 none
     fenceDone s 3 false true = false) ∧
    (let s := regs w0 [(1, 2 ^ 24 - 1), (2, 2 ^ 40 - 1), (3, 0xFE)]
     (s.g 1).toNat < 2 ^ 24 ∧ (s.g 2).toNat < 2 ^ 40 ∧ (s.g 3).toNat < 2 ^ 8 ∧ ((s.g 3).extractLsb' 0 8).getLsbD (octetPos 0) = false ∧
      inactivePos s 0 ((s.g 3).extractLsb' 0 8) = none) ∧
    (let s := regs w0 [(1, 1)]
     (s.g 1).extractLsb' 0 26 ≠ s.coreId 0 ∧ s.isReachable ((s.g 1).extractLsb' 0 26) = true ∧ s.canJoin = true ∧
      s.canPay (2 + s.hopsTo ((s.g 1).extractLsb' 0 26)) = true ∧ (w0.g 1).extractLsb' 0 26 = w0.coreId 0) ∧
    (w0.slot.fault = none ∧ w0.slot.waiting = false ∧ w0.here.ops = [] ∧ w0.slot.bwait = none ∧ coresidentHold w0 = false ∧
      w0.slot.tickets.get 0 = none) ∧
    (let s := w0.updSlot (fun l => { l with batch := 1, fault := some ⟨ga, causeUNCORR, 0, 0, 0, none, .none⟩ })
     s.unitMode = true ∧ s.slot.fault.any (fun r => r.batch < s.closeBatch.slot.batch - (0#3).toNat) = true) ∧
    (w0.here.barSums = [] ∧ (w0.barSum 0 0).base = w0.barrier 0 0 ∧
      (let s := w0.startOp .sent 0 0x91EE5880 .none none 1 none
       s.here.ops.all (fun x => s.closeBatch.slot.batch - (1#3).toNat ≤ x.batch) = true ∧ s.here.ops ≠ [] ∧ s.slot.waiting = false)) ∧
    (let s := w0.setTicket 0 (some 7)
     s.slot.tickets.get 0 = some 7 ∧ (7 : BitVec 32) ≠ (s.barrier 0 0).p ∧ s.slot.fault = none ∧ coresidentHold s = false) := by decide +kernel

theorem test_witness_SpanInstructionsIssue :
    (w0.isTeller = false ∧ (w0.g 1).toNat < 2 ^ 48 ∧ w0.canJoin = true ∧
      w0.canPay (2 + hops 0 (entryCore w0 w0.job ((w0.g 1).toNat / 2 ^ 32 % 2 ^ 16))) = true) ∧
    (let x := (regs w0 [(2, 1)]).g 2
     ∀ op ∈ [SpanOp.tag, .app, .com, .rej, .retHole, .retClose, .loc], x &&& ~~~(spanBits op) = 0 ∧ spanCountBad op x = false) ∧
    ((0 : Word) &&& ~~~(spanBits .len) = 0 ∧ spanCountBad .len 0 = false) ∧
    (let s := regs w0 [(1, 2 ^ 48)]
     2 ^ 48 ≤ (s.g 1).toNat ∧ s.unitMode = true) ∧
    (spanCountBad .app 0 = true ∧ w0.unitMode = true) ∧
    (recordCheck w0 (w0.g 2) 64 64 = none ∧
      localRange w0 (queryAddr (readLocal w0 0 0 64)) (64 * queryFlits (readLocal w0 0 0 64)) true = none) ∧
    (let s := regs w0 [(2, 2 ^ 63)]
     (s.g 1).toNat < 2 ^ 48 ∧ s.g 2 &&& ~~~(spanBits .tag) ≠ 0 ∧ s.unitMode = true) := by decide +kernel

/-- A launch 5 of job 0 in a state, and a reduction 1 of job 0 in round 1, which has failed or not. -/
def launch5 (st : Nat) : Launch :=
  ⟨5, launchDescOf (List.replicate 128 0), st, 0, 0, 0, [], true, 0, 0, 0, false, 0, [], [], false, none, false, false⟩
def atLaunch (st : Nat) : State := (regs w0 [(1, 5)]).updDist (fun d => { d with launches := [launch5 st] })
def atRound (x : Word) : State := (regs w0 [(1, x)]).updDist (fun d => { d with reductions := [⟨0, 1, 1, 1, 0, 1, false, [], [], [], false, false⟩] })

theorem test_witness_WorkInstructions :
    (w0.isTeller = false ∧ releaseDone w0 4 = true ∧ recordCheck w0 (w0.g 1) 128 64 = none ∧ recordCheck w0 (w0.g 1) 64 64 = none ∧
      recordCheck w0 (w0.g 1) 32 32 = none ∧ w0.canJoin = true ∧ w0.canPay 40 = true ∧ w0.canPay 10 = true ∧ (w0.g 1).toNat < 2 ^ 8) ∧
    releaseDone (w0.startOp .sent 0 0x91EE5880 .none none 1 none) 4 = false ∧
    (let s := regs w0 [(1, 2 ^ 32)]
     2 ^ 32 ≤ (s.g 1).toNat ∧ s.unitMode = true) ∧
    (let s := regs w0 [(1, 2 ^ 26)]
     (s.g 1).toNat < 2 ^ 30 ∧ (s.g 1).toNat / 2 ^ 26 % 2 ^ 4 = 1 ∧ (s.g 2).toNat % 64 = 0 ∧ localRange s (s.g 2) 64 true = none ∧
      s.canJoin = true ∧ s.canPay 22 = true) ∧
    ((atLaunch 3).g 1 = 5 ∧ (5 : BitVec 32) ≠ (atLaunch 3).slot.launchid ∧
      endedOf (atLaunch 3) (atLaunch 3).slot.jobid 5 = some true ∧
      endedOf (atLaunch 2) (atLaunch 2).slot.jobid 5 = some false ∧ (atLaunch 2).slot.waiting = false ∧ (atLaunch 2).canPay 2 = true ∧
      endedOf w0 w0.slot.jobid 5 = none ∧ w0.unitMode = true ∧ w0.slot.waiting = false ∧
      ((atLaunch 5).updSlot (fun l => { l with waiting := true })).slot.waiting = true) ∧
    ((w0.g 1).extractLsb' 0 32 = w0.slot.launchid ∧ w0.unitMode = true) ∧
    (clearingMod w0 w0.slot.jobid = w0.modNo ∧
      (let s : State := { w0 with abroad := [(0, 3)] }
       clearingMod s s.slot.jobid ≠ s.modNo ∧ (RootReq.lstat me0 5).src = me0 ∧ clearingMod s me0.job ≠ s.modNo)) ∧
    (let s := atRound 0x10000
     roundsOf s 0 ((s.g 1).extractLsb' 16 10) = some (1, false) ∧ (1 + 65536 - (s.g 1).toNat % 2 ^ 16) % 65536 = 1) ∧
    (let s := atRound 0x10001
     roundsOf s 0 ((s.g 1).extractLsb' 16 10) = some (1, false) ∧ (1 + 65536 - (s.g 1).toNat % 2 ^ 16) % 65536 = 0) ∧
    (let s := (atRound 0x10000).updDist (fun d => { d with reductions := d.reductions.map (fun r => { r with failed := true }) })
     roundsOf s 0 ((s.g 1).extractLsb' 16 10) = some (1, true) ∧ s.unitMode = true ∧ s.canPay 2 = true) ∧
    (roundsOf w0 0 0 = none ∧ w0.slot.waiting = false) := by decide +kernel

/-! ### Witnesses: the hubs -/

theorem test_witness_HubRegisters :
    ((0 : BitVec 64).toNat % 32 = (0#5).toNat) ∧
    (let s := { State.reset with portA := { Port.reset with cqsize := 2 } }
     (0#12).toNat < (s.port .a).cqsize.toNat) ∧
    ((State.reset.port .a).cqsize.toNat ≤ (0#12).toNat ∧ (State.reset.port .a).owed = [] ∧ (State.reset.sem 0).owner = none ∧
      (State.reset.port .a).cqhead = (State.reset.port .a).cqtail) ∧
    (let s := { State.reset with sems := State.reset.sems.set 0 ⟨1, some .a, 0⟩ }
     (s.sem 0).owner = some .a ∧ (s.sem 0).owner ≠ none ∧ (s.sem 0).owner ≠ some .b) ∧
    (let s := { State.reset with sems := State.reset.sems.set 0 ⟨1, some .b, 0⟩ }
     (s.sem 0).owner = some .b ∧ (s.sem 0).taken = s.cycle) ∧
    (let s := { State.reset with bootStep := 8, portA := { Port.reset with cqtail := 1 } }
     (s.port .a).cqhead ≠ (s.port .a).cqtail ∧ 8 ≤ s.bootStep) ∧
    (8 ≤ ({ State.reset with bootStep := 8 } : State).bootStep) := by decide +kernel

/-- Hub A with one entry in its command ring and room for one reply; job 0 is open. -/
def job0 : Job := ⟨0, 0, 1, 0, 0, 0, 0, false, false, false⟩
def hubbed (bs : List Byte) : State :=
  { State.reset with
    bootStep := 8
    mem := Memory.writeBytes [] (hubKey .a 0) bs
    portA := { Port.reset with cqsize := 16, cqtail := 1, rqbase := 0x1000, rqsize := 16 }
    dist := { Dist.reset with jobs := [job0] } }

/-- An entry: OP, LEVEL, TAG 7, JOB, NUM, ARG. -/
def entryOf (op level : Nat) (job num : Nat) (arg : Nat) : List Byte :=
  bytesOf 1 op ++ bytesOf 1 level ++ [0, 0] ++ bytesOf 4 7 ++ bytesOf 4 job ++ bytesOf 4 num ++ bytesOf 8 arg

/-- A hub's head command has these parts. -/
def heads (s : State) (op : Nat) : Bool :=
  (headCmd s .a).any (fun x => x.op == op && !x.bad && !descBad x && x.tag == 7)

/-- A command whose launch, graph or phase is there. -/
def known (bs : List Byte) (f : Dist → Dist) : State := (hubbed bs).updDist f

/-- A launch descriptor: one unit, an image of four bytes at a mapped page. -/
def descBytes : List Byte :=
  bytesOf 8 0x100000000 ++ bytesOf 4 4 ++ bytesOf 4 0 ++ bytesOf 4 1 ++ bytesOf 4 1 ++ List.replicate 104 0

def accepted : Verdict → Bool
  | .accept l => decide (l.desc.preds = [] ∧ l.eligible = false ∧ l.st = 0)
  | _ => false

def refusedWith (n : Nat) : Verdict → Bool
  | .refused st => st == n
  | _ => false

theorem test_witness_HubCommands :
    (heads (hubbed (entryOf 1 0 0 0 0)) 1 = true ∧ refusedWith 2 (judge (hubbed (entryOf 1 0 0 0 0)) 0 (List.replicate 128 0)) = true) ∧
    (heads (hubbed (entryOf 2 3 0 0 0)) 2 = true ∧ cancelNames (hubbed (entryOf 2 3 0 0 0)) 3 0 0 = true ∧
      (jobOf (hubbed []) 0).isSome = true ∧ cancelNames (hubbed (entryOf 2 0 0 5 0)) 0 0 5 = false) ∧
    (heads (known (entryOf 3 0 0 5 0) (fun d => { d with launches := [launch5 1] })) 3 = true ∧
      findLaunch (known [] (fun d => { d with launches := [launch5 1] })) 0 5 = some (launch5 1) ∧ findLaunch (hubbed []) 0 5 = none) ∧
    (let s := known (entryOf 4 1 0 9 0) (fun d => { d with scopes := [⟨0, false, 9, 1, 0, 0, 1, 0⟩, ⟨0, true, 8, 1, 0, 0, 1, 0⟩] })
     heads s 4 = true ∧ (findScope s 0 false 9).isSome = true ∧ (findScope s 0 true 8).isSome = true ∧ (jobOf s 0).isSome = true) ∧
    (heads (hubbed (entryOf 4 2 0 8 0)) 4 = true ∧ heads (hubbed (entryOf 4 3 0 0 0)) 4 = true) ∧
    (heads (known (entryOf 5 0 0 5 0) (fun d => { d with launches := [launch5 1] })) 5 = true ∧ (launch5 1).desc.preemptible = false ∧
      ({ launch5 1 with desc := { (launch5 1).desc with preemptible := true } } : Launch).desc.preemptible = true) ∧
    (heads (hubbed (entryOf 6 0 0 0 7)) 6 = true ∧ (7 : Word).toNat < 8 ∧ openJobs (hubbed []) < 4096 ∧
      (hubbed []).dist.nextJob < 2 ^ 24) ∧
    (let s := known (entryOf 6 0 0 0 7) (fun d => { d with jobs := List.replicate 4096 job0 })
     4096 ≤ openJobs s ∧ heads s 6 = true) ∧
    (heads (hubbed (entryOf 7 0 0 0 0)) 7 = true ∧ jobOf (hubbed []) 5 = none) ∧
    (heads (hubbed (entryOf 10 0 0 0 32)) 10 = true ∧ (hubbed []).cycle.toNat / 700 ≤ (hubbed []).tick ∧ (hubbed []).coolantLow = false ∧
      heads (hubbed (entryOf 10 0 0 0 33)) 10 = true ∧
      (let s : State := { hubbed (entryOf 10 0 0 0 32) with cycle := 700 }
       heads s 10 = true ∧ s.tick < s.cycle.toNat / 700)) ∧
    (State.reset.dist.cancels = []) := by decide +kernel

/-- The page is mapped for job 0, and its image of four bytes is there. -/
def judged : State := (({ hubbed [] with mem := Memory.writeNat [] (vaultKey 0 0) 4 0x50000004 } : State).enterPage 0 0 0 (vpnOf ga) 0 true true 0)

theorem test_witness_HubLaunch : accepted (judge judged 0 descBytes) = true := by decide +kernel

/-- A transfer of 64 bytes from the page, whose key slot 0 is loaded. -/
def moving (op : Nat) : State :=
  let s := hubbed (entryOf op 0 0 0 0x100000000 ++ List.replicate 40 0 ++ bytesOf 8 0x2000 ++ bytesOf 8 64 ++ bytesOf 8 0x3000)
  ({ s with keys := s.keys.set 0 { KeySlot.reset with st := 1 } } : State).enterPage 0 0 0 (vpnOf ga) 0 true true 0

def pageReady (g : Glob (Nat × BitVec 6)) : Bool := match g with | .ok _ => true | _ => false

theorem test_witness_HubTransfers : heads (moving 8) 8 = true ∧ heads (moving 9) 9 = true ∧ (jobOf (moving 8) 0).isSome = true ∧
    (headCmd (moving 8) .a).any (fun x => x.arg.toNat % 64 == 0 && imgNat x.desc 0 8 == 0x2000 && imgNat x.desc 8 8 == 64) = true ∧
    dmaWaits (moving 8) 0 false (dmaPieces 300 ga 64) = false ∧ dmaWaits (moving 9) 0 true (dmaPieces 300 ga 64) = false ∧
    pageReady (dmaPage (moving 8) 0 ga 64 false) = true ∧ pageReady (dmaPage (moving 9) 0 ga 64 true) = true := by decide +kernel

/-! ### Witnesses: tellers, homes, barriers, replies -/

/-- A message in the mesh for core 0. -/
def sent (h : BitVec 6) (b : Body) : State := { w0 with net := [⟨0, h, me0, b⟩] }

/-- Core 0's teller busy with a message. -/
def serving (s : State) (h : BitVec 6) (b : Body) : State :=
  core0 s (fun k => { k with teller := { k.teller with act := some ⟨h, 0, ⟨0, h, me0, b⟩, 0, 0⟩ } })

theorem test_witness_LandingAndActivation :
    (netHead (sent 16 (.user [1])) 0 = some (⟨0, 16, me0, .user [1]⟩, []) ∧ (Body.user [1]).forTeller = true ∧
      lrwBlocked ((sent 16 (.user [1])).core 0) ⟨0, 16, me0, .user [1]⟩ = false ∧
      rebuildHolds (sent 16 (.user [1])) 0 ⟨0, 16, me0, .user [1]⟩ = false ∧ freeBuffers ((sent 16 (.user [1])).core 0) ≠ [] ∧
      ((sent 16 (.user [1])).core 0).asleep = false) ∧
    (let m : Msg := ⟨0, 0, me0, .load ga 8⟩
     let s := core0 w0 (fun k => { k with ready := [m], handlers := [(0, ⟨0, true, 0⟩)] })
     (s.core 0).ready = m :: [] ∧ (s.core 0).teller.act = none ∧ (s.core 0).teller.stopped = false ∧ (s.core 0).asleep = false ∧
      ((s.core 0).handlers.get m.handler.toNat ⟨0, false, 0⟩).valid = true ∧ resident m = some m) ∧
    (let s := core0 (sent 16 (.user [])) (fun k => { k with landed := (List.finRange 8).map (fun b => (b, ⟨0, 16, me0, .user []⟩)) })
     freeBuffers (s.core 0) = [] ∧ (netHead s 0).isSome = true) ∧
    (let s := core0 w0 (fun k => { k with landed := [(0, ⟨0, 16, me0, .user []⟩)], handlers := [(16, ⟨0, true, 0x5000⟩)] })
     (s.core 0).ready = [] ∧ (s.core 0).teller.act = none ∧ (s.core 0).teller.stopped = false ∧ (s.core 0).asleep = false ∧
      ((s.core 0).handlers.get 16 ⟨0, false, 0⟩).valid = true ∧ ((s.core 0).handlers.get 17 ⟨0, false, 0⟩).valid = false) := by decide +kernel

/-- Home 0 with the row open, serving a request to its page. -/
def home (b : Body) : State := serving open0 0 b

/-- The home's page is ready for n bytes. -/
def ready (s : State) (n : Nat) (acc : Acc) : Bool :=
  findPage (s.core 0).vaultMap 0 (vpnOf ga) == some entry0 && (permCheck entry0 acc ga).isNone &&
  gives (needRow s 0 (vaultOff entry0 ga)) none && gives (needRow s 0 (vaultOff entry0 ga + n - 1)) none

theorem test_witness_HomesServe :
    (home (.load ga 8)).bad = [] ∧ (home (.load ga 8)).weak = [] ∧ copyBusy ((home (.load ga 8)).core 0) entry0 = false ∧
    (∀ b ∈ [Body.load ga 64, .store ga [1, 2], .rmw ga true .add 1 0, .claim ga 10 1 1 1, .lrw ga true, .sch ga true 1,
        .tileWrite ga 128 0 false ⟨0, 0, none⟩ [] none, .tileWrite ga 64 0 false ⟨0, 0, none⟩ (List.replicate 64 0) none,
        .tileRead ga 128 0 false [⟨0, 0, none⟩] none, .fpr ga 64 0 0 none],
      (home b).work 0 = some ⟨0, 0, me0, b⟩ ∧ ready (home b) 64 .both = true ∧ behindHeld ((home b).core 0) me0 ga = false) ∧
    (senderHere (home (.lrw ga true)) me0 = true ∧ senderHere (home (.lrw ga true)) { me0 with unit := 1 } = false) ∧
    (let s := home (.tileWrite ga 128 0 false ⟨0, 0, none⟩ [] none)
     sentBy s me0 0 = true ∧ gives (sourceBlock s ⟨0, 0, none⟩ 0) (List.replicate 64 0) = true ∧
      s.slotCanPay 0 0 (localCoins 0 + 40) = true ∧ s.slotCanPay 0 0 (40 + localCoins 0 + 2) = true ∧
      fails (sourceBlock { s with bad := [tillKey 0 0] } ⟨0, 0, none⟩ 0) ⟨causeUNCORR, 0, 0⟩ = true) ∧
    findResv ((home (.lrw ga true)).core 0) 0 ga = none ∧
    (let r : Resv := ⟨0, ga, some (0, 0, 0), []⟩
     let s := core0 (home (.sch ga true 1)) (fun k => { k with resvs := [r] })
     findResv (s.core 0) 0 ga = some r ∧ holds r me0 = true ∧ holds { r with holder := some (1, 0, 0) } me0 = false) ∧
    (let s := serving w0 0 (.load ga 8)
     findPage (s.core 0).vaultMap 0 (vpnOf ga) = none ∧ homeLost s 0 0 ga = false ∧ (nextHop s 0 0 ga).isSome = true ∧
      nextHop s 0 0 ga ≠ some 0 ∧ (nextHop s 0 0 ga).all (fun d => decide (dstHops s 0 d ≤ s.purse 0)) = true) ∧
    (let c := clearingCore w0 0 (vpnOf ga)
     let m : Msg := ⟨c, 0, me0, .load ga 8⟩
     let s := w0.updCore c (fun k => { k with teller := { k.teller with act := some ⟨0, 0, m, 0, 0⟩ } })
     s.work c = some m ∧ findPage (s.core c).vaultMap 0 (vpnOf ga) = none ∧ homeLost s c 0 ga = false ∧ nextHop s c 0 ga = none) := by
  decide +kernel

theorem test_witness_BarrierPhases :
    (let b := (w0.barSum 0 0).base
     ¬(b.ea.toNat ≤ b.ca + 1 ∧ b.eb.toNat ≤ b.cb ∧ (b.ea ≠ 0 ∨ b.eb ≠ 0)) ∧ (b.count 1 0 0).full = false ∧ b.full = false ∧
      w0.barSum 0 0 = ⟨w0.cycle, w0.barrier 0 0, 0, 0, 0⟩ ∧ Tab.find (w0.core 0).barSums 0 = none) ∧
    (let s := w0.setBarrier 0 0 ⟨0, 1, 0, 0, 0, 0, 2⟩
     let b := (s.barSum 0 0).base
     (b.ea.toNat ≤ b.ca + 1 ∧ b.eb.toNat ≤ b.cb ∧ b.ea ≠ 0)) ∧
    (let s := w0.setBarrier 0 0 ⟨0, 1, 0, 1, 0, 0, 2⟩
     (s.barrier 0 0).full = true ∧ s.phaseEnded 0 0 = false ∧ ((s.barrierUpdate 0 0 0 0 0).phaseEnded 0 0) = true) ∧
    (serving w0 8 (.arrive 0)).work 0 = some ⟨0, 8, me0, .arrive 0⟩ ∧ (serving w0 8 (.push 0 3)).work 0 = some ⟨0, 8, me0, .push 0 3⟩ := by
  decide +kernel
/-- A message for a slot of core 0, at the head of its router. -/
def landing (s : State) (b : Body) : State := { s with net := [⟨0, 63, me0, b⟩] }

/-- Slot 0 has started an operation of a kind with a destination. -/
def waitsFor (k : OpKind) (d : Dest) : State := w0.startOp k ga 0x88220031 d none 1 none

/-- The operation that a reply of core 0's slot 0 is for. -/
def answers (s : State) : Bool := (opOf s 0 ⟨0, 63, me0, .ack none none⟩).isSome

theorem test_witness_RepliesLand :
    (netHead (landing w0 (.reply [1, 2] none none)) 0 = some (⟨0, 63, me0, .reply [1, 2] none none⟩, []) ∧ me0.slot < 4) ∧
    (∀ k ∈ [OpKind.marked 2 false, .result, .write, .copy], answers (landing (waitsFor k (.g 5)) (.ack none none)) = true) ∧
    (let s := landing (waitsFor .write .none) (.ack none none)
     (opOf s 0 ⟨0, 63, me0, .ack none none⟩).any (fun o => o.left == 1 && o.fault.isNone && o.dest == .none) = true ∧
      (s.slotAt 0 0).fault = none) ∧
    (let s := w0.updSlot (fun l => { l with nest := { l.nest with pending := true } })
     (s.slotAt 0 0).nest.pending = true ∧ (s.slotAt 0 0).unitid = me0.unit ∧ (s.slotAt 0 0).launchid = me0.launch) ∧
    (sentBy w0 me0 0 = true ∧ w0.slotCanPay 0 0 8 = true ∧ frozenAt w0 0 0 = false ∧ stubFor (w0.core 0) 0 = none ∧ leaseHolder (w0.core 0) 0 = none) ∧
    ((w0.core 0).queues.get 3 = [] ∧ 16 ≤ (List.replicate 16 (⟨0, 1, 0, 2, 0, 0, 0⟩ : QEntry)).length) ∧
    (let s := core0 w0 (fun k => { k with slots := k.slots.set 0 { k.slots.get 0 with phase := .run } })
     unitSlot (s.core 0) 0 0 = some 0 ∧ isFrozen (s.slotAt 0 0) = false ∧ (s.slotAt 0 0).incoming = none) ∧
    (let o : Op := ⟨0, 0, 0, .sent, ga, 0, 0, 0x91EE5880, .none, none, 1, none, none, false⟩
     let s := core0 (landing w0 (.sendFault ⟨causeILLOP, 0, 0⟩)) (fun k => { k with sends := [o] })
     (s.core 0).sends.find? (fun x => x.id == me0.op) = some o ∧ (s.core 0).ops.any (fun x => x.id == me0.op) = false ∧
      (s.slotAt 0 0).fault = none) := by decide +kernel

/-! ### Witnesses: pages -/

/-- Core 0 at work on a page request, the page mapped; and its clearing core's entry changed. -/
def paging (b : Body) : State := serving paged 7 b
def cc : Nat := clearingCore paged 0 (vpnOf ga)
def withEntry (b : Body) (f : PageEntry → PageEntry) : State :=
  (paging b).updCore cc (fun k => { k with pages := k.pages.map f })

/-- The copy of a page that moves from core 0 to core 1. -/
def rehome1 (step : Nat) (cow : Bool) (acks : Nat) : Rehome :=
  ⟨9, 0, vpnOf ga, 1, 3, 0, false, 0, step, [(0, vpnOf ga)], some (me0, none), cow, acks, none⟩
def copying (step : Nat) (cow : Bool) (acks : Nat) (b : Body) : State :=
  core0 (serving paged 7 b) (fun k => { k with rehomes := [rehome1 step cow acks] })

theorem test_witness_PageServices :
    (let s := paging (.page (.pmap ga 0 0 0 false) none)
     s.work 0 = some ⟨0, 7, me0, .page (.pmap ga 0 0 0 false) none⟩ ∧ isGlobal ga = true ∧ pageEntry s 0 (vpnOf ga) = some entry0 ∧
      entry0.st = 1 ∧ entry0.pin = 0 ∧ (pmapRun s 0 ga 0 0 0 false).isSome = true ∧ (pmapRun s 0 ga 2 0 0 false).isSome = true) ∧
    (let s := withEntry (.page (.pmap ga 3 0 0 false) none) (fun p => { p with pin := 255 })
     (pageEntry s 0 (vpnOf ga)).any (fun p => p.pin == 255 && p.st == 1) = true) ∧
    (let s := paging (.page (.map 0 0x10001 0 true true 0 none) none)
     vpnValid 0x10001 = true ∧ pageEntry s 0 0x10001 = none ∧ (s.core (clearingCore s 0 0x10001)).pages.length < 1024 ∧
      (placeFrame s (classCore s 0 0x10001 0) (vpnLarge 0x10001)).any
        (fun h => decide ((s.core h).vaultMap.length < 1024) && !(freeFrames s h (vpnLarge 0x10001)).isEmpty) = true) ∧
    (let s := paging (.page (.map 0 0x10001 3 true true 0 (some 1)) none)
     s.ofId 1 = some 1 ∧ (placeFrame s 1 (vpnLarge 0x10001)).isSome = true ∧ (s.core 1).vaultMap.length < 1024 ∧
      freeFrames s 1 (vpnLarge 0x10001) ≠ []) ∧
    (vpnValid 0 = false ∧ (let s := core0 (paging (.page (.map 0 0x10001 0 true true 0 (some 0)) none)) (fun k => { k with
        vaultMap := List.replicate 1024 entry0 })
      pageEntry s 0 0x10001 = none ∧ (s.mapPage 0 0x10001 0 true true 0 (some 0)).isNone = true)) ∧
    (isGlobal (vpnBase (vpnOf ga)) = true ∧ vpnOf (vpnBase (vpnOf ga)) = vpnOf ga) ∧
    (let s := paging (.page (.rehome 0 (vpnOf ga) 1) none)
     entryHome s entry0 = some 0 ∧ entry0.home = 0 ∧ s.ofId 0 = some 0 ∧ s.ofId 1 = some 1 ∧ canMove s 0 (sharers s 0 false 0) = true ∧
      (s.newFrame 1 false (sharers s 0 false 0).length).isSome = true ∧
      (s.newFrame 1 false 1025).isNone = true ∧
      (s.core 1).vaultMap.length + (sharers s 0 false 0).length ≤ 1024 ∧ freeFrames s 1 false ≠ []) ∧
    (let s := withEntry (.page (.rehome 0 (vpnOf ga) 1) none) (fun p => { p with st := 2 })
     (pageEntry s 0 (vpnOf ga)).any (fun p => p.st == 2) = true ∧ clearsHere s 0 = true) ∧
    (let s : State := { paging (.page (.rehome 0 (vpnOf ga) 0x40000) none) with keys := w0.keys.set 0 { KeySlot.reset with st := 1 } }
     keyUsable s 0 0 = true ∧ (0x40000 : BitVec 26).extractLsb' 18 8 ≠ entry0.mod) ∧
    (runOn paged 0 (vpnOf ga) = false ∧
      (let b : Body := .tileWrite ga 128 1 false ⟨0, 0, none⟩ [] none
       let s := core0 (paging (.page (.unmap 0 (vpnOf ga)) none)) (fun k => { k with held := [⟨0, 4, me0, b⟩] })
       runOn s 0 (vpnOf ga) = true)) ∧
    (let s := withEntry (.page (.cowbreak 0 (vpnOf ga)) none) (fun p => { p with cow := true })
     (pageEntry s 0 (vpnOf ga)).any (fun p => p.cow && p.st == 1 && entryHome s p == some 0) = true ∧ entry0.cow = false) ∧
    (let s := paging (.cowBreak 0 (vpnOf ga) none)
     findPage (s.core 0).vaultMap 0 (vpnOf ga) = some entry0 ∧ copyBusy (s.core 0) entry0 = false ∧ entry0.share.toNat ≤ 1 ∧
      rowInFlight s 0 (sharers s 0 false 0) = false ∧ freeFrames s 0 false ≠ []) ∧
    (let s := core0 (paging (.cowBreak 0 (vpnOf ga) none)) (fun k => { k with vaultMap := [{ entry0 with share := 2 }] })
     (findPage (s.core 0).vaultMap 0 (vpnOf ga)).any (fun p => 2 ≤ p.share.toNat && !copyBusy (s.core 0) p &&
        !rowInFlight s 0 (sharers s 0 p.large p.frame)) = true) := by decide +kernel

theorem test_witness_PageMoves :
    (let s := copying 4 false 0 (.rehomeCopy 0 (vpnOf ga) 0 127 [1] [])
     s.work 0 = some ⟨0, 7, me0, .rehomeCopy 0 (vpnOf ga) 0 127 [1] []⟩ ∧
      (s.core 0).rehomes.find? (fun r => r.job == 0 && r.vpn == vpnOf ga && r.step == 4) = some (rehome1 4 false 0) ∧
      640 + 9 * s.hopsDst 0 (s.dstOf 1) ≤ s.purse 0 ∧ copyMessages false = 128) ∧
    (let s := copying 5 false 0 (.user [])
     (s.core 0).rehomes.find? (fun r => (r.step == 5 || r.step == 6) && !r.cow) = some (rehome1 5 false 0) ∧
      (s.core 0).stubs.length + 1 ≤ 64 ∧ s.ofId 1 = some 1) ∧
    (let m : Msg := ⟨0, 0, me0, .load ga 8⟩
     let s := core0 (copying 6 false 0 (.user [])) (fun k => { k with held := [m] })
     (s.core 0).rehomes.find? (fun r => (r.step == 5 || r.step == 6) && !r.cow) = some (rehome1 6 false 0) ∧
      takeFirst (heldFor [(0, vpnOf ga)]) (s.core 0).held = some (m, []) ∧
      ((m.body.pieces (s.dstOf 1)).map Body.flits).sum * s.hopsDst 0 (s.dstOf 1) ≤ s.purse 0) ∧
    (let s := copying 6 false 0 (.user [])
     (s.core 0).held.any (heldFor [(0, vpnOf ga)]) = false ∧ pageEntry s 0 (vpnOf ga) = some entry0 ∧
      requestsDue s 0 [(0, vpnOf ga)] = false ∧ resvRoom s 0 1 [(0, vpnOf ga)] = true ∧ clearsHere s 0 = true ∧
      (s.core 0).vaultMap.filter (fun z => z.job == 0 && z.vpn == vpnOf ga) = [entry0] ∧
      requestsDue { s with net := [⟨0, 0, me0, .load ga 8⟩] } 0 [(0, vpnOf ga)] = true) ∧
    takeFirst (fun r : Rehome => r.step == 7 && r.acks == 0) ((copying 7 false 0 (.user [])).core 0).rehomes = some (rehome1 7 false 0, []) ∧
    (let s := copying 5 true 0 (.user [])
     takeFirst (fun r : Rehome => r.cow && r.step == 5) (s.core 0).rehomes = some (rehome1 5 true 0, []) ∧
      findPage (s.core 0).vaultMap 0 (vpnOf ga) = some entry0 ∧ s.dstOf 1 ≠ 0 ∧ (s.core 0).held.any (heldFor [(0, vpnOf ga)]) = false ∧
      requestsDue s 0 [(0, vpnOf ga)] = false ∧ resvRoom s 0 1 [(0, vpnOf ga)] = true ∧ s.dstOf 0 = 0) := by decide +kernel

theorem test_witness_PageMoves_shootdown :
    (let s := serving paged 7 (.shootdown 0 (vpnOf ga) 5 none)
     (s.pageWork 0).map (fun x => x.1) = some ⟨0, 7, me0, .shootdown 0 (vpnOf ga) 5 none⟩ ∧ (s.core 0).asleep = false ∧ s.isActive 0 = true) ∧
    (let m : Msg := ⟨0, 7, me0, .shootdown 0 (vpnOf ga) 5 none⟩
     let s := core0 { paged with net := [m] } (fun k => { k with asleep := true })
     (s.pageWork 0).map (fun x => (x.1, x.2.net)) = some (m, []) ∧ (s.core 0).asleep = true) ∧
    (∀ due ∈ [1, 2],
      let s := core0 (serving paged 7 (.shootAck 0 (vpnOf ga) 5 none)) (fun k => { k with shoots := [⟨0, vpnOf ga, 5, none, 7, due⟩] })
      (s.pageWork 0).isSome = true ∧
      takeFirst (fun x : Shoot => x.job == 0 && x.vpn == vpnOf ga && x.clearing == 5 && x.move == none) (s.core 0).shoots =
        some (⟨0, vpnOf ga, 5, none, 7, due⟩, [])) ∧
    (let s := copying 7 false 1 (.shootAck 0 (vpnOf ga) 5 (some (0, 9)))
     (s.pageWork 0).isSome = true ∧ (s.core 0).shoots = [] ∧
      (s.core 0).rehomes.find? (fun r => r.id == 9 && r.step == 7) = some (rehome1 7 false 1)) ∧
    (let s := serving paged 7 (.shootAck 0 (vpnOf ga) 0 (some (1, 9)))
     (s.pageWork 0).isSome = true ∧ (s.core 0).shoots = []) ∧
    ((core0 w0 (fun k => { k with rebuilding := true })).core 0).rebuilding = true := by decide +kernel

/-! ### Witnesses: the root -/

/-- The root's queue holds one request; job 0 is open and the page mapped. -/
def asks (r : RootReq) : State := paged.updDist (fun d => { d with queue := [⟨100, r⟩], jobs := [job0] })
def atHead (s : State) (r : RootReq) : Bool := (s.rootHead).any (fun x => x.1 == r)

/-- A descriptor of a tensor of one page, of launches 5 and 5. -/
def tensorBytes : List Byte := bytesOf 4 9 ++ [0, 0, 0, 0] ++ bytesOf 8 0x100000000 ++ bytesOf 8 65536 ++ bytesOf 4 5 ++ bytesOf 4 5 ++ List.replicate 32 0
def tensor5 : Tensor := { tensorOf 0 0 tensorBytes with done := 1 }

/-- A subscription to the joules of the job (quantity 4), notified at the page. -/
def subBytes : List Byte := [4, 3, 0, 0, 0, 0, 0, 0] ++ bytesOf 8 1 ++ bytesOf 8 0x100000000 ++ bytesOf 8 0
def sub0 : Sub := ⟨0, 0, 4, 3, 0, 1, ga, 0, 0, true, true, 1, [7]⟩

/-- A reduction of one slot and one block at the page. -/
def redBytes : List Byte := bytesOf 2 1 ++ [0, 1, 0, 0, 0, 0] ++ bytesOf 8 0x100000000 ++ List.replicate 48 0
def red1 : Reduction := ⟨0, 1, 0, 1, ga, 0, false, [], [], [], false, false⟩

def keyed : Glob Nat → Bool | .ok _ => true | _ => false
def listed : Glob (List (Nat ⊕ Nat)) → Bool | .ok ks => ks.all (fun k => k.isLeft) | _ => false

theorem test_witness_RootPerforms :
    (let s := { asks (.launch me0 descBytes) with mem := Memory.writeNat [] (vaultKey 0 0) 4 0x50000004 }
     atHead s (.launch me0 descBytes) = true ∧ s.dist.queue = [⟨100, .launch me0 descBytes⟩] ∧ hubAt s .a 100 = false ∧
      hubAt s .b 100 = false ∧ s.dist.launches = [] ∧ accepted (judge s 0 descBytes) = true) ∧
    (atHead (asks (.completion me0)) (.completion me0) = true ∧ atHead (asks (.lstat me0 5)) (.lstat me0 5) = true ∧
      atHead (asks (.cancel me0 3 0)) (.cancel me0 3 0) = true ∧ atHead (asks (.treg me0 tensorBytes)) (.treg me0 tensorBytes) = true ∧
      atHead (asks (.subs me0 subBytes)) (.subs me0 subBytes) = true ∧ atHead (asks (.crinit me0 redBytes)) (.crinit me0 redBytes) = true ∧
      atHead (asks (.cradd me0 0 1 1 [])) (.cradd me0 0 1 1 []) = true ∧ atHead (asks (.unsubs me0 0)) (.unsubs me0 0) = true ∧
      atHead (asks (.purse me0 0x10004)) (.purse me0 0x10004) = true) ∧
    (let l : Launch := { launch5 0 with eligible := false, desc := { (launch5 0).desc with preds := [6] } }
     let p : Launch := { launch5 3 with num := 6, endedAt := 50 }
     let s := w0.updDist (fun d => { d with launches := [l, p] })
     launchNo s 5 = some l ∧ dueAt s l = some 50 ∧ resolvesNow s l 50 = true) := by decide +kernel

theorem test_witness_RootPerforms_launches :
    refusedWith 2 (judge (asks (.launch me0 [])) 0 []) = true ∧
    (let s := (asks (.completion { me0 with launch := 5 })).updDist (fun d => { d with launches := [launch5 2] })
     launchNo s 5 = some (launch5 2) ∧ (launch5 2).ended = false ∧ (launch5 2).cancelling = false ∧ s.dist.preempts = [] ∧
      (launch5 2).done + 1 ≠ (launch5 2).desc.units ∧
      ({ launch5 2 with desc := { (launch5 2).desc with units := 1 } } : Launch).done + 1 = 1) ∧
    (let l : Launch := { launch5 1 with waited := 10000, desc := { (launch5 1).desc with units := 1 } }
     l.waits = true ∧ (l.aged + 1) * 10000 ≤ l.waited) ∧
    (cancelNames (asks (.cancel me0 3 0)) 3 0 0 = true ∧ cancelNames (asks (.cancel me0 0 5)) 0 0 5 = false) ∧
    (let s := (asks (.lstat me0 5)).updDist (fun d => { d with launches := [launch5 1] })
     findLaunch s 0 5 = some (launch5 1) ∧ findLaunch (asks (.lstat me0 5)) 0 5 = none) ∧
    (let s := (asks (.treg me0 tensorBytes)).updDist (fun d => { d with launches := [launch5 1] })
     tregStatus s 0 tensorBytes = 0 ∧ (launch5 1).next = 0 ∧ tregStatus (asks (.treg me0 tensorBytes)) 0 tensorBytes ≠ 0) ∧
    (regionOk 0 255 = true ∧ regionOk 0 256 = false ∧ regionOk 5 0 = false) ∧
    (let s := asks (.subs me0 subBytes)
     subsValid subBytes = true ∧ freeSub s 0 = some 0 ∧ keyed (globKey s 0 ga true) = true) ∧
    (let s := asks (.crinit me0 redBytes)
     crinitValid redBytes = true ∧ findReduction s 0 1 = none ∧ (∀ i, i < 1 → globWritable s 0 (ga + BitVec.ofNat 64 (64 * i)) = true)) ∧
    (let s := (asks (.cradd me0 0 1 1 [])).updDist (fun d => { d with reductions := [red1, { red1 with num := 2, logs := 1 }] })
     findReduction s 0 1 = some red1 ∧ red1.slots.length + 1 = 2 ^ red1.logs ∧ listed (resKeys s red1) = true ∧
      (findReduction s 0 2).any (fun r => r.slots.length + 1 != 2 ^ r.logs && !r.failed && r.k == 1) = true) ∧
    (let s := (asks (.unsubs me0 0)).updDist (fun d => { d with subs := [sub0] })
     s.dist.notices = [] ∧ s.dist.subs.filter (fun x => !x.pending.isEmpty) = [sub0] ∧ sub0.pending = [7] ∧ keyed (globKey s 0 sub0.notify true) = true) ∧
    (let l : Launch := { launch5 2 with next := 1, desc := { (launch5 2).desc with units := 1 } }
     l.next = l.desc.units ∧ l.next ≠ 0 ∧ l.ended = false) ∧
    (let s := w0.updDist (fun d => { d with launches := [launch5 3], tensors := [tensor5] })
     (launch5 3).ended = true ∧ s.dist.tensors.filter (fun y => y.last == 5) = [tensor5] ∧ tensor5.done ≠ 0 ∧ s.cores = []) := by
  decide +kernel

/-! ### Witnesses: units on the move -/

/-- A code-store message: the header alone, with handler 16's entry in its program store. -/
def codeHead (flag : Nat) : List Byte :=
  bytesOf 2 0x5000 ++ [0, BitVec.ofNat 8 flag, 16, 0, 0, 0] ++ bytesOf 8 (if flag = 1 then 0x5000 + 2 ^ 16 + 2 ^ 24 else 0) ++ List.replicate 48 0

/-- A launch of one unit and no lease that waits, of job 0. -/
def waiting5 : Launch := { launch5 0 with desc := { (launch5 0).desc with units := 2, upc := 1, image := 0x100000000 } }
def placing5 : State := { w0 with bootStep := 8, logical := true }.updDist (fun d => { d with launches := [waiting5], jobs := [job0] })

/-- Core 0's slot 0 in a phase, a unit of launch 5. -/
def unit5 (s : State) (f : Slot → Slot) : State := s.updSlotAt 0 0 (fun l => f { l with phase := .run, launchid := 5, upc := 1 })

/-- A whole context on its way in. -/
def inc0 : Incoming := ⟨.mig, imageOf Slot.reset none false, [], 0, 0, Beside.none, true, true, 8, 0, none⟩

theorem test_witness_PlacingAndSaving :
    (codeValid (codeHead 0) = true ∧ codeValid (codeHead 1) = true ∧ codeValid (codeHead 2) = true ∧ codeValid [] = false ∧
      (serving w0 9 (.user (codeHead 0))).work 0 = some ⟨0, 9, me0, .user (codeHead 0)⟩) ∧
    (let s := core0 placing5 (fun k => { k with imageDue := some 5 })
     launchNo s 5 = some waiting5 ∧ waiting5.cancelling = false ∧ waiting5.ended = false ∧ (∀ i, (s.slotAt 0 i).phase ≠ .restore) ∧
      (∀ i, (s.slotAt 0 i).phase ≠ .placing) ∧ waiting5.code.length ≤ 0x5000 ∧ tensorsReady s 5 = true) ∧
    (let s := (core0 placing5 (fun k => { k with imageDue := some 5 })).updSlotAt 0 0 (fun l => { l with phase := .placing, launchid := 5 })
     (∀ i, (s.slotAt 0 i).phase ≠ .restore) ∧ (s.slotAt 0 0).phase = .placing ∧
      (∀ i, (s.slotAt 0 i).phase = .placing → (s.slotAt 0 i).launchid = 5)) ∧
    (let s := serving w0 9 (.user [])
     (s.core 0).teller.act.any (fun a => a.handler == 9) = true ∧ me0.slot < 4) ∧
    (waiting5.next < waiting5.desc.units ∧ (placing5.slotAt 0 0).phase = .empty ∧
      (jobOf placing5 0).any (fun j => j.recording) = false ∧ (placing5.core 0).image ≠ some [] ∧ tensorsReady placing5 5 = true ∧
      mayServe placing5 waiting5 0 0 = true ∧
      (let s := core0 placing5 (fun k => { k with image := some [] })
       mayServe s waiting5 0 0 = true ∧ (s.core 0).image = some waiting5.code ∧ (s.core 0).imageDue = none)) := by decide +kernel

theorem test_witness_PlacingAndSaving_ends :
    (let s := (core0 w0 (fun k => { k with grants := [⟨0, 1, 5⟩] })).updCore 1 (fun k => { k with lentTo := [0] })
     (s.core 0).grants = [⟨0, 1, 5⟩] ∧ (∀ i, (s.slotAt 0 i).phase = .empty) ∧ (s.core 1).lentTo = [0] ∧ windowBusy s 0 1 = false) ∧
    (let s := (core0 w0 (fun k => { k with grants := [⟨0, 1, 5⟩] })).updCore 1 (fun k => { k with lentTo := [0, 2] })
     ∃ x ∈ (s.core 1).lentTo, x ≠ 0) ∧
    (let x : Launch := { waiting5 with preempting := some none, desc := { waiting5.desc with preemptible := true } }
     let s := unit5 ({ w0 with cycle := 700000 }.updDist (fun d => { d with launches := [x] })) id
     (s.slotAt 0 0).leaving = none ∧ launchNo s (s.slotAt 0 0).launchid = some x ∧ (s.slotAt 0 0).phase = .run ∧
      preemptCause s x (0, 0) = some none ∧ x.desc.coresident = false) ∧
    (let s := unit5 (w0.updDist (fun d => { d with launches := [waiting5] })) (fun l => { l with
       phase := .drain, leaving := some ⟨.preempt none, 0, 3, none, 0, none⟩ })
     launchNo s (s.slotAt 0 0).launchid = some waiting5 ∧ s.dist.preempts = [] ∧ (s.core 0).saveSet = [] ∧
      44 * (64 + (s.slotAt 0 0).leaseBytes / 64 - 0) ≤ s.purse 0 ∧ (s.core 0).grants = []) ∧
    (let x : SavedUnit := ⟨0, 0, some 0, 0, 0, 0, Beside.none, none, 0⟩
     let l : Launch := { waiting5 with saved := [x] }
     let s := placing5.updDist (fun d => { d with launches := [l] })
     launchNo s 5 = some l ∧ l.saved.find? (fun y => y.unit.toNat == x.unit.toNat) = some x ∧ l.preempting = none ∧ l.desc.heat.toNat < 2 ∧
      (s.slotAt 0 0).phase = .empty ∧ mayServe s l x.unit.toNat 0 = true ∧ (s.core 0).image ≠ some l.code) ∧
    (∀ home ∈ [0, 1],
      let x : SavedUnit := ⟨0, home, some 0, 0, 0, 0, Beside.none, none, 0⟩
      let y : Incoming := { Incoming.start (.preempt none) 0 with saved := some (x, 0) }
      let s := placing5.updSlotAt 0 0 (fun l => { l with phase := .restore, launchid := 5, incoming := some y })
      (s.slotAt 0 0).phase = .restore ∧ (s.slotAt 0 0).unitid = x.unit ∧ (s.slotAt 0 0).incoming = some y ∧ y.saved = some (x, 0) ∧
        y.whole = false ∧ y.go = false ∧ 0 < migMessages x.leaseSize ∧
        44 * migFlits x.leaseSize 0 + 2 * hops home 0 * (1 + migFlits x.leaseSize 0) ≤ s.purse 0) := by
  decide +kernel

theorem test_witness_MigrationSteps :
    (∀ st ∈ [0, 1, 3], let s := unit5 w0 (fun l => { l with phase := .drain, leaving := some ⟨.mig, 1, st, none, 0, none⟩ })
      drained s 0 0 = true ∧ s.slotCanPay 0 0 (2 * s.hopsFrom 0 1 * (1 + migFlits 0 0)) = true ∧ 0 < migMessages 0) ∧
    (let s := (unit5 w0 (fun l => { l with phase := .drain, leaving := some ⟨.mig, 1, 0, none, 0, none⟩ })).startOp .sent 0 0x91EE5880 .none none 1 none
     drained s 0 0 = false) ∧
    (let s := (unit5 w0 (fun l => { l with phase := .drain, leaving := some ⟨.mig, 1, 3, some (some 0), migMessages 0, none⟩ })).updSlotAt 1 0
       (fun l => { l with incoming := some inc0 })
     migArrived s (s.dstOf 1) (some 0) 5 0 = true ∧ (s.core 0).stubs.length < 64 ∧ s.dstOf 1 ≠ 0 ∧ (s.core 0).owner ≠ some 0 ∧
      (s.core 0).held = [] ∧ (s.core 0).grants = [] ∧
      (let m : Msg := ⟨0, 63, { me0 with launch := 5 }, .block 0 none [] 0 none none⟩
       let t := core0 s (fun k => { k with held := [m] })
       takeFirst (isHeldFor (t.slotAt 0 0)) (t.core 0).held = some (m, []) ∧ 2 * t.hopsDst 0 (t.dstOf 1) ≤ t.purse 0)) ∧
    (let p : Parked := ⟨5, 0, 1, none, inc0, false⟩
     let s := (unit5 w0 (fun l => { l with phase := .drain, leaving := some ⟨.mig, 1, 3, some none, migMessages 0, none⟩ })).updCore 1
       (fun k => { k with parked := [p] })
     migArrived s (s.dstOf 1) none 5 0 = true ∧ launchNo s 5 = none) ∧
    (let s := serving w0 10 (.migAsk 0 0 5 1 0 0)
     s.work 0 = some ⟨0, 10, me0, .migAsk 0 0 5 1 0 0⟩ ∧ mustPark s (s.core 0) 5 1 (partOf 1 0) = false ∧
      mustPark s { s.core 0 with slots := Vector.replicate 4 { Slot.reset with phase := .run } } 5 1 (partOf 1 0) = true ∧
      (jobOf s 0).any (fun j => j.recording) = false) ∧
    (let s := unit5 (serving w0 10 (.migAnswer 0 none 1)) (fun l => { l with leaving := some ⟨.mig, 1, 2, none, 0, none⟩ })
     (s.slotAt 0 0).leaving.isSome = true ∧ s.work 0 = some ⟨0, 10, me0, .migAnswer 0 none 1⟩) := by decide +kernel

theorem test_witness_MigrationSteps_arrival :
    (let s := unit5 (serving w0 10 (.migImage (some 0) 0 true .mig [] [] 0 0 1 Beside.none 3)) (fun l => { l with phase := .restore, incoming := some inc0 })
     (s.slotAt 0 0).incoming.isSome = true ∧ (s.slotAt 0 0).phase = .restore) ∧
    (let x : SavedUnit := ⟨0, 0, some 0, 0, 0, 0, Beside.none, none, 0⟩
     (serving w0 10 (.restoreAsk x 2 1)).work 0 = some ⟨0, 10, me0, .restoreAsk x 2 1⟩) ∧
    (let s := unit5 (core0 placing5 (fun k => { k with image := some [] })) (fun l => { l with phase := .restore, incoming := some inc0 })
     (s.slotAt 0 0).incoming.any (fun x => x.whole && x.go) = true ∧ (s.slotAt 0 0).phase = .restore ∧
      matrixFrom inc0.image = none ∧ hasImage s 0 5 = true ∧ waiting5.cancelling = false ∧
      (slotFrom inc0.image inc0.beside 1 .run).launchid = 0 ∧ launchNo s 0 = none) ∧
    (let p : Parked := ⟨5, 0, 1, none, inc0, false⟩
     let s := core0 w0 (fun k => { k with parked := [p] })
     (s.slotAt 0 1).phase = .empty ∧ ((s.core 0).parked.find? (canUnpark s (s.core 0))).isSome = true ∧ s.dist.jobs = []) := by decide +kernel

/-! ### Witnesses: spans -/

/-- A pool of job 0 with one member, one layer and one slot, whose range is the page; its entry core keeps it. -/
def pool0 : Pool := ⟨ga, 0, 1, 1, 1, 0, 32, 0, 0, 1, 1, 0, 0, none, none, []⟩
def seq0 : Seq := ⟨0, 0, 0, 4, 2, 2, (0, 0), none, [], [], [], false⟩
def poolHome (s : State) (qs : List Seq) : State := core0 s (fun k => { k with pools := [pool0], entryPools := [pool0], seqs := qs })

/-- A sequence home with one sequence at work on a span instruction. -/
def homing (op : SpanOp) (x : Word) (qs : List Seq) : State := poolHome (serving open0 6 (.spanHome op 0 x [] [])) qs

def spanDone : SpanDone → Bool
  | .done _ _ _ _ => true
  | .fault _ => false

theorem test_witness_SpanServices :
    (let s := poolHome (serving w0 6 (.span .len 0 0 [] [])) []
     findPool (s.core 0).entryPools me0.job (BitVec.ofNat 16 (handlePool 0)) = some pool0 ∧
      24 + hops 0 (pool0.member s (seqMember pool0.nmem (handleSid 0))) ≤ s.purse 0 ∧
      findPool ((serving w0 6 (.span .len 0 0 [] [])).core 0).entryPools 0 0 = none) ∧
    (let s := homing .len 0 [seq0]
     findPool (s.core 0).pools me0.job 0 = some pool0 ∧ pool0.resizing = none ∧ 24 ≤ s.purse 0 ∧
      findSeq (s.core 0) 0 0 0 = some seq0) ∧
    ((2 : Word).toNat ≤ seq0.tl ∧ seq0.tl < (3 : Word).toNat ∧ (tagOf 0x20001).2 ≠ 0xFFFF ∧ (0x20001 : Word).getLsbD 30 = false ∧
      4096 < seq0.tl + (4096 : Word).toNat ∧ findSeq ((homing .com 1 []).core 0) 0 0 0 = none) ∧
    (let s := homing .tag 0x80020001 []
     (0x80020001 : Word).getLsbD 31 = true ∧ (0x80020001 : Word).getLsbD 30 = false ∧ (tagOf 0x80020001).2 ≠ 0xFFFF ∧
      ((s.core 0).seqs.filter (fun y => y.job == pool0.job && y.pool == pool0.pool && !y.dropped)).length < pool0.maxseq ∧
      freeSlots s pool0 (memberOf s pool0 0) ≠ []) := by decide +kernel

theorem test_witness_SpanServices_sends :
    (∀ rest ∈ [[], [((0 : Nat), List.replicate 64 (0 : Byte))]],
      let b : Body := .querySend 20 ((0, List.replicate 64 0) :: rest) 0
      let s := serving w0 6 b
      s.work 0 = some ⟨0, 6, me0, b⟩ ∧ (s.chargeReq me0 (2 * hops 0 0)).isSome = true) := by decide +kernel

theorem test_witness_SpanServices_counts :
    (let s := homing .app 2 [seq0]
     spanDone (doApp s 0 pool0 { seq0 with openSpan := some 0, dir := [⟨0, 4, 0, 0, true, [0]⟩] } 2) = true ∧ spanDone (doRej s 0 pool0 seq0 2) = true ∧ spanDone (doRet s 0 pool0 seq0 0 false) = true) ∧
    (let s := poolHome (serving open0 6 (.spanRetire 0 0 0)) []
     findPool (s.core 0).pools 0 0 = some pool0 ∧ 48 ≤ s.purse 0 ∧ memberOf s pool0 0 = 0 ∧ copyBusy (s.core 0) entry0 = false ∧
      pool0.slotAddr 0 0 = ga ∧ findPage (s.core 0).vaultMap 0 (vpnOf ga) = some entry0 ∧ s.bad = [] ∧
      (∀ k ∈ [0, 5, 0x10], vpnOf (ga + BitVec.ofNat 64 k) = vpnOf ga ∧ vaultOff entry0 (ga + BitVec.ofNat 64 k) = k ∧
        gives (needRow s 0 k) none = true)) ∧
    (let s := core0 (poolHome (serving open0 6 (.spanRetire 0 0 0)) []) (fun k => { k with vaultMap := [{ entry0 with st := 2 }] })
     (findPage (s.core 0).vaultMap 0 (vpnOf (pool0.slotAddr 0 0))).any (fun e => e.st == 2) = true) := by decide +kernel

/-- A pool request. -/
def poolBytes (req : Nat) : List Byte :=
  bytesOf 8 0x100000000 ++ bytesOf 4 0 ++ bytesOf 4 1 ++ bytesOf 2 1 ++ bytesOf 1 1 ++ bytesOf 1 0 ++ bytesOf 2 32 ++ [0, 0] ++ bytesOf 4 0 ++
  bytesOf 4 1 ++ bytesOf 4 1 ++ bytesOf 3 0 ++ [0] ++ bytesOf 2 0 ++ bytesOf 1 req ++ List.replicate 5 0 ++ bytesOf 8 0x100000000 ++
  List.replicate 8 0

/-- Pool 0's entry core is at work on a request. -/
def ec : Nat := entryCore w0 0 0
def pooling (req : Nat) (ps : List Pool) : State :=
  w0.updCore ec (fun k => { k with entryPools := ps, teller := { k.teller with act := some ⟨6, 0, ⟨ec, 6, me0, .user (poolBytes req)⟩, 0, 0⟩ } })
def reqIs (s : State) (req : Nat) : Bool := (poolWork s ec req).any (fun x => isEntry s ec x.2 && x.2.ok && x.2.req == req && x.2.pool.nmem == 1)

theorem test_witness_SpanServices_pools :
    reqIs (pooling 1 []) 1 = true ∧ findPool ((pooling 1 []).core ec).entryPools 0 0 = none ∧ 24 ≤ (pooling 1 []).purse ec + 24 ∧
    (24 ≤ ((pooling 1 []).setPurse ec 24).purse ec ∧ (((pooling 1 []).setPurse ec 24).spanPay ec 24 0).isSome = true) ∧
    ((pooling 1 []).mapMembers pool0 (List.range 1)).isSome = true ∧
    reqIs (pooling 2 [pool0]) 2 = true ∧ findPool ((pooling 2 [pool0]).core ec).entryPools 0 0 = some pool0 ∧
    ((pooling 2 [pool0]).mapMembers pool0 ((List.range 1).filter (fun i => pool0.nmem ≤ i))).isSome = true ∧
    reqIs (pooling 3 [pool0]) 3 = true ∧
    (let p : Pool := { pool0 with resizing := some (1, 0) }
     let s := pooling 2 [p]
     findPool (s.core ec).entryPools 0 0 = some p ∧ (poolSeqs s p 1).any (fun x => !x.2.pend.isEmpty) = false ∧ resizeFits s p 1 = true ∧
      seqToMove s p 1 = none ∧ spansToMove s p 1 = [] ∧ spansComing s p = false ∧ p.owed = []) ∧
    (let p : Pool := { pool0 with resizing := some (2, 0) }
     let s := pooling 2 [p]
     findPool (s.core ec).entryPools 0 0 = some p ∧ p.resizing = some (2, 0) ∧
      (poolWork s ec 2).any (fun x => ((2, 0) : Nat × Word) != (x.2.pool.nmem, x.2.reply)) = true) ∧
    ((core0 w0 (fun k => { k with poolDue := [(0, 0)] })).core 0).poolDue.contains (0, 0) = true := by decide +kernel

/-- Core 0, member 0 of the pool, at work on a request; the entry core keeps some pools. -/
def memberAt (req : Nat) (own entry : List Pool) : State :=
  (core0 (serving w0 6 (.user (poolBytes req))) (fun k => { k with pools := own })).updCore ec (fun k => { k with entryPools := entry })
def memberIs (s : State) (req n : Nat) : Bool := (poolWork s 0 req).any (fun x => memberNo s 0 x.2.pool n == some 0 && x.2.ok && x.2.req == req)

theorem test_witness_SpanServices_members :
    (let s := memberAt 1 [] []
     memberIs s 1 1 = true ∧ findPool (s.core 0).pools 0 0 = none ∧ entryPool s 0 0 = none ∧
      (poolWork s 0 1).any (fun x => (s.mapMember x.2.pool 0).isSome && (s.spanPay 0 24 x.2.pool.job).isSome) = true) ∧
    (memberNo (pooling 1 []) ec pool0 1 = none ∨ ec = 0) ∧
    (let p : Pool := { pool0 with owed := [(0, 1, ga)] }
     let s := memberAt 2 [pool0] [p]
     memberIs s 2 65536 = true ∧ entryPool s 0 0 = some p ∧ (poolWork s 0 2).any (fun x =>
        p.owed.find? (fun y => y.1 == 0 && y.2.2 == x.2.reply) == some (0, 1, x.2.reply)) = true ∧ 24 ≤ s.purse 0) ∧
    (let s := memberAt 3 [pool0] [pool0]
     (poolWork s 0 3).isSome = true ∧ findPool (s.core 0).pools 0 0 = some pool0) ∧
    ((poolWork (pooling 3 []) ec 3).any (fun x => isEntry (pooling 3 []) ec x.2) = true ∧ findPool ((pooling 3 []).core ec).pools 0 0 = none) := by
  decide +kernel

/-! ### Witnesses: row steps and the matrix unit -/

/-- Core 0's slot 0 runs a tile instruction over one row, its vault row open. -/
def tiling (kind : Fin 3) (g : List (BitVec 5 × Word)) (data : List RowReq) : State :=
  (regs open0 g).updSlot (fun l => { l with phase := .run, tile := some ⟨kind, 1, 2, 3, true, data, false, none, none, false⟩ })
def rowReady (s : State) : Bool :=
  match s.slot.tile with
  | none => false
  | some tl =>
    match rowGo s tl with
    | .go _ coins none => tl.fail.isNone && !tl.waits && !rowWatched s tl && mayRequest s tl && s.slotCanPay 0 0 coins
    | _ => false

/-- Core 0's MTX at work for its slot 0. -/
def matrix (q : List MtxCmd) : State := core0 w0 (fun k => { k with owner := some 0, mtxQ := q })

theorem test_witness_TileAndMatrixSteps :
    (rowReady (tiling 0 [(1, 0), (2, ga), (3, 1)] []) = true ∧ rowReady (tiling 1 [(1, 0x80000), (2, ga), (3, 1)] []) = true ∧
      rowReady (tiling 2 [(1, ga), (2, 0), (3, 1)] []) = true ∧ rowReady (tiling 0 [(1, 0), (2, ga), (3, 2)] [⟨ga, 0, 7, 44, false⟩]) = true) ∧
    (let s := tiling 0 [(1, 0), (2, ga), (3, 1)] [⟨ga, 0, 7, 44, false⟩]
     (s.slotAt 0 0).rpt = none ∧ (s.g 1).toNat + 64 ≤ 0x20000 ∧ s.slot.tile.any (fun tl => stepsLeft s.slot tl - 1 == 0) = true ∧
      (s.core 0).dbgMod.trSlots.getLsbD 0 = false) ∧
    (let s := (core0 (tiling 1 [(1, 0x80000), (2, ga), (3, 1)] []) (fun k => { k with mtxQ := [.mzero 0] })).updSlot (fun l => { l with
       tile := l.tile.map (fun tl => { tl with waits := true }) })
     latchTaken (s.core 0) = true ∧ s.slot.tile.any (fun tl => tl.waits) = true) ∧
    (let s : State := { matrix [.mst 0 0x1020 0] with bad := [tillKey 0 0x1000] }
     (mstBad s 0 0x1020).1 = [64] ∧ (mstBad (matrix []) 0 0x1000).1 = []) ∧
    (let s := tiling 2 [(1, ga), (2, 0), (3, 2)] [⟨ga, 0, 7, 44, false⟩]
     s.slot.tile.any (fun tl => stepsLeft s.slot tl - 1 != 0) = true) ∧
    (let s := tiling 0 [(1, 0), (2, ga), (3, 2)] [⟨ga, 0, 7, 44, true⟩, ⟨ga, 0, 7, 44, false⟩]
     s.slot.tile.any (fun tl => tl.data.any (fun r => r.bad)) = true ∧ (s.slotAt 0 0).ctx.status.getLsbD 0 = false) ∧
    (let s := w0.setBank 0 3 { w0.bank 0 3 with held := [none] }
     (s.bank 0 3).held = [none] ∧ tileHolds s 0 3 none = false ∧ refreshing s 0 3 = false) ∧
    (∀ q ∈ [MtxCmd.mzero 1, .mcfg MCfg.default, .mprog MProg.default, .mst 0 0x1000 0, .mldc 0x2000 0, .mma 0 0 0x8000 0 0 1 0 0 false false false 0 0],
      ((matrix [q]).grant 0).isSome = true) ∧
    (∀ j, j < 8 → ((0x1000 : Word) + BitVec.ofNat 64 (j * (w0.core 0).cfg.ostride.toNat)).toNat + outRow (w0.core 0).cfg ≤ 0x20000) ∧
    ((matrix []).bad = [] ∧ (0x2000 : Word).toNat + 1024 ≤ 0x20000) ∧
    ((matrix [.mma 0 0 0 0 0 0 0 0 false false false 0 0]).core 0).mtxQ.length = 1 ∧
    latchBusy ((matrix [.mma 0 0 0 0 0 0 0 0 false false false 0 0]).core 0) = false := by decide +kernel

/-! ### Witnesses: energy -/

theorem test_witness_inv : State.reset.Inv ∧ w0.Inv ∧ (core0 w0 id).Inv := by
  refine ⟨⟨?_, ?_, ?_⟩, ⟨?_, ?_, ?_⟩, ⟨?_, ?_, ?_⟩⟩ <;> (try unfold State.Ordered) <;> decide +kernel

def ticking : State := { w0 with cycle := 700, capNext := 0, purses := [] }

theorem test_witness_EnergySteps :
    (w0.cycle.toNat / 700 ≤ w0.tick ∧ ticking.tick < ticking.cycle.toNat / 700 ∧ ticking.isActive 0 = true ∧ 4 ≤ ticking.bootStep ∧
      (∀ d, (neighbour 0 d).all (fun x => ticking.purse x == 0) = true) ∧ (ticking.slotAt 0 0).phase = .empty ∧
      (withholding ticking (ticking.capNext * 250000000 - ticking.capNext * 250000000 * 4 / 100)).1 = 0) ∧
    (let s : State := { w0 with tick := 10 }
     s.windows < s.tick / 10 ∧ w0.tick / 10 ≤ w0.windows) ∧
    (let s : State := { w0 with plates := Tab.put w0.plates 0 { Plate.reset with floor := 1 } }
     s.mtxBad.contains 0 = false ∧ cellForced s (octetCore 0 0) = false ∧ nextGrant s 0 = none ∧ s.ballastOff = false ∧
      0 < (Tab.get s.plates (plateOf (octetCore 0 0)) Plate.reset).floor ∧ (0 : Int) < (Tab.get s.plates 0 Plate.reset).floor) ∧
    (let s : State := { w0 with overspends := 200 }
     200 ≤ s.overspends ∧ s.ballastOff = false ∧ w0.overspends < 200) ∧
    (let s : State := { w0 with cadDue := true }
     s.cadDue = true ∧ s.portA.cadence = [] ∧ s.portB.cadence = [] ∧ w0.cadDue = false) ∧
    ({ Port.reset with cadence := [[1]] } : Port).cadence ≠ [] ∧
    (let s : State := { ticking with bootStep := 3 }
     s.tick < s.cycle.toNat / 700 ∧ s.bootStep < 4) := by decide +kernel

/-- A tick without a cap gives every purse its share of nothing. -/
theorem test_witness_EnergySteps_share :
    ticking.purse 0 + (withholding ticking (ticking.capNext * 250000000 - ticking.capNext * 250000000 * 4 / 100)).1 /
      max 1 ((activeArray ticking).toList.countP id) ≤ 2 ^ 19 := by
  rw [test_witness_EnergySteps.1.2.2.2.2.2.2, Nat.zero_div]
  decide +kernel

/-! ### Witnesses: repair and harvest -/

/-- A bank of core 0 changed. -/
def banked (z : Nat) (f : Bank → Bank) : State := w0.setBank 0 z (f (w0.bank 0 z))

theorem test_witness_RefreshSensorsScrub :
    (let s : State := { banked 0 (fun b => { b with row := some 3 }) with cycle := 0 }
     refreshing s 0 0 = true ∧ (s.bank 0 0).row ≠ none ∧ (s.bank 0 0).refresh = false ∧ refreshing w0 0 0 = false) ∧
    (∀ row ∈ [some (3 : BitVec 8), none],
      let s := banked 0 (fun b => { b with refresh := true, row := row })
      (s.bank 0 0).refresh = true ∧ refreshing s 0 0 = false ∧ (s.bank 0 0).row = row) ∧
    (w0.badSensors.contains (cellKey 7 63 63) = false ∧ (920 : Int) ≤ (1000#16).toInt ∧ bandOf (reading w0 (cellKey 0 0 0)) = bandOf (0#16).toInt ∧
      w0.forced.contains (cellKey 0 0 0) = false ∧ (∀ l, l < 8 → reading w0 (cellKey l 0 0) < 920) ∧
      ({ w0 with badSensors := [cellKey 0 0 0] } : State).badSensors.contains (cellKey 0 0 0) = true) ∧
    (let s : State := { core0 w0 (fun k => { k with scrubVault := 8191 }) with plates := [(0, { Plate.reset with pool := 5000 })] }
     (s.core 0).scrubVault % 32 = 31 ∧ (s.bank 0 31).row = none ∧ (s.bank 0 31).spoke ≠ 2 ∧ refreshing s 0 31 = false ∧
      (s.bank 0 31).awaiting.contains (rowOfOff (scrubOff 8191)) = false ∧ s.bad = [] ∧ s.weak = [] ∧
      250 + 32 * 40 ≤ (Tab.get s.plates (plateOf 0) Plate.reset).pool ∧ (w0.core 0).scrubVault < 8191) ∧
    ((w0.core 0).scrubTill < 2048 ∧ (w0.core 0).scrubStore < 512 ∧ (Tab.get w0.plates (plateOf 0) Plate.reset).pool < 4 ∧
      (let s : State := { w0 with plates := [(plateOf 0, { Plate.reset with pool := 8 })] }
       8 ≤ (Tab.get s.plates (plateOf 0) Plate.reset).pool) ∧
      ({ w0 with bad := [tillKey 0 0] } : State).bad.contains (tillKey 0 (64 * (w0.core 0).scrubTill)) = true ∧
      (Tab.find ({ w0 with weak := [(storeKey 0 0, (1, 0))] } : State).weak (storeKey 0 (64 * (w0.core 0).scrubStore))).isSome = true ∧
      (Tab.find w0.weak (tillKey 0 0)).isSome = false) ∧
    (let s := banked 2 (fun b => { b with awaiting := [9] })
     (s.bank 0 2).awaiting = 9 :: [] ∧ bankBusy s 0 2 = false ∧ (s.bank 0 2).sparesUsed < 8) ∧
    (let s := banked 2 (fun b => { b with laneHits := [4, 4, 4], lanes := [1] })
     (s.bank 0 2).spoke = 0 ∧ (s.bank 0 2).lanes.length = 1 ∧ 3 ≤ ((s.bank 0 2).laneHits.filter (fun x => x == (4 : Fin 9).val)).length) ∧
    (let s := core0 w0 (fun k => { k with corr := 1 })
     (s.core 0).corr ≠ 0 ∧ (s.core 0).corrTick = none ∧ (w0.core 0).corr = 0) ∧
    (let s := core0 { w0 with tick := 100000 } (fun k => { k with corr := 1, corrTick := some 0 })
     (s.core 0).corr ≠ 0 ∧ ∀ n, (s.core 0).corrTick = some n → n + 100000 ≤ s.tick) := by
  refine ⟨by decide +kernel, by decide +kernel, by decide +kernel, by decide +kernel, by decide +kernel, by decide +kernel, by decide +kernel,
    by decide +kernel, by decide +kernel, fun n h => ?_⟩
  obtain rfl : 0 = n := Option.some.inj h
  decide +kernel

/-- The page's home with the page in its vault, its bank retiring. -/
def retiring : State := paged.setBank 0 0 { paged.bank 0 0 with spoke := 1 }

theorem test_witness_FramesAndCoresGo :
    (let s := banked 31 (fun b => { b with awaiting := [1], sparesUsed := 8 })
     (s.bank 0 31).awaiting = 1 :: [] ∧ 8 ≤ (s.bank 0 31).sparesUsed ∧ (s.bank 0 31).spoke = 0) ∧
    (let s := banked 3 (fun b => { b with awaiting := [1], sparesUsed := 8 })
     (s.bank 0 3).awaiting = 1 :: [] ∧ 8 ≤ (s.bank 0 3).sparesUsed ∧ (s.bank 0 3).spoke = 0 ∧ frameUsed s 0 (8 * 3 + (1#8).toNat / 32) = false) ∧
    ((retiring.bank 0 0).spoke = 1 ∧ nextMove retiring 0 (bankFrames 0) = some entry0 ∧ freeFrames retiring 0 false ≠ []) ∧
    (let s := banked 3 (fun b => { b with spoke := 1 })
     (s.bank 0 3).spoke = 1 ∧ ∀ f ∈ bankFrames 3, frameUsed s 0 f = false) ∧
    (let s : State := { w0 with bad := [storeKey 0 0] }
     s.bad.contains (storeKey 0 0) = true ∧ s.bad.contains (vaultKey 0 0xFC8000) = false ∧ w0.bad.contains (storeKey 0 0) = false ∧
      (fetchLines (s.updSlot (fun l => { l with phase := .run })) 0).contains 0 = true ∧
      (fetchLines (s.updSlot (fun l => { l with phase := .run })) 0).contains 1 = false) ∧
    (let s := banked 3 (fun b => { b with awaiting := [1], sparesUsed := 8, withdrawn := [1, 2] })
     (s.bank 0 3).withdrawn.any (fun r => 8 * 3 + r.toNat / 32 == 24 && !(s.bank 0 3).awaiting.contains r) = true) ∧
    clearsHere retiring 0 = true ∧
    (w0.isActive 0 = true ∧ (spareOf w0 0).isSome = true ∧ 0 ≤ (Tab.get w0.plates (plateOf 0) Plate.reset).pool) ∧
    (let s := banked 31 (fun b => { b with spoke := 2 })
     (s.bank 0 31).spoke = 2 ∧ nextMove s 0 (List.range 252) = none ∧ (∀ f, f < 252 → frameUsed s 0 f = false) ∧
      holdsUnit (s.core 0) = false ∧ (s.core 0).parked = [] ∧ (s.core 0).saveSet = []) := by decide +kernel

/-- A plate whose pool covers an in-field test, and one whose pool does not. -/
theorem test_witness_FramesAndCoresGo_pool (p : Plate) :
    (Config.testCoins : Int) ≤ ({ p with pool := Config.testCoins } : Plate).pool ∧
    ({ p with pool := Config.testCoins - 1 } : Plate).pool < (Config.testCoins : Int) := ⟨Int.le_refl _, Int.sub_lt_self _ (by decide)⟩

/-! ### Witnesses: boot -/

/-- A module at a step of Table 19.1. -/
def booting (n : Nat) : State := { State.reset with bootStep := n }

/-- Plate 0 in a stage of its boot kernel, its seed (core 0) in the tree. -/
def stage (n wave : Nat) (root : Bool) : State :=
  core0 ({ booting 4 with plates := [(0, { Plate.reset with bootStage := n, wave := wave })] } : State)
    (fun k => { k with tree := if root then some (0, none, 0) else none })
def reached (s : State) (w c : Nat) : Bool := plateOf c == 0 && s.isActive c && (s.core c).tree.isNone && (parentIn s w c).isSome

theorem test_witness_BootSteps :
    (({ State.reset with powered := false } : State).powered = false ∧
      ∀ n ∈ [0, 1, 2, 3, 4, 6, 7], (booting n).powered = true ∧ (booting n).bootStopped = false ∧ (booting n).bootStep = n) ∧
    (({ booting 3 with bootStopped := true } : State).bootStopped = true) ∧
    (let s : State := { booting 4 with plates := (List.range 256).map (fun p => (p, { Plate.reset with bootStage := 3 })) }
     ∀ p, p < 256 → (s.plate p).bootStage = 3) ∧
    (∀ p, p < 256 → ((booting 4).plate p).bootStage ≠ 3) ∧
    ((2 : Nat) ≠ ((booting 6).rimNext.getD ((booting 6).modNo, (booting 6).routes, (booting 6).linkKey)).1.toNat ∧
      [((2 : Nat), (5 : Nat))].find? (fun x => x.1 == 2) = some (2, 5) ∧ [((2 : Nat), (5 : Nat))].find? (fun x => x.1 == 3) = none) ∧
    (seedOf (stage 0 0 false) 0 = some 0 ∧ ((stage 0 0 false).core 0).tree = none) ∧
    (((stage 0 0 true).core 0).tree ≠ none ∧ reached (stage 0 0 true) 0 1 = true) ∧
    (((stage 1 0 true).plate 0).bootStage = 1 ∧ ((stage 2 0 true).plate 0).bootStage = 2 ∧ ((stage 2 0 true).slotAt 0 0).phase = .empty) ∧
    (let s := core0 { stage 2 0 true with cycle := 35000000 } (fun k => { k with slots := k.slots.set 0 { k.slots.get 0 with phase := .run } })
     (s.slotAt 0 0).phase ≠ .empty ∧ 35000000 ≤ s.cycle.toNat - (s.slotAt 0 0).since ∧ (s.plate 0).bootRuns < 2) := by decide +kernel

/-- What a boot's tests find in the routers decides which clause of step 4 applies: one of them does. -/
theorem test_witness_BootSteps_routers (n : Nat) :
    (∃ c ∈ Config.bootRouters n, c < 262144) ∨ ∀ c ∈ Config.bootRouters n, 262144 ≤ c := by
  rcases Classical.em (∃ c ∈ Config.bootRouters n, c < 262144) with h | h
  · exact .inl h
  · exact .inr (fun c hc => Nat.le_of_not_lt (fun hl => h ⟨c, hc, hl⟩))

/-- A new core of the wave; its router is found faulty, or is not, as `Config.flitError` has it. -/
theorem test_witness_BootSteps_place :
    reached (stage 0 0 true) 0 1 = true ∧ ∀ d, wrongPlace (stage 0 0 true) 1 d = true ∨ wrongPlace (stage 0 0 true) 1 d = false :=
  ⟨by decide +kernel, fun _ => Bool.eq_false_or_eq_true _⟩

theorem test_witness_BootSteps_wave (c : Nat) : reached (stage 0 5 true) 5 c = false := by
  have h : ∀ n, (hopOf (stage 0 5 true) n == some 5) = false := by
    intro n
    rcases n with _ | n
    · decide
    · rfl
  simp [reached, parentIn, h]

theorem test_witness_BootSteps_dark :
    seedOf { booting 4 with fused := List.range 1024 } 0 = none ∧ ((booting 4).plate 0).bootStage = 0 := by
  refine ⟨?_, by decide⟩
  simp only [seedOf, State.isActive, List.find?_eq_none]
  simp
  intro x hx _ _
  omega

/-! ### Witnesses: management, debug, rim -/

/-- A checkpoint without pages; a job, and one that is recorded with a log page at core 0. -/
def manifest0 : Manifest := ⟨3, 1, 1, [], [], [], [], []⟩
def managed : State := paged.updDist (fun d => { d with jobs := [job0] })
def logging : State := core0 managed (fun k => { k with logPage := some ga })
def keyedState : State := { managed with keys := managed.keys.set 0 { KeySlot.reset with st := 1 } }

theorem test_witness_ManagementReads :
    (8 ≤ (booting 8).bootStep ∧ (booting 7).bootStep < 8 ∧ (2 : Nat) ^ 20 < 2 ^ 20 + 1) ∧
    ((decide (48 ≤ 48) && decide (45 ≤ 45)) = true ∧ (decide (48 ≤ 47) && decide (45 ≤ 45)) = false) ∧
    (let s : State := { w0 with coolantLow := true, tick := 1000000 }
     s.coolantLow = true ∧ s.coolantTick + 1000000 ≤ s.tick) ∧
    (let s : State := { w0 with coolantLow := true, coolantBack := true, tick := 1000000 }
     s.coolantBack = true ∧ s.tick < ({ s with coolantTick := 1 } : State).coolantTick + 1000000 ∧ w0.coolantLow = false) := by decide +kernel

theorem test_witness_ManagementChanges :
    (jobOf managed 0 = some job0 ∧ jobOf managed 5 = none) ∧
    (((logging.core 0).logPage.bind (ownPage logging 0)).isSome = true ∧ (logging.core 0).logPend = [] ∧ (logging.core 0).logMarked = false ∧
      (managed.core 0).logPage.bind (ownPage managed 0) = none) ∧
    (jobLive keyedState job0 = false ∧ jobPages keyedState 0 = [entry0] ∧ keyUsable keyedState entry0.key 0 = true ∧
      (entryHome keyedState entry0).isSome = true ∧ keyUsable managed entry0.key 0 = false ∧ busy (some entry0) = false ∧
      keyedState.bad = [] ∧ keyedState.weak = [] ∧ (keyedState.keys.get entry0.key.toFin).ctr.toNat + 1 < 2 ^ 80 - 1) ∧
    jobLive managed { job0 with live := 1 } = true ∧
    (let s : State := { managed with storage := [(7, manifest0)] }
     Tab.find s.storage 7 = some manifest0 ∧ Tab.find s.storage 8 = none ∧ manifest0.mathrev = 1 ∧ openJobs s < 4096 ∧ manifest0.pools.all (fun p => p.nmem ≤ s.ncores) = true ∧
      s.dist.nextJob < 2 ^ 24 ∧ ({ manifest0 with mathrev := 2 } : Manifest).mathrev ≠ 1 ∧ s.ncores < 262143 + 2) := by decide +kernel

/-- Core 0's debug module with slot 1 stopped. -/
def stopped1 (reason : BitVec 4) : State :=
  core0 w0 (fun k => { k with dbgMod := { k.dbgMod with halt := 2, sel := 1, reason := k.dbgMod.reason.set 1 reason } })

theorem test_witness_DebugModule :
    (atBoundary (w0.slotAt 0 1) = true ∧ (w0.core 0).dbgMod.sstep.getLsbD 1 = false ∧ (w0.core 0).dbgMod.reason.get 1 = 0) ∧
    atBoundary { w0.slotAt 0 1 with tile := some ⟨0, 1, 2, 3, true, [⟨0, 0, 0, 44, false⟩], false, none, none, false⟩ } = false ∧
    (let d := ((stopped1 1).core 0).dbgMod
     d.halt.getLsbD 1 = true ∧ d.reason.get 1 ≠ 0 ∧ d.reason.get 1 ≠ 6 ∧ ((stopped1 6).core 0).dbgMod.reason.get 1 = 6 ∧
      ((stopped1 5).core 0).dbgMod.reason.get 1 = 5) ∧
    ((w0.core 0).teller.act = none ∧ ((serving w0 16 (.user [])).core 0).teller.act ≠ none) ∧
    (let d := ((stopped1 3).core 0).dbgMod
     (d.reason.get 1 &&& ~~~((0x20000000 : Word).extractLsb' (16 + 4 * 1) 4)) ≠ 0 ∧ d.sstep = 0 ∧
      (d.reason.get 1 &&& ~~~((0x300000 : Word).extractLsb' (16 + 4 * 1) 4)) = 0 ∧ (w0.core 0).dbgMod.halt = 0) ∧
    (let d := ((stopped1 3).core 0).dbgMod
     d.reason.get (selSlot d) ≠ 0 ∧ 0x1008 % 8 = 0 ∧ (w0.core 0).dbgMod.reason.get (selSlot (w0.core 0).dbgMod) = 0) := by decide +kernel

/-- A frame with a good check code: kind, number, acknowledgement, and 64 bytes. -/
def frameOf (kind num ack : Nat) (body : List Byte) : List Byte :=
  let f := bytesOf 1 kind ++ [0, 0, 0] ++ bytesOf 2 num ++ bytesOf 2 ack ++ body
  f ++ bytesOf 8 (crc64 f).toNat
def linked (f : Link → Link) : State := { w0 with links := w0.links.set 0 (f { Link.reset with up := true, far := some 2 }) }

theorem test_witness_RimLinks :
    (w0.links.get 0).up = false ∧ ((linked id).links.get 0).up = true ∧
    (∀ kind ∈ [0, 1, 4, 5], let f := frameOf kind 0 0 (List.replicate 64 0)
      f.length = 80 ∧ natOfBytes (f.drop 0x48) = (crc64 (f.take 0x48)).toNat ∧ (f.getD 0 0).toNat = kind) ∧
    (let f := frameOf 1 0 0 (List.replicate 64 0)
     BitVec.ofNat 16 (natOfBytes ((f.drop 4).take 2)) = ((linked id).links.get 0).rxSeq) ∧
    BitVec.ofNat 16 (natOfBytes (((frameOf 1 9 0 (List.replicate 64 0)).drop 4).take 2)) ≠ ((linked id).links.get 0).rxSeq ∧
    (∃ k ∈ [1, 2, 3], frameEnds (frameOf k 0 0 (List.replicate 64 0)) = true) ∧
    (∃ k ∈ [1, 2, 3], ∃ b ∈ [0xFF, 7, 1, 2, 16], frameEnds (frameOf k 0 0 (List.replicate 64 b)) = false) ∧
    (let x := (linked (fun l => { l with unacked := [frameOf 1 4 0 [], frameOf 1 5 0 []] })).links.get 0
     x.unacked = [frameOf 1 4 0 []] ++ frameOf 1 5 0 [] :: [] ∧
      BitVec.ofNat 16 (natOfBytes (((frameOf 1 4 0 []).drop 4).take 2)) ≠ BitVec.ofNat 16 (natOfBytes (((frameOf 1 5 0 []).drop 4).take 2)) ∧
      (x.acked 4).unacked ≠ x.unacked ∧ (x.acked 9).unacked = x.unacked ∧ x.unacked ≠ []) ∧
    (let m : Msg := ⟨2 ^ 20 + 2 * 2 ^ 18, 0, me0, .load ga 8⟩
     let s : State := { linked id with routes := [(2, 0)], net := [m, ⟨0, 0, me0, .load ga 8⟩] }
     s.net.filter (routedBy s 0) = [m] ∧ routedBy s 0 ⟨0, 0, me0, .load ga 8⟩ = false) := by decide +kernel

/-! ### Witnesses: the arithmetic of one operation -/

theorem test_witness_RoundedOnce :
    ((unpack .fp32 0x3F800000).isNan = false ∧ (unpack .fp32 0x3F800000).rat ≠ 0 ∧ (unpack .fp32 0xBF800000).neg = true ∧
      (unpack .fp32 0x7FC00000).isNan = true ∧ (unpack .fp32 0x7F800001).isSnan = true ∧ unpack .fp32 0xFF800000 = .inf true ∧
      (unpack .fp32 0x80000000).isZero = true ∧ (unpack .fp32 0x80000000).neg = true) ∧
    ((unpack .fp32 0x7F800000).isInf = true ∧ (unpack .fp32 0).isZero = true ∧ (unpack .fp32 0).isInf = false) ∧
    (FFmt.infBits .fp32 < 2 ^ (FFmt.width .fp32 - 1) - 1 ∧ (1 : Int) ≠ 0) := by decide +kernel

/-- A descriptor of FP8 (E4M3), and one of a signed fixed-point format. -/
theorem test_witness_NarrowRounding :
    (fdValid 0x000E0798 = true ∧ (NarrowFmt.ofBits 0x000E0798).e ≠ 0 ∧ (NarrowFmt.ofBits 0x000E0798).pol = 2 ∧ 1 ≤ (NarrowFmt.ofBits 0x000E0798).m) ∧
    (fdValid 0x00000018 = true ∧ (NarrowFmt.ofBits 0x00000018).e = 0 ∧ (NarrowFmt.ofBits 0x00000018).s = true) ∧
    (fdValid 0x00050798 = true ∧ (NarrowFmt.ofBits 0x00050798).pol = 1) ∧
    (let xs : List FVal := [.fin false 3 0, .fin true 0 0]
     (∀ v ∈ xs, v.isNan = false ∧ v.isInf = false ∧ Cut.of v.rat (pow2 (1 + 1)) = .lt) ∧ (∃ v ∈ xs, Cut.of v.rat (pow2 1) ≠ .lt) ∧
      pow2 8 ≤ gridMag (NarrowFmt.ofBits 0x000E0798).m (NarrowFmt.ofBits 0x000E0798).emin (NarrowFmt.ofBits 0x000E0798).maxEnc ∧
      gridMag (NarrowFmt.ofBits 0x000E0798).m (NarrowFmt.ofBits 0x000E0798).emin (NarrowFmt.ofBits 0x000E0798).maxEnc < pow2 (8 + 1)) := by
  decide +kernel

theorem test_witness_MatrixArithmetic :
    (mcfgValid MCfg.default = true ∧ mcfgValid { MCfg.default with ofmt := 2, odesc := 0x000E0798 } = true ∧
      descOk 2 0x000E0798 = true ∧ mtxInt 0 0 = true ∧ mtxInt 5 0 = false) ∧
    (let a := rowVals 5 0 (some 0)
     0 < min a.length a.length ∧ (unpack .fp32 0x3F800000).isNan = false ∧ (unpack .fp32 0x3F800000).isInf = false) ∧
    (let r : Reduction := { red1 with slots := [(0, List.replicate 64 0)] }
     0 < 16 * r.k ∧ (∀ i, i < 2 ^ r.logs → ∃ bs, (i, bs) ∈ r.slots) ∧
      treeNode (fun x y => (fAdd .fp32 .rne x y).bits)
        (fun i => (r.slots.find? (fun x => x.1 == i)).map (fun x => imgNat x.2 0 4)) r.logs 0 = some 0) := by
  refine ⟨by decide +kernel, by decide +kernel, by decide, ?_, by decide +kernel⟩
  intro i h
  obtain rfl : i = 0 := by simpa [red1] using h
  exact ⟨List.replicate 64 0, List.mem_singleton.2 rfl⟩

/-- 02_numbers.md, the worked example of R66 to R69: a tie of the K-step goes to the even mantissa, and MST rounds the product once. -/
theorem test_mac_worked_example :
    macStep [(.fin false 3 (-2), .fin false 1 0), (.fin false 3 (-2), .fin false 1 0)] false 1 0x4B800000 = 0x4B800002 ∧
    mstElem { MCfg.default with afmt := 5, bfmt := 5, ofmt := 3, tscale := 0x40400000 } 0x4B800002 = 0x4C40 := by decide +kernel

/-- 07_matrix_spans_work.md, the worked example of R226: four slots by the canonical tree. -/
theorem test_reduction_worked_example :
    (slotTree 2 [0x3F800000, 0x4B800000, 0x3F800000, 0xCB800000]) = 0x3F800000 := by decide +kernel

/-! ### Witnesses: words, operations, the step -/

theorem test_witness_WordsAndInstructionsAgree :
    (Instr.shadd 5 6 7 2).isWord = true ∧ (Instr.shadd 5 6 7 2).wf = true ∧ gives (decodeWord 0x04A6389C) (.shadd 5 6 7 2) = true := by decide +kernel

theorem test_witness_WrittenWordsDecode :
    ((0 : InstrWord).toNat / 2 ^ 26 = 0 ∧ (0x7C000000 : InstrWord).toNat / 2 ^ 26 = 0x1F ∧ 0x2D ≤ (0xB4000000 : InstrWord).toNat / 2 ^ 26) := by decide +kernel

theorem test_witness_NamedOperations :
    Memory.wf [] = true ∧ Memory.wf (Memory.writeBytes [] 5 [1, 0, 2]) = true ∧ (Memory.writeBytes [] 5 [1, 0, 2]).length = 2 ∧
    (Memory.writeNat [] 0 4 0x04030201).readBytes 1 3 = [2, 3, 4] := by decide +kernel

/-- Core 0's slot 0 at an instruction that the program store holds. -/
def atInstr (i : Instr) : State :=
  { (w0.updSlot (fun l => { l with phase := .run })) with mem := Memory.writeNat [] (storeKey 0 0) 4 (encode i).toNat }

/-- The same as the frame word of an RPT; and in a user handler of core 0's teller. -/
def inFrame : State :=
  let s := { atInstr (.rpt 5 1 0 0 0) with
    mem := Memory.writeNat (atInstr (.rpt 5 1 0 0 0)).mem (storeKey 0 4) 4 (encode (.addi 1 2 5)).toNat }
  (s.setG 5 2).updSlot (fun l => { l with rpt := some ⟨5, 1, 0, 0, 0⟩ })
def inHandler : State :=
  core0 { w0 with mem := Memory.writeNat [] (storeKey 0 0x5000) 4 (encode (.addi 1 2 5)).toNat } (fun k => { k with
    ring := 1
    teller := { k.teller with act := some ⟨16, 0, ⟨0, 16, me0, .user []⟩, 0, 0⟩, ctx := { k.teller.ctx with pc := 0x5000 } } })

def decodesTo (s : State) (i : Instr) : Bool := gives (decode (s.mem.readBytes (storeKey 0 0) 4)) (i, [])

/-- Nothing holds slot 0 of core 0 before an instruction. -/
def slotFree (x : State) (i : Instr) : Bool :=
  let u := x.atTurn 0 (.slot 0)
  !inTrapCode u && u.slot.replaying.isNone && decide (x.heatMarks 0 = x) && !u.slot.yielded && !slotHeld u 0 && u.slot.restoreOwn.isNone && !(u.slot.stepDue && u.unitMode) && (touchesFault u i).isNone &&
  !marked u i && !acquirePending u
def freeAt (x : State) (c : Nat) : Bool := x.powered && decide (4 ≤ x.bootStep) && x.isActive c && !(x.core c).asleep

def runs (i : Instr) (u : State) : Bool := match exec i u with | .next v => !v.waited | _ => false

theorem test_witness_StepRunsTheDecodedInstruction :
    (let x := atInstr (.addi 1 2 5)
     freeAt x 0 = true ∧ ringWho (x.core 0).ring = .slot 0 ∧ slotFree x (.addi 1 2 5) = true ∧ (x.slotAt 0 0).rpt = none ∧
      breakpointAt (x.atTurn 0 (.slot 0)) 0 = false ∧ fetchOk (x.atTurn 0 (.slot 0)) = true ∧ badFetch (x.atTurn 0 (.slot 0)) = false ∧
      decodesTo x (.addi 1 2 5) = true ∧ runs (.addi 1 2 5) (x.atTurn 0 (.slot 0)) = true ∧ x.focus = 0 ∧ x.cycle.toNat / 700 ≤ x.tick ∧
      x.tick / 10 ≤ x.windows ∧ x.cadDue = false ∧ x.cycle.toNat % 2 = 0 ∧ x.agenda = [] ∧ decide (x.startLate 0 = x) = true ∧
      decide (nextCore x 0 < 262144) = true ∧ decide (x.correctedIn (lineKey x x.pc) 64 = x) = true) ∧
    (let x := inFrame
     let w := x.storeWord 0 (framePc 0 0)
     freeAt x 0 = true ∧ slotFree x (.addi 1 2 5) = true ∧ (x.slotAt 0 0).rpt = some ⟨5, 1, 0, 0, 0⟩ ∧
      ((x.atTurn 0 (.slot 0)).g 5).extractLsb' 40 4 = 0 ∧ frameWordOk w = true ∧ gives (decodeWord w) (.addi 1 2 5) = true ∧
      gives (decodeWord (staggerWord (.addi 1 2 5) ⟨5, 1, 0, 0, 0⟩ 0)) (.addi 1 2 5) = true ∧
      x.bad = [] ∧ runs (.addi 1 2 5) (x.atTurn 0 (.slot 0)) = true) ∧
    (let x := inHandler
     freeAt x 0 = true ∧ ringWho (x.core 0).ring = .teller ∧ (x.core 0).teller.act.isSome = true ∧
      fetchOk (x.atTurn 0 .teller) = true ∧ badFetch (x.atTurn 0 .teller) = false ∧ tellerHas (.addi 1 2 5) = true ∧
      gives (decode (x.mem.readBytes (storeKey 0 0x5000) 4)) (.addi 1 2 5, []) = true ∧ runs (.addi 1 2 5) (x.atTurn 0 .teller) = true) ∧
    ((Instr.mintTick).isWord = false ∧ (Instr.mintTick).wf = true) := by decide +kernel

/-- The agenda names a core that no module has. -/
theorem test_witness_NothingStopsTheMachine :
    (match step { w0 with agenda := [.core 262144] } with | .fault f => f == .noSuchPart | _ => false) = true ∧
    (match step { w0 with agenda := [.event (.messageLanding 262144)] } with | .fault f => f == .noSuchPart | _ => false) = true ∧
    (match step { w0 with agenda := [.event .mintTick] } with | .next _ => true | _ => false) = true := by decide +kernel

theorem test_witness_EveryStepKeepsInv :
    w0.Inv ∧ (match step { w0 with agenda := [.event .heatMeterWindow] } with | .next _ => true | _ => false) = true :=
  ⟨test_witness_inv.2.1, by decide +kernel⟩

theorem test_witness_ResetState : (0 : Nat) < 262144 ∧ (262143 : Nat) < 262144 := by decide

/-! ### Single steps -/

/-- The state after a step. -/
def after (s : State) (f : State → Bool) : Bool := match step s with | .next t => f t | _ => false

/-- A step that the agenda gives to core 0 runs the instruction at the PC: R23, R102, R387 and Table 15.2. -/
theorem test_step_addi :
    after { (atInstr (.addi 1 2 0xFFFF)) with agenda := [.core 0] } (fun t =>
      t.g 1 == BitVec.allOnes 64 && t.pc == 4 && t.purse 0 == 2 ^ 20 - 2 && t.slot.instret == 1 && (t.core 0).ring == 1) = true := by
  decide +kernel

/-- R30: TRAP in unit mode saves the PC and goes to TRAPVEC in system mode. -/
theorem test_step_trap :
    after { (atInstr (.trap 5)) with agenda := [.core 0] } (fun t => t.slot.trappc == 0 && t.ctx.status.getLsbD 0 && t.pc == t.slot.trapvec) = true := by
  decide +kernel

/-- R39: a frame word issues in its RPT's place, and the count register moves on. -/
theorem test_step_frame :
    after { inFrame with agenda := [.core 0] } (fun t => t.g 1 == 5 && t.pc == 0 && t.g 5 != 2) = true := by decide +kernel

end Sys2Proof.Tests
end

section
/-!
PROOFS. Traps that end in no handler code (R31): a slot's double trap, and the teller's handler fault.
-/
namespace Sys2Proof.Machine.State

/-! ### A record to the hubs changes the ports only, a message the mesh only -/

@[simp] theorem toHubs_curCore (s : State) (r : HubRec) : (s.toHubs r).curCore = s.curCore := rfl
@[simp] theorem toHubs_core (s : State) (r : HubRec) (c : Nat) : (s.toHubs r).core c = s.core c := rfl
@[simp] theorem toHubs_mem (s : State) (r : HubRec) : (s.toHubs r).mem = s.mem := rfl
@[simp] theorem toHubs_portA_events (s : State) (r : HubRec) : (s.toHubs r).portA.events = s.portA.events ++ [r] := rfl
@[simp] theorem toHubs_portB_events (s : State) (r : HubRec) : (s.toHubs r).portB.events = s.portB.events ++ [r] := rfl

section
variable (s : State) (d : Nat) (h : BitVec 6) (q : Req) (b : Body)

@[simp] theorem post_curCore : (s.post d h q b).curCore = s.curCore := rfl
@[simp] theorem post_core (c : Nat) : (s.post d h q b).core c = s.core c := rfl
@[simp] theorem post_mem : (s.post d h q b).mem = s.mem := rfl
@[simp] theorem post_portA : (s.post d h q b).portA = s.portA := rfl
@[simp] theorem post_portB : (s.post d h q b).portB = s.portB := rfl

end

/-! ### The double trap of a slot -/

@[simp] theorem doubleTrap_curCore (s : State) (c : Nat) (t : Fin 4) : (s.doubleTrap c t).curCore = s.curCore := rfl
@[simp] theorem doubleTrap_curWho (s : State) (c : Nat) (t : Fin 4) : (s.doubleTrap c t).curWho = s.curWho := rfl
@[simp] theorem doubleTrap_mem (s : State) (c : Nat) (t : Fin 4) : (s.doubleTrap c t).mem = s.mem := rfl

@[simp] theorem doubleTrap_portA_events (s : State) (c : Nat) (t : Fin 4) :
    (s.doubleTrap c t).portA.events = s.portA.events ++ [.doubleTrap c t.val] := rfl

@[simp] theorem doubleTrap_portB_events (s : State) (c : Nat) (t : Fin 4) :
    (s.doubleTrap c t).portB.events = s.portB.events ++ [.doubleTrap c t.val] := rfl

/-- The slot drops what it had begun and keeps everything else, its registers and its trap registers among it. -/
@[simp] theorem slotAt_doubleTrap_self (s : State) (c : Nat) (t : Fin 4) :
    (s.doubleTrap c t).slotAt c t =
      { s.slotAt c t with rpt := none, tile := none, bwait := none, waiting := false } := by
  simp [doubleTrap, slotAt, vec_get_set]

@[simp] theorem reason_doubleTrap_self (s : State) (c : Nat) (t : Fin 4) :
    ((s.doubleTrap c t).core c).dbgMod.reason.get t = 6 := by
  simp [doubleTrap, vec_get_set]

theorem core_doubleTrap_ne (s : State) {c d : Nat} (t : Fin 4) (h : d ≠ c) : (s.doubleTrap c t).core d = s.core d := by
  simp [doubleTrap, core_updCore_ne s _ h]

/-- Stop reason 6 (Table 20.4) holds the slot whatever DBGCTL.SSTEP says. -/
theorem isStopped_doubleTrap (s : State) (c : Nat) (t : Fin 4) : isStopped (s.doubleTrap c t) c t = true := by
  simp [isStopped]

/-- A slot in system mode takes every trap as a double trap (R31). -/
theorem trap_eq_doubleTrap (s : State) (cause sub : BitVec 8) (val : Word) {t : Fin 4} (hw : s.curWho = .slot t)
    (hm : s.unitMode = false) : s.trap cause sub val = s.doubleTrap s.curCore t := by
  have hsys : (s.slotAt s.curCore t).ctx.status.getLsbD 0 = true := by
    simpa [unitMode, isTeller, ctx, hw] using hm
  simp [trap, hw, trapAt, hsys]

/-! ### The handler fault of a teller -/

@[simp] theorem endActivation_curCore (s : State) (c : Nat) : (s.endActivation c).curCore = s.curCore := rfl
@[simp] theorem endActivation_mem (s : State) (c : Nat) : (s.endActivation c).mem = s.mem := rfl
@[simp] theorem endActivation_portA (s : State) (c : Nat) : (s.endActivation c).portA = s.portA := rfl
@[simp] theorem endActivation_portB (s : State) (c : Nat) : (s.endActivation c).portB = s.portB := rfl

@[simp] theorem teller_endActivation_self (s : State) (c : Nat) :
    ((s.endActivation c).core c).teller =
      { (s.core c).teller with act := none, stopped := (s.core c).teller.stopped || (s.core c).dbgMod.tstop } := by
  simp [endActivation]

/-- A handler fault sends its record to both hubs, tells the requester or not, and ends the activation (R284). -/
theorem handlerFault_cases (s : State) (c kind : Nat) (cause sub : BitVec 8) (val : Word) {a : Activation}
    (ha : (s.core c).teller.act = some a) :
    let told := s.toHubs (.handlerFault (s.handlerFaultRec c a.handler (s.core c).teller.ctx.pc cause sub kind val a.msg.src))
    s.handlerFault c kind cause sub val = told.endActivation c ∨
      ∃ b, s.handlerFault c kind cause sub val = (told.post a.msg.src.core 63 a.msg.src b).endActivation c := by
  simp only [handlerFault, ha]
  split
  · split
    · exact .inr ⟨_, rfl⟩
    · exact .inl rfl
  · exact .inl rfl

/-- A trap of the teller is a handler fault of kind 0 (R31). -/
theorem trap_eq_handlerFault (s : State) (cause sub : BitVec 8) (val : Word) (hw : s.curWho = .teller) :
    s.trap cause sub val = s.handlerFault s.curCore 0 cause sub val := by
  simp [trap, hw]

end Sys2Proof.Machine.State

namespace Sys2Proof.Machine

/-- Settles O10: a slot's part reads off the double trap, the teller's part off the handler fault that ends its activation. -/
theorem doubleTrap : Obligations.DoubleTrap := by
  intro s cause sub val
  constructor
  · intro hslot hsys
    cases hw : s.curWho with
    | teller => simp [State.isTeller, hw] at hslot
    | slot t =>
      have hothers : ∀ c, c ≠ s.curCore → (s.doubleTrap s.curCore t).core c = s.core c :=
        fun c hc => s.core_doubleTrap_ne t hc
      simp only [s.trap_eq_doubleTrap cause sub val hw hsys]
      simpa [State.ctx, State.slot, State.here, State.curSlotNo, hw, State.isStopped_doubleTrap] using hothers
  · intro a hw ha
    have htrap := s.trap_eq_handlerFault cause sub val hw
    obtain hfault | ⟨b, hfault⟩ := s.handlerFault_cases s.curCore 0 cause sub val ha
    · simp [htrap, hfault, State.here]
    · simp [htrap, hfault, State.here]

end Sys2Proof.Machine
end

section
/-!
PROOFS. The common end of a vector instruction (R81, R129, R132): a queue operand's pop, the row, the flags.
-/
namespace Sys2Proof.Machine

/-! ### A new value for a key, for a test that does not see the difference -/

/-- A test that fails on the default and holds at a key's value holds somewhere in the table. -/
theorem Tab.any_of_get {α : Type} (t : Tab α) (k : Nat) (d : α) (p : α → Bool) (hd : p d = false) (h : p (t.get k d) = true) :
    t.any (fun c => p c.2) = true := by
  induction t with
  | nil => simp [Tab.get, Tab.find, hd] at h
  | cons c r ih =>
    by_cases hc : c.1 = k
    · simp only [Tab.get, Tab.find, hc, if_true, Option.getD_some] at h
      simp [h]
    · simp only [Tab.get, Tab.find, hc, if_false] at h
      simp [show r.any (fun c => p c.2) = true from ih h]

theorem Tab.any_put {α : Type} (t : Tab α) (k : Nat) (v d : α) (p : α → Bool) (hd : p d = false) (hv : p v = p (t.get k d)) :
    (t.put k v).any (fun c => p c.2) = t.any (fun c => p c.2) := by
  induction t with
  | nil => simpa [Tab.put, Tab.get, Tab.find, hd] using hv
  | cons c r ih =>
    by_cases hc : c.1 = k
    · have hget : Tab.get (c :: r) k d = c.2 := by simp [Tab.get, Tab.find, hc]
      simp [Tab.put, hc, hv, hget]
    · by_cases hlt : k < c.1
      · have hhead : (Tab.put (c :: r) k v) = (k, v) :: c :: r := by simp [Tab.put, hc, hlt]
        cases hp : p v with
        | false => simp only [hhead, List.any_cons, hp, Bool.false_or]
        | true => rw [hhead, Tab.any_of_get (c :: r) k d p hd (hv ▸ hp), List.any_cons, hp, Bool.true_or]
      · have hget : Tab.get (c :: r) k d = Tab.get r k d := by simp [Tab.get, Tab.find, hc]
        simp [Tab.put, hc, hlt, ih (hget ▸ hv)]

namespace State

variable (s : State) (n : Nat)

/-! ### Distances do not change with a charge -/

/-- Some core stands in for a number, or its own core is active. -/
theorem ofNumber_isSome (x : BitVec 18) :
    (s.ofNumber x).isSome =
      (s.isActive (s.columnOf x) || s.lost.contains (s.columnOf x) && s.cores.any (fun p => p.2.standIn == some x)) := by
  unfold ofNumber
  by_cases ha : s.isActive (s.columnOf x) = true
  · simp only [ha, if_true, Option.isSome_some, Bool.true_or]
  · by_cases hl : s.lost.contains (s.columnOf x) = true
    · simp only [ha, hl, if_true, if_false, Option.isSome_map, List.isSome_find?, Bool.true_and, Bool.false_or, Bool.false_eq_true]
    · simp only [ha, hl, if_false, Option.isSome_none, Bool.false_and, Bool.false_or, Bool.false_eq_true]

theorem hopsFrom_eq (c : Nat) (a : BitVec 26) :
    s.hopsFrom c a =
      if a.extractLsb' 18 8 == s.modNo && (s.ofNumber (a.extractLsb' 0 18)).isSome then hops c (s.columnOf (a.extractLsb' 0 18))
      else hops c (linkCore ((s.linkTo (a.extractLsb' 18 8)).getD 0)) + 8 +
        Config.remoteHops (a.extractLsb' 18 8) (a.extractLsb' 0 18) := by
  unfold hopsFrom ofId
  cases a.extractLsb' 18 8 == s.modNo <;> cases s.ofNumber (a.extractLsb' 0 18) <;> rfl

theorem hopsDst_congr {s t : State} (h : ∀ c a, t.hopsFrom c a = s.hopsFrom c a) (c d : Nat) : t.hopsDst c d = s.hopsDst c d := by
  simp only [hopsDst, h]

/-- A form whose core stands in for the same number has the same distances. -/
theorem form_hopsDst (P : Tab Nat) (K : Core) (H : Int) (D : Dist) (hK : K.standIn = s.here.standIn) (c d : Nat) :
    (s.form P K H D).hopsDst c d = s.hopsDst c d := by
  have hany : ∀ x : BitVec 18,
      (s.form P K H D).cores.any (fun p => p.2.standIn == some x) = s.cores.any (fun p => p.2.standIn == some x) :=
    fun x => Tab.any_put s.cores s.curCore K Core.reset (fun k => k.standIn == some x) rfl (by rw [hK]; rfl)
  have hnum : ∀ x : BitVec 18, ((s.form P K H D).ofNumber x).isSome = (s.ofNumber x).isSome := fun x => by
    rw [ofNumber_isSome, ofNumber_isSome, hany]
    rfl
  refine hopsDst_congr (fun c a => ?_) c d
  rw [hopsFrom_eq, hopsFrom_eq, hnum]
  rfl

theorem countTo_hopsDst (j : Option (BitVec 24)) (c d : Nat) : (s.countTo j n).hopsDst c d = s.hopsDst c d := by
  refine hopsDst_congr (fun c a => ?_) c d
  cases j with
  | none => rfl
  | some j => by_cases hj : j = 0 <;> simp only [countTo, hj, if_true, if_false] <;> rfl

theorem setPurse_hopsDst (k c d : Nat) : (s.setPurse k n).hopsDst c d = s.hopsDst c d :=
  hopsDst_congr (fun c a => by rw [hopsFrom_eq, hopsFrom_eq]; rfl) c d

theorem charge_hopsDst (c d : Nat) : (s.charge n).hopsDst c d = s.hopsDst c d := by
  cases hw : s.curWho with
  | teller => rw [charge_teller s n hw, countTo_hopsDst, setPurse_hopsDst]
  | slot t =>
    rw [charge_slot s t n hw]
    refine form_hopsDst s _ _ _ _ ?_ c d
    rfl

/-! ### The credits of a pop commute with a charge -/

theorem form_housePay (P : Tab Nat) (K : Core) (H : Int) (D : Dist) (c k : Nat) :
    (s.form P K H D).housePay c k = (s.housePay c k).form P K (H + k) D := rfl

theorem accounts_housePay (j : Option (BitVec 24)) (c k : Nat) :
    (s.housePay c k).accounts j n = ((s.accounts j n).1 + k, (s.accounts j n).2) := by
  have hcomm : s.housekeeping + (k : Int) + n = s.housekeeping + n + k := by omega
  unfold accounts countTo
  cases j with
  | none => exact Prod.ext hcomm rfl
  | some j =>
    by_cases hj : j = 0
    · simp only [hj, if_true]; exact Prod.ext hcomm rfl
    · simp only [hj, if_false]; rfl

theorem countTo_housePay (j : Option (BitVec 24)) (c k : Nat) : (s.countTo j n).housePay c k = (s.housePay c k).countTo j n := by
  have hcomm : s.housekeeping + (n : Int) + k = s.housekeeping + k + n := by omega
  unfold countTo
  cases j with
  | none => simp only [housePay, hcomm]
  | some j =>
    by_cases hj : j = 0
    · simp only [hj, if_true, housePay, hcomm]
    · simp only [hj, if_false, housePay]

theorem charge_housePay (c k : Nat) : (s.charge n).housePay c k = (s.housePay c k).charge n := by
  cases hw : s.curWho with
  | teller =>
    have hp : (s.housePay c k).curWho = .teller := hw
    rw [charge_teller s n hw, charge_teller _ n hp, countTo_housePay]
    rfl
  | slot t =>
    have hp : (s.housePay c k).curWho = .slot t := hw
    rw [charge_slot s t n hw, charge_slot _ t n hp, form_housePay, show (s.housePay c k).here = s.here from rfl, accounts_housePay]
    rfl

theorem charge_returnCredit (c : Nat) (x : QEntry × Nat) : (s.charge n).returnCredit c x = (s.returnCredit c x).charge n := by
  simp only [returnCredit, charge_hopsDst, charge_housePay, charge_post]

theorem charge_returnCredits (c : Nat) (xs : List (QEntry × Nat)) :
    xs.foldl (fun t x => t.returnCredit c x) (s.charge n) = (xs.foldl (fun t x => t.returnCredit c x) s).charge n := by
  induction xs generalizing s with
  | nil => rfl
  | cons x xs ih => rw [List.foldl_cons, List.foldl_cons, charge_returnCredit, ih]

end State

theorem keeps_returnCredits (c : Nat) (xs : List (QEntry × Nat)) (s : State) :
    Keeps s (xs.foldl (fun t x => t.returnCredit c x) s) := by
  induction xs generalizing s with
  | nil => exact keeps_refl s
  | cons x xs ih =>
    have hx : Keeps s (s.returnCredit c x) := ⟨rfl, rfl, rfl, rfl, rfl, fun _ => ⟨rfl, rfl, rfl⟩, fun _ => rfl, rfl⟩
    exact hx.trans (ih (s.returnCredit c x))

theorem ctx_returnCredits (c : Nat) (xs : List (QEntry × Nat)) (s : State) :
    (xs.foldl (fun t x => t.returnCredit c x) s).ctx = s.ctx := by
  induction xs generalizing s with
  | nil => rfl
  | cons x xs ih => exact ih (s.returnCredit c x)

/-! ### A pop -/

namespace State

/-- A core without the head entry of one of its queues. -/
def dropHead (q : Fin 8) (k : Core) : Core := { k with queues := k.queues.set q ((k.queues.get q).drop 1) q.isLt }

variable (s : State) (n : Nat) (q : Fin 8)

theorem spares_dropHead : s.Spares (dropHead q) := ⟨rfl, rfl, rfl, rfl, fun _ _ => rfl⟩

/-- The executing core's pop: the head leaves, then its credit returns (R248). -/
theorem popAt_curCore :
    s.popAt s.curCore q =
      (creditsOf ((s.here.queues.get q).take 1)).foldl (fun t x => t.returnCredit s.curCore x) (s.updHere (dropHead q)) := rfl

theorem charge_queues : (s.charge n).here.queues = s.here.queues := by
  cases hw : s.curWho with
  | teller =>
    rw [charge_teller s n hw, here, countTo_core, countTo_curCore]
    rfl
  | slot t => rw [charge_slot s t n hw, form_here]

theorem charge_popAt : (s.charge n).popAt s.curCore q = (s.popAt s.curCore q).charge n := by
  have hc : (s.charge n).curCore = s.curCore := charge_curCore s n
  calc (s.charge n).popAt s.curCore q
      = (s.charge n).popAt (s.charge n).curCore q := by rw [hc]
    _ = _ := by
      rw [popAt_curCore, popAt_curCore, charge_queues, charge_updHere s n _ (spares_dropHead s q), charge_returnCredits, hc]

theorem charge_popQ : (s.charge n).popQ q = (s.popQ q).charge n := by
  have hc : ∀ k, (s.note k).curCore = s.curCore := fun k => (keeps_note s k).core
  unfold popQ
  rw [show (s.charge n).qHead q = s.qHead q by simp only [qHead, charge_queues]]
  cases s.qHead q with
  | none => rfl
  | some e => simp only [charge_note, charge_curCore, ← hc (.log 3 (rowBytes e.data)), charge_popAt]

theorem charge_popOpt (p : Option (Fin 8)) : (s.charge n).popOpt p = (s.popOpt p).charge n := by
  cases p with
  | none => rfl
  | some q => exact charge_popQ s n q

end State

theorem keeps_popAt (s : State) (q : Fin 8) : Keeps s (s.popAt s.curCore q) := by
  have hdrop : Keeps s (s.updHere (State.dropHead q)) := by
    refine keeps_updHere (State.spares_dropHead s q) (fun _ => rfl) ?_
    cases hw : s.curWho <;> simp [State.pc, State.ctx, hw, State.slotAt, State.updHere, State.dropHead, State.here]
  exact hdrop.trans (keeps_returnCredits s.curCore _ _)

theorem ctx_popAt (s : State) (q : Fin 8) : (s.popAt s.curCore q).ctx = s.ctx := by
  rw [State.popAt_curCore, ctx_returnCredits]
  cases hw : s.curWho <;> simp [State.ctx, hw, State.slotAt, State.updHere, State.dropHead, State.here]

theorem ctx_note (s : State) (k : NoteKind) : (s.note k).ctx = s.ctx := by
  cases hw : s.curWho with
  | teller => simp only [State.note, hw]
  | slot t => rw [State.note_slot s t k hw]; rfl

/-- A pop logs the entry, then removes it; with no entry nothing happens. -/
theorem popQ_cases (s : State) (q : Fin 8) : s.popQ q = s ∨ ∃ k, s.popQ q = (s.note k).popAt (s.note k).curCore q := by
  unfold State.popQ
  cases s.qHead q with
  | none => exact .inl rfl
  | some e => exact .inr ⟨.log 3 (rowBytes e.data), by rw [(keeps_note s _).core]⟩

theorem keeps_popOpt (s : State) (p : Option (Fin 8)) : Keeps s (s.popOpt p) := by
  cases p with
  | none => exact keeps_refl s
  | some q =>
    rw [State.popOpt]
    obtain h | ⟨k, h⟩ := popQ_cases s q <;> rw [h]
    · exact keeps_refl s
    · exact (keeps_note s k).trans (keeps_popAt (s.note k) q)

@[simp] theorem ctx_popOpt (s : State) (p : Option (Fin 8)) : (s.popOpt p).ctx = s.ctx := by
  cases p with
  | none => rfl
  | some q =>
    rw [State.popOpt]
    obtain h | ⟨k, h⟩ := popQ_cases s q <;> rw [h]
    rw [ctx_popAt, ctx_note]

/-! ### The row and its flags -/

theorem State.updCtx_updCtx (s : State) (f g : Ctx → Ctx) : (s.updCtx f).updCtx g = s.updCtx (fun c => g (f c)) := by
  rw [State.updCtx, State.ctx_updCtx]
  cases hw : s.curWho with
  | teller => simp [State.updCtx, State.setCtx, hw, State.updHere]
  | slot t => simp [State.updCtx, State.setCtx, hw, State.updSlotAt, State.setSlotAt, State.slotAt, State.get_set_self]

/-- No flag raised beside a row: nothing more changes. -/
@[simp] theorem raise_flNone_setV (s : State) (d : BitVec 5) (row : Row) : (s.setV d row).raise flNone = s.setV d row := by
  have hflags : ∀ x : BitVec 13, x ||| (flNone ++ 0#8) = x := fun _ => BitVec.or_zero
  simp only [State.raise, State.setV, State.updCtx_updCtx, hflags]

/-- The bare state keeps the register file but for the PC. -/
theorem State.ctx_bare (s : State) : s.bare.ctx = { s.ctx with pc := 0 } := by
  have hbare : s.bare =
      s.form (Tab.put s.purses s.curCore 0) (State.bareCore s s.here) 0 { s.dist with jobs := s.dist.jobs.map State.noCoins } := rfl
  cases hw : s.curWho with
  | teller =>
    rw [hbare, State.form_ctx_teller s _ _ _ _ hw]
    simp [State.bareCore, State.isTeller, hw, Teller.bare, State.ctx]
  | slot t =>
    rw [hbare, State.form_ctx_slot s _ _ _ _ t hw]
    simp [State.bareCore, State.isTeller, State.curSlotNo, hw, Slot.bare, State.get_set_self, State.ctx, State.slotAt, State.here]

/-- An update of the executing slot that leaves its registers alone leaves the executing context alone. -/
theorem State.ctx_updSlot (s : State) (f : Slot → Slot) (hf : (f s.slot).ctx = s.slot.ctx) : (s.updSlot f).ctx = s.ctx := by
  cases hw : s.curWho with
  | teller => simp [State.ctx, hw, State.updSlot, State.updSlotAt, State.setSlotAt, State.here]
  | slot t =>
    have hslot : ∀ u : State, u.curWho = .slot t → u.ctx = u.slot.ctx := fun u hu => by
      simp [State.ctx, hu, State.slot, State.curSlotNo]
    rw [hslot s hw, hslot (s.updSlot f) hw, State.slot_updSlot, hf]

/-- A frame word's end leaves FPMODE alone. -/
theorem State.fpmode_afterWord (u s : State) : (u.afterWord s).ctx.fpmode = u.ctx.fpmode := by
  unfold State.afterWord
  cases s.replay with
  | none => rfl
  | some r =>
    have hcount : (u.setG r.c (r.next (s.g r.c))).ctx.fpmode = u.ctx.fpmode := by
      rw [State.ctx_setG, Ctx.putG]
    by_cases hends : r.ends (s.g r.c) = true
    · simp only [hends, if_true, State.ctx_updSlot _ (fun l => { l with rpt := none }) rfl, hcount]
    · simp only [hends, if_false, Bool.false_eq_true, hcount]

/-- FPMODE when an instruction has ended is that of its effect. -/
theorem Ran.fpmode {s t u : State} {n : Nat} (h : Ran s t u n) : t.ctx.fpmode = u.ctx.fpmode := by
  calc t.ctx.fpmode = t.bare.ctx.fpmode := by rw [State.ctx_bare]
    _ = (u.afterWord s).ctx.fpmode := by rw [h.rest, State.ctx_bare]
    _ = u.ctx.fpmode := State.fpmode_afterWord u s

/-- A vector instruction that writes one row and raises flags. -/
theorem givesRow_of_vecFinish {i : Instr} {s : State} {n : Nat} {q : BitVec 2} {a b d : BitVec 5} {x y row : Row} {pop : Option (Fin 8)}
    {fl : FpFlags} {w : Row → Row → State → State} (he : exec i s = vecFinish s n q a b w) (hsrc : vSources s q a b = .got x y pop)
    (hp : s.canPay n = true) (hw : ∀ p, w x y p = (p.setV d row).raise fl) : GivesRow i s n pop d row fl := by
  have hcomm : (((s.charge n).popOpt pop).setV d row).raise fl = (((s.popOpt pop).setV d row).raise fl).charge n := by
    simp only [State.charge_popOpt, State.setV, State.raise, State.charge_updCtx]
  have hkeeps : Keeps s (((s.popOpt pop).setV d row).raise fl) :=
    ((keeps_popOpt s pop).trans (keeps_updCtx _ _ rfl)).trans (keeps_updCtx _ _ rfl)
  have hran := ran_charge s _ n hkeeps
  refine ⟨_, ?_, hran, fun r => ?_, ?_⟩
  · rw [he, vecFinish, hsrc]
    simp only [paying, hp, if_true, hw, hcomm]
  · rw [hran.rows, State.v_raise, State.v_setV, State.v, ctx_popOpt, State.v]
  · rw [hran.fpmode, State.ctx_raise, State.ctx_setV, ctx_popOpt]

end Sys2Proof.Machine
end

section
/-!
PROOFS. Reductions and running sums over the active lanes of a row (R72, R144, R145).
-/
namespace Sys2Proof.Machine

/-! ### Elements of a packed row (R81, R128) -/

theorem lane_eq (z : Nat) (r : Row) (j : Nat) : lane z r j = r.toNat / 2 ^ (8 * z * j) % 2 ^ (8 * z) := by
  rw [lane, BitVec.extractLsb'_toNat, Nat.shiftRight_eq_div_pow]

theorem lane_lt (z : Nat) (r : Row) (j : Nat) : lane z r j < 2 ^ (8 * z) := by
  rw [lane_eq]; exact Nat.mod_lt _ (Nat.two_pow_pos _)

/-- Digit j of a number written in digits of w bits. -/
theorem foldr_digit (w : Nat) (xs : List Nat) (j : Nat) :
    xs.foldr (fun x a => x % 2 ^ w + a * 2 ^ w) 0 / 2 ^ (w * j) % 2 ^ w = xs.getD j 0 % 2 ^ w := by
  have hw : 0 < 2 ^ w := Nat.two_pow_pos w
  induction xs generalizing j with
  | nil => simp
  | cons x xs ih =>
    cases j with
    | zero => simp
    | succ j =>
      rw [List.foldr_cons, List.getD_cons_succ, ← ih j, Nat.mul_succ, Nat.add_comm (w * j), Nat.pow_add, ← Nat.div_div_eq_div_mul,
        Nat.add_mul_div_right _ _ hw, Nat.div_eq_of_lt (Nat.mod_lt x hw), Nat.zero_add]

/-- Bits below the place where a bit vector is cut off. -/
theorem toNat_ofNat_div_mod (p : Nat) {n a b : Nat} (h : a + b ≤ n) : (BitVec.ofNat n p).toNat / 2 ^ a % 2 ^ b = p / 2 ^ a % 2 ^ b := by
  have hsplit : 2 ^ n = 2 ^ a * 2 ^ (n - a) := by rw [← Nat.pow_add, Nat.add_sub_cancel' (by omega)]
  rw [BitVec.toNat_ofNat, hsplit, Nat.mod_mul_right_div_self, Nat.mod_mod_of_dvd _ (Nat.pow_dvd_pow 2 (by omega))]

/-- The elements of a packed row, as far as the row reaches. -/
theorem lane_packLanes (z : Nat) (xs : List Nat) {j : Nat} (hj : j < 64 / z) :
    lane z (packLanes z xs) j = xs.getD j 0 % 2 ^ (8 * z) := by
  have hrow : (j + 1) * z ≤ 64 := Nat.mul_le_of_le_div _ _ _ hj
  have hfit : 8 * z * j + 8 * z ≤ 512 := by
    have hbytes : 8 * z * j + 8 * z = 8 * ((j + 1) * z) := by
      rw [← Nat.mul_succ, Nat.mul_assoc, Nat.mul_comm z]
    omega
  rw [lane_eq, packLanes, toNat_ofNat_div_mod _ hfit, foldr_digit]

/-- A row with nothing but a 64-bit word at its start. -/
theorem toNat_packLanes_word (x : Word) : (packLanes 8 [x.toNat]).toNat = x.toNat := by
  have hx := x.isLt
  simp only [packLanes, List.foldr_cons, List.foldr_nil, BitVec.toNat_ofNat]
  omega

/-! ### The tree of R72 -/

theorem treeNode_succ {α : Type} (f : α → α → α) (leaf : Nat → Option α) (k j : Nat) :
    treeNode f leaf (k + 1) j = treeJoin f (treeNode f leaf k (2 * j)) (treeNode f leaf k (2 * j + 1)) := by
  rw [treeNode]
  cases treeNode f leaf k (2 * j) <;> cases treeNode f leaf k (2 * j + 1) <;> rfl

/-- A level of 2n nodes becomes one of n: node j is formed from nodes 2j and 2j + 1. -/
theorem treeLevel_range {α : Type} (f : α → α → α) (g : Nat → Option α) (n : Nat) :
    treeLevel f ((List.range (2 * n)).map g) = (List.range n).map (fun j => treeJoin f (g (2 * j)) (g (2 * j + 1))) := by
  induction n generalizing g with
  | zero => rfl
  | succ n ih =>
    have hshift : ∀ m (h : Nat → Option α),
        (List.range (m + 1)).map h = h 0 :: (List.range m).map (fun j => h (j + 1)) := fun m h => by
      rw [List.range_succ_eq_map, List.map_cons, List.map_map]; rfl
    rw [Nat.mul_succ, hshift (2 * n + 1) g, hshift (2 * n), treeLevel, ih, hshift n]
    rfl

/-- k levels of the tree. -/
def treeLevels {α : Type} (f : α → α → α) (xs : List (Option α)) : Nat → List (Option α)
  | 0 => xs
  | k + 1 => treeLevel f (treeLevels f xs k)

theorem treeRoot_eq {α : Type} (f : α → α → α) (xs : List (Option α)) : treeRoot f xs = (treeLevels f xs 6).head?.join := rfl

/-- After k levels over 2^k n leaves the n nodes of level k stand in order. -/
theorem treeLevels_range {α : Type} (f : α → α → α) (leaf : Nat → Option α) (k n : Nat) :
    treeLevels f ((List.range (2 ^ k * n)).map leaf) k = (List.range n).map (treeNode f leaf k) := by
  induction k generalizing n with
  | zero =>
    rw [Nat.pow_zero, Nat.one_mul]
    rfl
  | succ k ih =>
    rw [treeLevels, Nat.pow_succ, Nat.mul_assoc, ih, treeLevel_range]
    exact List.map_congr_left (fun j _ => (treeNode_succ f leaf k j).symm)

/-- Levels above a single node leave it as it is. -/
theorem treeLevels_add {α : Type} (f : α → α → α) {xs : List (Option α)} {k : Nat} {x : Option α} (h : treeLevels f xs k = [x])
    (i : Nat) : treeLevels f xs (k + i) = [x] := by
  induction i with
  | zero => exact h
  | succ i ih =>
    rw [← Nat.add_assoc, treeLevels, ih]
    rfl

/-- The root over 2^k leaves is node 0 of level k. -/
theorem treeRoot_range {α : Type} (f : α → α → α) (leaf : Nat → Option α) {k : Nat} (hk : k ≤ 6) :
    treeRoot f ((List.range (2 ^ k)).map leaf) = treeNode f leaf k 0 := by
  have hroot : treeLevels f ((List.range (2 ^ k)).map leaf) k = [treeNode f leaf k 0] := by
    have hone := treeLevels_range f leaf k 1
    rw [Nat.mul_one] at hone
    exact hone
  have hsix := treeLevels_add f hroot (6 - k)
  rw [Nat.add_sub_cancel' hk] at hsix
  rw [treeRoot_eq, hsix]
  rfl

/-- The active lanes as leaves: an inactive lane is absent and the others keep their positions. -/
def laneLeaf {α : Type} (mask : Word) (z : Nat) (f : Nat → α) (j : Nat) : Option α :=
  if mask.getLsbD (j * z) then some (f j) else none

theorem treeRoot_leaves {α : Type} (f : α → α → α) (mask : Word) (g : Nat → α) {z k : Nat} (hz : 64 / z = 2 ^ k) (hk : k ≤ 6) :
    treeRoot f (leaves mask z g) = treeNode f (laneLeaf mask z g) k 0 := by
  rw [leaves, hz]
  exact treeRoot_range f _ hk

/-! ### Reductions of floating-point lanes (R144) -/

theorem leafF_eq (f : FFmt) (x : Nat) :
    leafF f x = if (unpack f x).isNan then ⟨f.nanBits, if (unpack f x).isSnan then flNV else flNone⟩ else ⟨x, flNone⟩ := by
  unfold leafF
  cases unpack f x <;> rfl

theorem joinF_eq (g : Nat → Nat → FOut) (x y : FOut) :
    joinF g x y = ⟨(g x.bits y.bits).bits, x.fl ||| y.fl ||| (g x.bits y.bits).fl⟩ := by
  rw [joinF, BitVec.or_assoc, BitVec.or_comm]

theorem fltSize_pos (e : BitVec 2) : 0 < fltSize e := by revert e; decide

theorem fltSize_le (e : BitVec 2) : fltSize e ≤ 64 := by revert e; decide

/-- The levels above the lanes of a format. -/
def treeDepth (e : BitVec 2) : Nat := if e = 3 then 3 else if e = 2 then 4 else 5

theorem treeDepth_le (e : BitVec 2) : treeDepth e ≤ 6 := by revert e; decide

theorem lanes_eq_pow_treeDepth (e : BitVec 2) : 64 / fltSize e = 2 ^ treeDepth e := by revert e; decide

/-- The root of R144's tree over the active lanes of x, or `empty` where no lane is active. -/
def reduced (g : Nat → Nat → FOut) (empty : Nat) (mask : Word) (e : BitVec 2) (x : Row) : FOut :=
  let leaf := laneLeaf mask (fltSize e) (fun j => leafF (ewFmt e) (lane (fltSize e) x j))
  (treeNode (joinF g) leaf (treeDepth e) 0).getD ⟨empty, flNone⟩

/-- A row with one element at its start and zero elsewhere. -/
theorem lane_packLanes_singleton (z v : Nat) (hz : 0 < z) (hz' : z ≤ 64) :
    lane z (packLanes z [v]) 0 = v % 2 ^ (8 * z) ∧ ∀ j, 0 < j → j < 64 / z → lane z (packLanes z [v]) j = 0 := by
  refine ⟨lane_packLanes z [v] (Nat.div_pos hz' hz), fun j hpos hj => ?_⟩
  have habsent : [v].getD j 0 = 0 := by
    cases j with
    | zero => exact absurd hpos (Nat.lt_irrefl 0)
    | succ j => rfl
  rw [lane_packLanes z [v] hj, habsent, Nat.zero_mod]

/-- A floating-point reduction: the root in element 0, zero elsewhere, the flags of the whole tree. -/
theorem givesRow_vRed {i : Instr} {s : State} {n n64 c : Nat} {d a : BitVec 5} {m : BitVec 3} {q e : BitVec 2} {empty : FFmt → Nat}
    {g : FFmt → Rm → Nat → Nat → FOut} {x y : Row} {pop : Option (Fin 8)} (he : exec i s = vRed s n n64 d a m q e empty g)
    (hc : fltCoins e n n64 = c) (hsrc : vSources s q a 0 = .got x y pop) (hp : s.canPay c = true) :
    let root := reduced (g (ewFmt e) s.rm) (empty (ewFmt e)) (s.m m) e x
    ∃ row, GivesRow i s c pop d row root.fl ∧
      lane (fltSize e) row 0 = root.bits % 2 ^ (8 * fltSize e) ∧ ∀ j, 0 < j → j < 64 / fltSize e → lane (fltSize e) row j = 0 := by
  intro root
  unfold vRed at he
  rw [hc] at he
  refine ⟨packLanes (fltSize e) [root.bits], givesRow_of_vecFinish he hsrc hp (fun p => ?_), ?_⟩
  · rw [treeRoot_leaves _ _ _ (lanes_eq_pow_treeDepth e) (treeDepth_le e)]
    rfl
  · exact lane_packLanes_singleton _ _ (fltSize_pos e) (fltSize_le e)

/-! ### The integer sum -/

/-- A node of a tree of sums modulo 2^64 is the sum of the leaves below it, when h is each leaf's value, zero for an absent one. -/
theorem treeNode_add {leaf : Nat → Option Word} {h : Nat → Int} (hleaf : ∀ i, (leaf i).getD 0 = BitVec.ofInt 64 (h i)) (k j : Nat) :
    (treeNode (fun u v : Word => u + v) leaf k j).getD 0 =
      BitVec.ofInt 64 ((List.range (2 ^ k)).map (fun i => h (2 ^ k * j + i))).sum := by
  have hjoin : ∀ a b : Option Word, (treeJoin (fun u v : Word => u + v) a b).getD 0 = a.getD 0 + b.getD 0 := fun a b => by
    cases a <;> cases b <;> simp [treeJoin]
  induction k generalizing j with
  | zero => simpa [treeNode] using hleaf j
  | succ k ih =>
    have hleft : 2 ^ k * (2 * j) = 2 ^ (k + 1) * j := by rw [Nat.pow_succ, Nat.mul_assoc]
    have hright : 2 ^ k * (2 * j + 1) = 2 ^ (k + 1) * j + 2 ^ k := by rw [Nat.mul_succ, hleft]
    have hrange : List.range (2 ^ (k + 1)) = List.range (2 ^ k) ++ (List.range (2 ^ k)).map (2 ^ k + ·) := by
      rw [Nat.pow_succ, Nat.mul_two, List.range_add]
    rw [treeNode_succ, hjoin, ih, ih, hleft, hright, ← BitVec.ofInt_add, hrange, List.map_append, List.map_map, List.sum_append]
    simp only [Function.comp_def, Nat.add_assoc]

/-- The signed values of the active lanes, zero for the others. -/
def activeSigned (mask : Word) (z : Nat) (x : Row) (j : Nat) : Int :=
  if mask.getLsbD (j * z) then signedOf (8 * z) (lane z x j) else 0

/-- The tree of sums modulo 2^64 gives the sum of the lanes modulo 2^64. -/
theorem treeRoot_signed_toNat (mask : Word) (x : Row) {z k : Nat} (hz : 64 / z = 2 ^ k) (hk : k ≤ 6) :
    ((treeRoot (fun u v : Word => u + v) (leaves mask z (fun j => BitVec.ofInt 64 (signedOf (8 * z) (lane z x j))))).getD 0).toNat =
      (((List.range (64 / z)).map (activeSigned mask z x)).sum % 2 ^ 64).toNat := by
  have hleaf : ∀ j, (laneLeaf mask z (fun j => BitVec.ofInt 64 (signedOf (8 * z) (lane z x j))) j).getD 0 =
      BitVec.ofInt 64 (activeSigned mask z x j) := fun j => by
    unfold laneLeaf activeSigned
    split <;> rfl
  rw [treeRoot_leaves _ _ _ hz hk, treeNode_add hleaf, hz, BitVec.toNat_ofInt]
  simp only [Nat.mul_zero, Nat.zero_add]
  rfl

/-! ### The running sum (R145) -/

section
variable (f : FFmt) (rm : Rm) (mask : Word) (z : Nat) (old x : Row)

/-- One lane of a running sum on the sum so far. -/
def scanNode (t : Option Nat) (j : Nat) : FOut :=
  match t with
  | none => leafF f (lane z x j)
  | some t => fAdd f rm t (lane z x j)

/-- The sum of the active lanes below j, from left to right, or absent. -/
def scanSum : Nat → Option Nat
  | 0 => none
  | j + 1 => if active mask z j then some (scanNode f rm z x (scanSum j) j).bits else scanSum j

/-- Lane j added to the sum of the active lanes below it. -/
def scanOut (j : Nat) : FOut := scanNode f rm z x (scanSum f rm mask z x j) j

/-- The sum so far is that of the last active lane. -/
theorem scanSum_eq (j : Nat) :
    scanSum f rm mask z x j = ((List.range j).filter (active mask z)).getLast?.map (fun k => (scanOut f rm mask z x k).bits) := by
  induction j with
  | zero => rfl
  | succ j ih =>
    by_cases hact : active mask z j = true
    · simp [scanSum, hact, List.range_succ, List.filter_append, scanOut]
    · simp [scanSum, hact, List.range_succ, List.filter_append, ih]

theorem scanOut_eq (j : Nat) :
    scanOut f rm mask z x j =
      match ((List.range j).filter (active mask z)).getLast? with
      | none => leafF f (lane z x j)
      | some k => fAdd f rm (scanOut f rm mask z x k).bits (lane z x j) := by
  rw [scanOut, scanSum_eq]
  cases ((List.range j).filter (active mask z)).getLast? <;> rfl

/-- One step of `scanLanes`: the sum, the flags and the elements so far. -/
def scanStep (acc : Option Nat × FpFlags × List Nat) (i : Nat) : Option Nat × FpFlags × List Nat :=
  if active mask z i then
    let o := scanNode f rm z x acc.1 i
    (some o.bits, acc.2.1 ||| o.fl, acc.2.2 ++ [o.bits])
  else (acc.1, acc.2.1, acc.2.2 ++ [lane z old i])

/-- The flags of the active lanes below n. -/
def scanFlags : Nat → FpFlags
  | 0 => flNone
  | n + 1 => if active mask z n then scanFlags n ||| (scanOut f rm mask z x n).fl else scanFlags n

/-- Element j after a running sum. -/
def scanElem (j : Nat) : Nat := if active mask z j then (scanOut f rm mask z x j).bits else lane z old j

theorem foldl_scanStep (n : Nat) :
    (List.range n).foldl (scanStep f rm mask z old x) (none, flNone, []) =
      (scanSum f rm mask z x n, scanFlags f rm mask z x n, (List.range n).map (scanElem f rm mask z old x)) := by
  induction n with
  | zero => rfl
  | succ n ih =>
    rw [List.range_succ, List.foldl_append, ih, List.map_append]
    by_cases hact : active mask z n = true
    · simp [scanStep, scanSum, scanFlags, scanElem, scanOut, hact]
    · simp [scanStep, scanSum, scanFlags, scanElem, hact]

theorem scanLanes_eq :
    scanLanes f rm mask z old x = ((List.range (64 / z)).map (scanElem f rm mask z old x), scanFlags f rm mask z x (64 / z)) := by
  have hfold : scanLanes f rm mask z old x =
      (((List.range (64 / z)).foldl (scanStep f rm mask z old x) (none, flNone, [])).2.2,
        ((List.range (64 / z)).foldl (scanStep f rm mask z old x) (none, flNone, [])).2.1) := rfl
  rw [hfold, foldl_scanStep]

theorem getLsbD_scanFlags (n k : Nat) :
    (scanFlags f rm mask z x n).getLsbD k = true ↔
      ∃ j, j < n ∧ active mask z j = true ∧ (scanOut f rm mask z x j).fl.getLsbD k = true := by
  induction n with
  | zero => simp [scanFlags, flNone]
  | succ n ih =>
    rw [Nat.exists_lt_succ_right, ← ih]
    by_cases hact : active mask z n = true
    · simp [scanFlags, hact]
    · simp [scanFlags, hact]

end

theorem exec_vscan (s : State) (d a : BitVec 5) (m : BitVec 3) (q e : BitVec 2) :
    exec (.vscan d a m q e) s = vecFinish s (fltCoins e 12 16) q a 0 (fun x _ p =>
      (p.setV d (packLanes (fltSize e) (scanLanes (ewFmt e) s.rm (s.m m) (fltSize e) (s.v d) x).1)).raise
        (scanLanes (ewFmt e) s.rm (s.m m) (fltSize e) (s.v d) x).2) := rfl

/-- VSCAN: the running sums in the active elements, the old elements elsewhere. -/
theorem givesRow_vscan {s : State} {d a : BitVec 5} {m : BitVec 3} {q e : BitVec 2} {x y : Row} {pop : Option (Fin 8)}
    (hsrc : vSources s q a 0 = .got x y pop) (hp : s.canPay (fltCoins e 12 16) = true) :
    ∃ row, GivesRow (.vscan d a m q e) s (fltCoins e 12 16) pop d row
        (scanFlags (ewFmt e) s.rm (s.m m) (fltSize e) x (64 / fltSize e)) ∧
      ∀ j, j < 64 / fltSize e → lane (fltSize e) row j =
        if active (s.m m) (fltSize e) j then (scanOut (ewFmt e) s.rm (s.m m) (fltSize e) x j).bits % 2 ^ (8 * fltSize e)
        else lane (fltSize e) (s.v d) j := by
  refine ⟨_, givesRow_of_vecFinish (exec_vscan s d a m q e) hsrc hp (fun p => by rw [scanLanes_eq]), fun j hj => ?_⟩
  rw [lane_packLanes _ _ hj, List.getD_eq_getElem?_getD, List.getElem?_map, List.getElem?_range hj, Option.map_some, Option.getD_some,
    scanElem]
  split
  · rfl
  · exact Nat.mod_eq_of_lt (lane_lt _ _ _)

theorem exec_vrsumi (s : State) (d a : BitVec 5) (m : BitVec 3) (q e : BitVec 2) :
    exec (.vrsumi d a m q e) s = vecFinish s 6 q a 0 (fun x _ p => p.setV d (packLanes 8
      [((treeRoot (fun u v : Word => u + v)
        (leaves (s.m m) (intSize e) (fun j => BitVec.ofInt 64 (signedOf (8 * intSize e) (lane (intSize e) x j))))).getD 0).toNat])) := rfl

/-- VRSUMI: the sum modulo 2^64 in bytes 0 to 7, and no flag. -/
theorem givesRow_vrsumi {s : State} {d a : BitVec 5} {m : BitVec 3} {q e : BitVec 2} {x y : Row} {pop : Option (Fin 8)}
    (hsrc : vSources s q a 0 = .got x y pop) (hp : s.canPay 6 = true) :
    ∃ row, GivesRow (.vrsumi d a m q e) s 6 pop d row flNone ∧
      row.toNat = (((List.range (64 / intSize e)).map (activeSigned (s.m m) (intSize e) x)).sum % 2 ^ 64).toNat := by
  have hlanes : 64 / intSize e = 2 ^ (6 - e.toNat) := by revert e; decide
  refine ⟨_, givesRow_of_vecFinish (exec_vrsumi s d a m q e) hsrc hp (fun p => (raise_flNone_setV p d _).symm), ?_⟩
  rw [toNat_packLanes_word, treeRoot_signed_toNat _ _ hlanes (by omega)]

/-- Settles O16: the model's levels of lists are the tree's levels of nodes, the tree of sums is the sum of its leaves, and the fold of a
running sum holds at each lane the node of the last active lane below it. -/
theorem laneReductions : Obligations.LaneReductions := by
  intro s d a m q e x y pop hsrc f z c depth leaf root only
  refine ⟨leafF_eq f, joinF_eq, fun hp => ?sum, fun hp => ⟨?max, ?min, ?sumInt⟩, fun hp => ?scan⟩
  case sum => exact givesRow_vRed (empty := fun _ => 0) (g := fAdd) rfl rfl hsrc hp
  case max =>
    exact givesRow_vRed (empty := fun f => f.signBit true + f.infBits) (g := fun f _ => fMinMax true f) rfl (ite_self 6) hsrc hp
  case min => exact givesRow_vRed (empty := fun f => f.infBits) (g := fun f _ => fMinMax false f) rfl (ite_self 6) hsrc hp
  case sumInt => exact givesRow_vrsumi hsrc hp
  case scan =>
    obtain ⟨row, hrow, hlanes⟩ := givesRow_vscan hsrc hp
    exact ⟨row, _, hrow, scanOut f s.rm (s.m m) z x, scanOut_eq f s.rm (s.m m) z x, hlanes,
      getLsbD_scanFlags f s.rm (s.m m) z x (64 / z)⟩

end Sys2Proof.Machine
end
